-- ==== Sys2Proof/Word.lean ====
section
/-! DEFINITION. The byte of the part's lines and character codes, and the plainest helpers over it. -/
namespace Sys2Proof

/-- One byte of a frame, or one 8-bit character code (R22, R188). -/
abbrev Byte := BitVec 8

/-- The byte holding the low eight bits of a number. -/
def byte (n : Nat) : Byte := BitVec.ofNat 8 n

/-- The character codes of fixed wording (all of it lies in 0x20..0x7E). -/
def asc (s : String) : List Byte := s.toList.map fun c => byte c.toNat

end Sys2Proof
end

