-- ==== Sys2Proof/Config.lean ====
section
/-! DEFINITION. What the part fixes: sizes of its pools and tables, thresholds of its supply inputs. The fifteen
configuration PARAMETERS of section 11.7 are state, not constants: Machine/State.lean holds them. -/
namespace Sys2Proof.Config

/-- Blocks of the text pool (R14). -/
def textBlocks : Nat := 1024
/-- Character codes in one block (R13). -/
def blockCodes : Nat := 16
/-- Most character codes of one variant (R13). -/
def maxVariant : Nat := 64
/-- Most stop records (R28). -/
def maxStops : Nat := 64
/-- Leg records of the pool (R95). -/
def legRecords : Nat := 2048
/-- Top of the service clock (R37). -/
def clockTop : Nat := 172799
/-- Saturation of a delay in seconds (R62). -/
def delayTop : Int := 59940
/-- Items of the coupler line queue (R77). -/
def lineQueueMax : Nat := 16
/-- Items sent in one grant (R76). -/
def grantItems : Nat := 4
/-- Pairs of the late-answer set (R89). -/
def lateMax : Nat := 8
/-- Entries of the in-flight table (R191). -/
def inFlightMax : Nat := 4
/-- Refusal replies that may be queued (R190). -/
def refusalMax : Nat := 3
/-- Missed operations after which an endpoint is set aside (R167). -/
def missMax : Nat := 3
/-- Probe time of an ABSENT endpoint in seconds (R167). -/
def probeSeconds : Nat := 5
/-- Seconds after which evidence is stale (R123). -/
def evidenceSeconds : Nat := 60
/-- Characters of a displayed line (R25). -/
def lineWidth : Nat := 40
/-- Largest body of a host frame (R188). -/
def maxBody : Nat := 1024
/-- Bytes of the longest host frame: start byte, length, kind, tag, body and CRC (R188). -/
def maxFrame : Nat := 1031
/-- Drop threshold of the main supply monitor, in millivolts (section 10.11). -/
def dropMv : Nat := 1100
/-- Restore threshold of the main supply monitor, in millivolts (section 10.11). -/
def restoreMv : Nat := 1250
/-- Nominal level at the main supply monitor input, in millivolts (section 10.11). -/
def nominalMv : Nat := 1500
/-- The retention supply is OK at or above this level, in millivolts (R175). -/
def retentionOkMv : Nat := 2900
/-- Top of the release and orphan counts (R112). -/
def countTop : Nat := 65535

end Sys2Proof.Config
end

