-- ==== Sys2Proof/Syntax.lean ====
section
/-! DEFINITION. The commands of the part: one constructor of `Instr` for each row of spec/opcode_table.json, with the
operands the row's event or frame carries. A host request carries its tag and the raw bytes of its body (R188, R194,
R195); `Machine/Operands.lean` reads the fields. -/
namespace Sys2Proof

/-- A unit end (section 1.1 of the Unit Description chapter). -/
inductive UnitEnd where
  | a | b
deriving DecidableEq, Repr

/-- The other end of the unit. -/
def UnitEnd.other : UnitEnd → UnitEnd
  | .a => .b
  | .b => .a

/-- Kinds of endpoint, in the order of R4 and of the encoding of R195. -/
inductive EpKind where
  | seat | interior | exterior
deriving DecidableEq, Repr

/-- An endpoint address: coach index, kind, number (R4). -/
structure EpAddr where
  coach : Nat
  kind : EpKind
  number : Nat
deriving DecidableEq, Repr

/-- States of the progress record, in the order of R39. -/
inductive PState where
  | idle | loading | standing | departed | approaching | halted | terminated
deriving DecidableEq, Repr

/-- The progress snapshot a beacon carries (R74); a field absent in the leader's record is `none`. -/
structure Snapshot where
  state : PState
  p : Option Nat
  n : Option Nat
  halt : Option Nat
  d : Option Nat
  arr : Option Nat
  dep : Option Nat
  stale : Bool
deriving DecidableEq, Repr

/-- A BEACON frame (R74). -/
structure BeaconFrame where
  leader : Nat
  epoch : Nat
  cycle : Nat
  clock : Nat
  clockSet : Bool
  route : Nat
  snap : Snapshot
deriving DecidableEq, Repr

/-- Orientation of a unit within a formation (R70, R83). `unknown` occurs only for a STANDALONE or ISOLATED part
without a qualifying end. -/
inductive Orientation where
  | forward | reversed | unknown
deriving DecidableEq, Repr

/-- One entry of a formation's unit list (R83). The coach count is the length of the list of booked numbers. -/
structure UnitEntry where
  unitId : Nat
  orientation : Orientation
  booked : List Nat
  portion : Nat
  route : Nat
deriving DecidableEq, Repr

/-- A ROLL_ANSWER frame (R80). -/
structure RollAnswerFrame where
  position : Nat
  unitId : Nat
  booked : List Nat
  portion : Nat
  route : Nat
  front : UnitEnd
deriving DecidableEq, Repr

/-- The two notice levels, STAFF and SERVICE. -/
inductive NoticeLevel where
  | staff | service
deriving DecidableEq, Repr

/-- Targets of a notice (R147). -/
inductive Targets where
  | all | unit | coaches (numbers : List Nat)
deriving DecidableEq, Repr

/-- One carried text variant of a forwarded notice: slot number and codes (R87). -/
structure VariantText where
  slot : Nat
  codes : List Byte
deriving DecidableEq, Repr

/-- What a NOTICE_FWD asks for: a raise with the notice and its text, or a clear (R87). -/
inductive FwdBody where
  | raise (level : NoticeLevel) (subPriority : Nat) (targets : Targets) (duration : Nat) (text : List VariantText)
  | clear
deriving DecidableEq, Repr

/-- A NOTICE_FWD frame (R87). -/
structure NoticeFwdFrame where
  origin : Nat
  noticeId : Nat
  number : Nat
  epoch : Nat
  dests : List Nat
  body : FwdBody
deriving DecidableEq, Repr

/-- A NOTICE_ANS frame (R88); `full` is the result FULL, otherwise OK. -/
structure NoticeAnsFrame where
  origin : Nat
  noticeId : Nat
  number : Nat
  epoch : Nat
  unitId : Nat
  full : Bool
deriving DecidableEq, Repr

/-- One coach of a TALLY frame (R91). -/
structure TallyCoach where
  position : Nat
  booked : Nat
  freeEnd : Nat
  freeDivide : Nat
deriving DecidableEq, Repr

/-- A TALLY frame (R91); its coaches stand in coach index order of the sending unit. -/
structure TallyFrame where
  unitId : Nat
  epoch : Nat
  portion : Nat
  route : Nat
  coaches : List TallyCoach
deriving DecidableEq, Repr

/-- What a POLL_REPLY carries beside the held version (section 9.1): a seat's raw level, a panel's status, or nothing
(a seat unit without a sensor). -/
inductive PollStatus where
  | nothing | level (raw : Nat) | ok | fault
deriving DecidableEq, Repr

/-- The four content levels that keep one context each (R136). -/
inductive ProgLevel where
  | idle | journey | approach | standing
deriving DecidableEq, Repr

/-- A rotation: the context of a level, or the rotation of a notice slot (R136). -/
inductive ContextId where
  | level (l : ProgLevel)
  | slot (l : NoticeLevel) (index : Nat)
deriving DecidableEq, Repr

/-- The commands, one constructor per row of spec/opcode_table.json. -/
inductive Instr where
  -- host requests: tag and body of a frame that passed its CRC (R194)
  | configSet (tag : Byte) (body : List Byte)
  | configGet (tag : Byte) (body : List Byte)
  | unitSetup (tag : Byte) (body : List Byte)
  | coachNumbers (tag : Byte) (body : List Byte)
  | portionSet (tag : Byte) (body : List Byte)
  | textPut (tag : Byte) (body : List Byte)
  | textDrop (tag : Byte) (body : List Byte)
  | routeOpen (tag : Byte) (body : List Byte)
  | stopPut (tag : Byte) (body : List Byte)
  | routeClose (tag : Byte) (body : List Byte)
  | routeClear (tag : Byte) (body : List Byte)
  | stopAmend (tag : Byte) (body : List Byte)
  | time (tag : Byte) (body : List Byte)
  | departed (tag : Byte) (body : List Byte)
  | position (tag : Byte) (body : List Byte)
  | arrived (tag : Byte) (body : List Byte)
  | legAdd (tag : Byte) (body : List Byte)
  | legCancel (tag : Byte) (body : List Byte)
  | legRestore (tag : Byte) (body : List Byte)
  | seatQuery (tag : Byte) (body : List Byte)
  | tallyQuery (tag : Byte) (body : List Byte)
  | noticeRaise (tag : Byte) (body : List Byte)
  | noticeClear (tag : Byte) (body : List Byte)
  | levelQuery (tag : Byte) (body : List Byte)
  | statusQuery (tag : Byte) (body : List Byte)
  | endpointQuery (tag : Byte) (body : List Byte)
  | eventClear (tag : Byte) (body : List Byte)
  | restart (tag : Byte) (body : List Byte)
  -- other events of the host port (R189 to R191)
  | unknownKindFrame (kind tag : Byte) (body : List Byte)
  | frameGapTimeout
  | frameSent
  -- supply and start-up
  | mainLevelFall (mv : Nat)
  | mainLevelRise (mv : Nat)
  | mainBreak
  | mainReturn (retentionMv : Nat)
  | retentionLow
  | retentionOk
  | holdTimeExpiry
  | extendedHoldExpiry
  | clearingEnd
  | resetAssert
  | resetRelease
  | settleLimitReached
  -- time and reservations
  | clockTick
  | claimDeadline (legId : Nat)
  -- unit-end inputs and the coupler line
  | coupledSenseChange (e : UnitEnd) (coupled : Bool)
  | couplingEvent (e : UnitEnd)
  | cabActiveChange (e : UnitEnd) (active : Bool)
  | rollSensed (e : UnitEnd)
  | claim
  | lineCycle
  | requestWindowEnd
  | beacon (f : BeaconFrame)
  | windowResponse (unitId cycle level : Nat)
  | openSlotMark
  | grant (leader unitId cycle : Nat)
  | releaseMark
  | rollCall (unitId epoch : Nat)
  | rollAnswer (f : RollAnswerFrame)
  | rollAnswerSilence
  | formation (leader epoch : Nat) (units : List UnitEntry)
  | formationReq (unitId epoch : Nat)
  | noticeFwd (f : NoticeFwdFrame)
  | noticeAns (f : NoticeAnsFrame)
  | tally (f : TallyFrame)
  | beaconLoss
  | absenceTimeExpiry (unitId : Nat)
  | answerTimeExpiry (number : Nat)
  | spacingTimeExpiry
  | lineQueueWithdrawal
  -- the display line
  | ack (addr : EpAddr) (version : Nat)
  | pollReply (addr : EpAddr) (held : Option Nat) (status : PollStatus)
  | replyWindowExpiry
  | probeTimeExpiry (addr : EpAddr)
  -- timers of seats and panels
  | evidenceAgeExpiry (coach seat : Nat)
  | dwellExpiry (ctx : ContextId)
  | noticeExpiry (level : NoticeLevel) (slot : Nat)
  | stablingExpiry
  -- bytes of the host line; `rest` are the bytes that follow the start byte before the next command of the line, none if not given
  | frameStartByte (rest : List Byte := [])
  | frameLengthError (length : Nat)
  | frameCrcError (kind tag : Byte) (body : List Byte) (crc : BitVec 16)
deriving DecidableEq, Repr

end Sys2Proof
end

