-- ==== Sys2Proof/WellFormed.lean ====
section
/-! DEFINITION. Which commands are well formed: every operand lies in the range its frame or event can carry. -/
namespace Sys2Proof

/-- A text variant fits a frame: its slot and length fields are one byte each (R195). -/
def VariantText.wf (v : VariantText) : Bool := v.slot ≤ 255 && v.codes.length ≤ 255

/-- A list of booked numbers as a formation entry carries it: at most eight, each 1..99 (R2, R83). -/
def bookedWf (ns : List Nat) : Bool := ns.length ≤ 8 && ns.all fun n => 1 ≤ n && n ≤ 99

/-- A formation entry with every field in range (R83). -/
def UnitEntry.wf (u : UnitEntry) : Bool :=
  u.unitId ≤ 65535 && bookedWf u.booked && u.portion ≤ 2 && u.route ≤ 65535

/-- An absent field, or one in 0..m. -/
def optLe (m : Nat) : Option Nat → Bool
  | none => true
  | some v => v ≤ m

/-- A snapshot whose indices and clock values are in range, and whose fields are present as R39 states. -/
def Snapshot.wf (x : Snapshot) : Bool :=
  optLe 63 x.p && optLe 63 x.n && optLe 63 x.halt && optLe 4194240 x.d && optLe 172799 x.arr && optLe 172799 x.dep &&
    (x.halt.isSome == (x.state == .halted)) &&
    (x.p.isNone == (x.state == .idle || x.state == .loading)) &&
    (x.n.isNone == (x.state == .idle || x.state == .loading || x.state == .terminated))

/-- A beacon with every field in the range of R74. -/
def BeaconFrame.wf (f : BeaconFrame) : Bool :=
  1 ≤ f.leader && f.leader ≤ 65535 && f.epoch ≤ 255 && f.cycle ≤ 65535 && f.clock ≤ 172799 && f.route ≤ 65535 && f.snap.wf

/-- A roll answer with every field in the range of R80. -/
def RollAnswerFrame.wf (f : RollAnswerFrame) : Bool :=
  2 ≤ f.position && f.position ≤ 255 && f.unitId ≤ 65535 && bookedWf f.booked && f.portion ≤ 2 && f.route ≤ 65535

/-- Targets in the range of R147. -/
def Targets.wf : Targets → Bool
  | .coaches ns => 1 ≤ ns.length && ns.length ≤ 4 && ns.all fun n => 1 ≤ n && n ≤ 99
  | _ => true

/-- A forwarded notice with every field in the range of R86 and R87; its text is checked by R20, not here. -/
def NoticeFwdFrame.wf (f : NoticeFwdFrame) : Bool :=
  1 ≤ f.origin && f.origin ≤ 65535 && 1 ≤ f.noticeId && f.noticeId ≤ 65535 && f.number ≤ 255 && f.epoch ≤ 255 &&
    f.dests.length ≤ 2 &&
    match f.body with
    | .raise _ sub t d vs => sub ≤ 3 && t.wf && d ≤ 3600 && vs.all VariantText.wf
    | .clear => true

/-- A notice answer with every field in the range of R88. -/
def NoticeAnsFrame.wf (f : NoticeAnsFrame) : Bool :=
  1 ≤ f.origin && f.origin ≤ 65535 && 1 ≤ f.noticeId && f.noticeId ≤ 65535 && f.number ≤ 255 && f.epoch ≤ 255 &&
    1 ≤ f.unitId && f.unitId ≤ 65535

/-- A tally frame with every field in the range of R91; the coaches of one unit stand at different positions (R83). -/
def TallyFrame.wf (f : TallyFrame) : Bool :=
  1 ≤ f.unitId && f.unitId ≤ 65535 && f.epoch ≤ 255 && f.portion ≤ 2 && f.route ≤ 65535 && f.coaches.length ≤ 8 &&
    (f.coaches.all fun c => 1 ≤ c.position && c.position ≤ 24 && 1 ≤ c.booked && c.booked ≤ 99 && c.freeEnd ≤ 96 &&
      c.freeDivide ≤ 96) && decide (f.coaches.map (·.position)).Nodup

/-- An endpoint address in the range of R4. -/
def EpAddr.wf (a : EpAddr) : Bool :=
  a.coach ≤ 7 &&
    match a.kind with
    | .seat => a.number ≤ 95
    | _ => 1 ≤ a.number && a.number ≤ 2

/-- A poll status that a frame can carry (section 9.1). -/
def PollStatus.wf : PollStatus → Bool
  | .level raw => raw ≤ 255
  | _ => true

/-- A rotation that exists (R136, R147). -/
def ContextId.wf : ContextId → Bool
  | .level _ => true
  | .slot _ i => i ≤ 3

/-- A body that fits a host frame (R188). -/
def bodyWf (body : List Byte) : Bool := body.length ≤ Config.maxBody

/-- The well-formedness of a command. -/
def Instr.wf : Instr → Bool
  | .configSet _ b => bodyWf b
  | .configGet _ b => bodyWf b
  | .unitSetup _ b => bodyWf b
  | .coachNumbers _ b => bodyWf b
  | .portionSet _ b => bodyWf b
  | .textPut _ b => bodyWf b
  | .textDrop _ b => bodyWf b
  | .routeOpen _ b => bodyWf b
  | .stopPut _ b => bodyWf b
  | .routeClose _ b => bodyWf b
  | .routeClear _ b => bodyWf b
  | .stopAmend _ b => bodyWf b
  | .time _ b => bodyWf b
  | .departed _ b => bodyWf b
  | .position _ b => bodyWf b
  | .arrived _ b => bodyWf b
  | .legAdd _ b => bodyWf b
  | .legCancel _ b => bodyWf b
  | .legRestore _ b => bodyWf b
  | .seatQuery _ b => bodyWf b
  | .tallyQuery _ b => bodyWf b
  | .noticeRaise _ b => bodyWf b
  | .noticeClear _ b => bodyWf b
  | .levelQuery _ b => bodyWf b
  | .statusQuery _ b => bodyWf b
  | .endpointQuery _ b => bodyWf b
  | .eventClear _ b => bodyWf b
  | .restart _ b => bodyWf b
  | .unknownKindFrame k _ b => bodyWf b && (k.toNat == 0 || 28 < k.toNat)
  | .frameGapTimeout => true
  | .frameSent => true
  | .mainLevelFall mv => mv ≤ Config.restoreMv
  | .mainLevelRise mv => Config.dropMv ≤ mv
  | .mainBreak => true
  | .mainReturn _ => true
  | .retentionLow => true
  | .retentionOk => true
  | .holdTimeExpiry => true
  | .extendedHoldExpiry => true
  | .clearingEnd => true
  | .resetAssert => true
  | .resetRelease => true
  | .settleLimitReached => true
  | .clockTick => true
  | .claimDeadline i => 1 ≤ i && i ≤ 65535
  | .coupledSenseChange _ _ => true
  | .couplingEvent _ => true
  | .cabActiveChange _ _ => true
  | .rollSensed _ => true
  | .claim => true
  | .lineCycle => true
  | .requestWindowEnd => true
  | .beacon f => f.wf
  | .windowResponse u c l => 1 ≤ u && u ≤ 65535 && c ≤ 65535 && l ≤ 3
  | .openSlotMark => true
  | .grant l u c => 1 ≤ l && l ≤ 65535 && u ≤ 65535 && c ≤ 65535
  | .releaseMark => true
  | .rollCall u e => u ≤ 65535 && e ≤ 255
  | .rollAnswer f => f.wf
  | .rollAnswerSilence => true
  | .formation l e us => l ≤ 65535 && e ≤ 255 && 1 ≤ us.length && us.length ≤ 3 && us.all UnitEntry.wf
  | .formationReq u e => 1 ≤ u && u ≤ 65535 && e ≤ 255
  | .noticeFwd f => f.wf
  | .noticeAns f => f.wf
  | .tally f => f.wf
  | .beaconLoss => true
  | .absenceTimeExpiry u => u ≤ 65535
  | .answerTimeExpiry n => n ≤ 255
  | .spacingTimeExpiry => true
  | .lineQueueWithdrawal => true
  | .ack a v => a.wf && v ≤ 255
  | .pollReply a h st => a.wf && optLe 255 h && st.wf
  | .replyWindowExpiry => true
  | .probeTimeExpiry a => a.wf
  | .evidenceAgeExpiry c s => c ≤ 7 && s ≤ 95
  | .dwellExpiry c => c.wf
  | .noticeExpiry _ i => i ≤ 3
  | .stablingExpiry => true
  | .frameStartByte rest => rest.length < Config.maxFrame
  | .frameLengthError n => Config.maxBody < n && n ≤ 65535
  | .frameCrcError _ _ b _ => bodyWf b

end Sys2Proof
end

