-- ==== Sys2Proof/Decode.lean ====
section
/-! DEFINITION. The command a word spells by the bits of spec/opcode_table.json. No row of that table gives bits (the
commands arrive as frames and events, not as instruction words), so no word spells a command. -/
namespace Sys2Proof

/-- The command spelled by the `nbits`-bit word `w`: none, since no row of the table has bits. -/
def decodeTableWord (_nbits _w : Nat) : Option Instr := none

end Sys2Proof
end

