-- ==== Sys2Proof/Machine/State.lean ====
section
/-! DEFINITION. The state of the part, block by block in the order of the manual's chapters, as plain data. The default
of every field is the value its chapter gives after a cold start, so that `({} : Part)` is the cold state; a field whose
default the spec does not give names its log entry. -/
namespace Sys2Proof.Machine

/-! ### Unit Description (R2, R5) -/

/-- One seat position of a coach record (R2). -/
structure SeatRec where
  label : Nat
  unitFitted : Bool
  sensorFitted : Bool
deriving DecidableEq, Repr

/-- A coach record (R2). The seat count is the length of `seats`. -/
structure CoachRec where
  booked : Nat
  seats : List SeatRec
  interiorA : Bool
  interiorB : Bool
  exterior1 : Bool
  exterior2 : Bool
deriving DecidableEq, Repr

/-- The staging record (section 1.4): the next expected coach index is the number of coaches collected. -/
structure Staging where
  unitId : Nat
  coachCount : Nat
  coaches : List CoachRec
deriving DecidableEq, Repr

/-- The Unit Description block. The coach count is the length of `coaches`. -/
structure UnitDesc where
  unitId : Nat := 0
  coaches : List CoachRec := []
  portionTag : Nat := 0
  staging : Option Staging := none
deriving DecidableEq, Repr

/-! ### Text Store (R13, R14) -/

/-- A present variant: its codes and the chain of block numbers that holds them (log entry 20). -/
structure Variant where
  codes : List Byte
  chain : List Nat
deriving DecidableEq, Repr

/-- A text entry; slot 0 is always present (R13). Its origin is HOST for handles 1..191 and REMOTE above. -/
structure TextEntry where
  v0 : Variant
  v1 : Option Variant
  v2 : Option Variant
  refs : Nat
deriving DecidableEq, Repr

/-- The Text Store: entries by handle in rising order, and the free block list, head first. -/
structure TextStore where
  entries : List (Nat × TextEntry) := []
  free : List Nat := List.range Config.textBlocks
deriving DecidableEq, Repr

/-! ### Route and Progress (R28, R37, R39) -/

/-- A portion mask: bit k is portion k. -/
abbrev PortionMask := BitVec 3

/-- A scheduled time: BCD hour and minute, and the day flag (section 1.6 of the scope chapter). -/
structure SchedTime where
  hh : Byte
  mm : Byte
  day : Nat
deriving DecidableEq, Repr

/-- Platform sides in the order of R28. -/
inductive Side where
  | left | right | both | none
deriving DecidableEq, Repr

/-- An inbound entry (R28). -/
structure Inbound where
  mask : PortionMask
  length : Nat
  recovery : Nat
deriving DecidableEq, Repr

/-- A stop record (R28). -/
structure StopRec where
  name : Nat
  short : Option Nat
  mask : PortionMask
  arr : Option SchedTime
  dep : Option SchedTime
  dwell : Nat
  approach : Nat
  side : Side
  inbound : List Inbound
  divide : Bool
  join : Bool
  reverse : Bool
  cancelled : Bool
deriving DecidableEq, Repr

/-- Source of progress (R39, R45). -/
inductive Source where
  | own | beacon
deriving DecidableEq, Repr

/-- The progress record (R39). -/
structure Progress where
  state : PState := .idle
  p : Option Nat := none
  n : Option Nat := none
  halt : Option Nat := none
  d : Option Nat := none
  arr : Option Nat := none
  dep : Option Nat := none
  stale : Bool := false
  source : Source := .own
deriving DecidableEq, Repr

/-- Route and Progress: the route table, the own portion sequence, the progress record and the service clock. -/
structure Route where
  id : Nat := 0
  train : Option Nat := none
  stops : List StopRec := []
  ownSeq : List Nat := []
  prog : Progress := {}
  clock : Nat := 0
  clockSet : Bool := false
  /-- CLOCK_RANGE has latched since the clock was last written (R37). -/
  rangeLatched : Bool := false
  /-- The route id the last beacon received carried (R45). -/
  beaconRoute : Option Nat := none
  /-- The epoch at which ROUTE_MISMATCH last latched (R45). -/
  mismatchEpoch : Option Nat := none
deriving DecidableEq, Repr

/-! ### Estimate Unit (R51) -/

/-- An entry of the estimate list (R51). -/
structure EstEntry where
  stop : Nat
  delay : Option Int
  minutes : Option Int
  shown : Bool
  expected : Option Nat
deriving DecidableEq, Repr

/-- The estimate list and its state, VALID or SUSPENDED. -/
structure Estimates where
  valid : Bool := false
  entries : List EstEntry := []
deriving DecidableEq, Repr

/-! ### Formation Controller (R68 to R93) -/

/-- A value for each unit end. -/
structure Ends (α : Type) where
  a : α
  b : α
deriving DecidableEq, Repr

/-- The value at an end. -/
def Ends.get {α : Type} (x : Ends α) : UnitEnd → α
  | .a => x.a
  | .b => x.b

/-- The pair with the value at an end replaced. -/
def Ends.set {α : Type} (x : Ends α) (e : UnitEnd) (v : α) : Ends α :=
  match e with
  | .a => { x with a := v }
  | .b => { x with b := v }

/-- Role states (section 5.2); FORMING has a leader side and a follower side. -/
inductive Role where
  | standalone | leading | following | formingLeader | formingFollower | isolated
deriving DecidableEq, Repr

/-- The formation record (R83). NUMBER_CLASH, the leader unit id and the coach position table are computed from the unit
list (log entry 19); the own list index counts from 1. -/
structure FormRecord where
  epoch : Nat
  units : List UnitEntry
  ownIndex : Nat
deriving DecidableEq, Repr

/-- An item of the line queue (R77). A NOTICE_FWD item names its outstanding-forward entry by the host tag. -/
inductive LineItem where
  | noticeFwd (tag : Byte)
  | noticeAns (origin noticeId number : Nat) (full : Bool)
  | formationReq
  | tally
deriving DecidableEq, Repr

/-- What a forwarded RAISE keeps of its notice (R86). -/
structure RaiseData where
  handle : Nat
  level : NoticeLevel
  subPriority : Nat
  targets : Targets
  duration : Nat
deriving DecidableEq, Repr

/-- An outstanding-forward entry (R86); `raise` is absent for a CLEAR. The phase is SENT once a forward number is assigned. -/
structure Forward where
  tag : Byte
  noticeId : Nat
  raise : Option RaiseData
  dests : List Nat
  number : Option Nat
  awaited : List Nat
  full : List Nat
deriving DecidableEq, Repr

/-- An entry of the train tally table (R90). -/
structure TallyEntry where
  position : Nat
  booked : Nat
  unitId : Nat
  freeEnd : Nat
  freeDivide : Nat
  epoch : Nat
deriving DecidableEq, Repr

/-- The Formation Controller. -/
structure Formation where
  role : Role := .standalone
  record : FormRecord := { epoch := 0, units := [{ unitId := 0, orientation := .unknown, booked := [], portion := 0, route := 0 }],
                           ownIndex := 1 }
  /-- Raw COUPLED senses; their level at reset is log entry 2. -/
  coupledRaw : Ends Bool := { a := false, b := false }
  /-- Debounced COUPLED states (R68). -/
  coupled : Ends Bool := { a := false, b := false }
  /-- Running debounce time of each end, with its length in ms. -/
  debounce : Ends (Option Nat) := { a := none, b := none }
  /-- CAB-ACTIVE senses; their level at reset is log entry 2. -/
  cab : Ends Bool := { a := false, b := false }
  /-- The qualifying end as last evaluated (R69). -/
  qualEnd : Option UnitEnd := none
  /-- ROLL driven out of an end (R69). -/
  drive : Ends Bool := { a := false, b := false }
  /-- Leader side: the answers of the roll call in progress (R79). -/
  rollCall : Option (List RollAnswerFrame) := none
  /-- A LEADING part starts a roll call at the end of the current cycle (R78). -/
  rollPending : Bool := false
  /-- A coupling event reached a leader-side FORMING part (R78). -/
  rollAgain : Bool := false
  /-- Follower side: a ROLL_CALL was heard and ROLL is awaited (R80). -/
  waiting : Bool := false
  /-- Follower side: the front end taken when this roll call was answered (R80). -/
  rollFront : Option UnitEnd := none
  /-- Follower side: ROLL_ANSWER frames heard since the ROLL_CALL (R80). -/
  heardAnswers : Nat := 0
  /-- Cycle count of the last beacon sent (R74). -/
  cycleCount : Nat := 0
  /-- The request window of the current cycle is open (R75). -/
  windowOpen : Bool := false
  /-- Responses of the open window: unit id and level. -/
  responses : List (Nat × Nat) := []
  /-- Cycle count of the last beacon heard (R75, R76). -/
  heardCycle : Option Nat := none
  /-- The unit whose grant is in force (R76). -/
  grant : Option Nat := none
  /-- The units whose last grant has ended: no frame of theirs is taken until they are granted again (R76). -/
  ended : List Nat := []
  queue : List LineItem := []
  forwards : List Forward := []
  /-- The late-answer set, oldest pair first: forward number and unit id (R89). -/
  late : List (Nat × Nat) := []
  /-- The forward number last assigned (R86). -/
  lastNumber : Nat := 0
  spacing : Bool := false
  tallyPending : Bool := false
  trainTally : List TallyEntry := []
  /-- The running beacon loss time, with its length in seconds (R84). -/
  beaconLoss : Option Nat := none
  /-- The running absence times: unit id and length in seconds (R85). -/
  absence : List (Nat × Nat) := []
deriving DecidableEq, Repr

/-! ### Reservation Store (R94 to R96) -/

/-- Leg states (R94). -/
inductive LegState where
  | booked | claimed | released | orphaned
deriving DecidableEq, Repr

/-- Claim phases (R94), with the deadline of TIMED and the polls seen of DEFERRED. -/
inductive Phase where
  | ahead | opened | timed (deadline : Nat) | deferred (polls : Nat) | done
deriving DecidableEq, Repr

/-- An allocated leg record (R94). -/
structure Leg where
  id : Nat
  coach : Nat
  seat : Nat
  frm : Nat
  till : Nat
  noRelease : Bool
  state : LegState
  phase : Phase
deriving DecidableEq, Repr

/-- Display states of a seat unit, in the order of R115. -/
inductive SeatDisplay where
  | noService | reserved | freeUntil | free
deriving DecidableEq, Repr

/-- What the Store holds of a seat beside its legs: free horizon, display state and the stop the display names (R113 to R116). -/
structure SeatView where
  horizon : Option Nat := none
  display : SeatDisplay := .noService
  stop : Option Nat := none
deriving DecidableEq, Repr

/-- The Reservation Store. `legs` holds every allocated record, ordered by coach, seat, from and leg id, so that a seat's
leg list is the part of it that names the seat (R96); the free records are the rest of the 2,048. -/
structure Reservations where
  legs : List Leg := []
  releaseCount : Nat := 0
  orphanCount : Nat := 0
  views : List (List SeatView) := []
deriving DecidableEq, Repr

/-! ### Seat Sense and Tally (R120, R126, R130) -/

/-- A sensor record (R120). The evidence is FRESH exactly while an evidence age is present (R123). -/
structure Sensor where
  occupied : Bool := false
  run : Nat := 0
  age : Option Nat := none
  frozen : Bool := false
deriving DecidableEq, Repr

/-- An entry of the seat summary list (R130). -/
structure SummaryEntry where
  position : Nat
  booked : Nat
  freeEnd : Nat
  freeDivide : Nat
deriving DecidableEq, Repr

/-- Seat Sense and Tally: sensor records by coach and seat, the own tally (columns and rows), the two counts of each own
coach, and the seat summary list. -/
structure SeatSense where
  sensors : List (List Sensor) := []
  columns : List Nat := []
  rows : List (List Nat) := []
  counts : List (Nat × Nat) := []
  summary : List SummaryEntry := []
deriving DecidableEq, Repr

/-! ### Panel Composer (R134 to R157) -/

/-- A piece of a line of the part's own pages: fixed characters, the text of a handle inserted as a value, the minute of the
service clock, blank while the clock is unset (R140), or what line 3 of the approach page says of a stop's estimate (R142). -/
inductive Piece where
  | lit (codes : List Byte)
  | text (handle : Nat)
  | clock
  | expected (stop : Nat)
deriving DecidableEq, Repr

/-- A page, free of language and panel: three lines of a page of the part's own making with the stops whose estimates it
shows, or the k-th page of a notice text. -/
inductive Page where
  | composed (lines : List (List Piece)) (stops : List Nat)
  | notice (handle k : Nat)
deriving DecidableEq, Repr

/-- A context or slot rotation (R136); `inUse` is held so that a resumption is seen (R138). -/
structure Context where
  pages : List Page := []
  index : Nat := 0
  lang : Nat := 0
  dwell : Nat := 8
  inUse : Bool := false
deriving DecidableEq, Repr

/-- The content levels, 0 to 5 (R134). -/
inductive Level where
  | idle | journey | service | approach | standing | staff
deriving DecidableEq, Repr

/-- An occupied notice slot (R147); origin `none` is LOCAL, remaining time `none` is absent. -/
structure Slot where
  origin : Option Nat
  noticeId : Nat
  subPriority : Nat
  targets : Targets
  handle : Nat
  duration : Nat
  remaining : Option Nat
  rotation : Context
deriving DecidableEq, Repr

/-- What an own coach shows: its level, and the selected slot of each notice level (R135, R151). -/
structure CoachShow where
  shown : Level := .idle
  staff : Option Nat := none
  service : Option Nat := none
deriving DecidableEq, Repr

/-- Physical sides (R145). -/
inductive PhysSide where
  | side1 | side2 | both | none
deriving DecidableEq, Repr

/-- The standing side with the p it was computed for; `pending` while it waits for a known orientation (R145). -/
structure Standing where
  p : Nat
  side : PhysSide
  pending : Bool
deriving DecidableEq, Repr

/-- Brightness of the unit's panels (R156). -/
inductive Brightness where
  | bright | dim | dark
deriving DecidableEq, Repr

/-- The Panel Composer; `stabling` is the remaining time of a running stabling timer, in seconds. -/
structure Panels where
  staff : List (Option Slot) := [none, none, none, none]
  service : List (Option Slot) := [none, none, none, none]
  idleCtx : Context := { pages := [.composed [[], [], [.clock]] []] }
  journeyCtx : Context := {}
  approachCtx : Context := {}
  standingCtx : Context := {}
  coaches : List CoachShow := []
  standing : Option Standing := none
  brightness : Brightness := .bright
  stabling : Option Nat := none
deriving DecidableEq, Repr

/-- Exit arrows (R146). -/
inductive Arrow where
  | left | right | both | none
deriving DecidableEq, Repr

/-- The content record of a panel (R154, R155); an exterior panel has no arrow. -/
structure PanelContent where
  brightness : Brightness
  lines : List (List Byte)
  arrow : Arrow
deriving DecidableEq, Repr

/-- The content record of a seat unit (R116); the label is rendered as an unsigned number. -/
structure SeatContent where
  display : SeatDisplay
  dim : Bool
  label : List Byte
  line1 : List Byte
  line2 : List Byte
deriving DecidableEq, Repr

/-! ### Display Line Driver (R158 to R166) -/

/-- The last status of an endpoint (R159): a raw level, or a panel's status. -/
inductive EpStatus where
  | level (raw : Nat) | ok | fault
deriving DecidableEq, Repr

/-- An entry of the endpoint table (R159). `queued` of the spec is membership in the refresh queue; `rendered` is the
content the Panel Composer last rendered for a panel since the description was taken (R162). -/
structure EpEntry where
  addr : EpAddr
  present : Bool := true
  content : Nat := 0
  shown : Option Nat := none
  miss : Nat := 0
  probeTime : Option Nat := none
  probeDue : Bool := false
  status : Option EpStatus := none
  rendered : Option PanelContent := none
deriving DecidableEq, Repr

/-- Operations of the display line (R158), with the content version a transfer sent. -/
inductive LineOp where
  | transfer (version : Nat) | poll | probe
deriving DecidableEq, Repr

/-- The Display Line Driver; `lastTransfer` is the last-served field (true for TRANSFER). -/
structure Display where
  table : List EpEntry := []
  queue : List EpAddr := []
  probes : List EpAddr := []
  inFlight : Option (LineOp × EpAddr) := none
  mark : Option EpAddr := none
  lastTransfer : Bool := false
deriving DecidableEq, Repr

/-! ### Supply Monitor (R174 to R187) -/

/-- Supply modes (section 10.2). -/
inductive SupplyMode where
  | off | coldStart | run | breakHold | extendedHold
deriving DecidableEq, Repr

/-- Start causes, in the order of R186. -/
inductive StartCause where
  | cold | warm | warmExtended
deriving DecidableEq, Repr

/-- OFF reasons of the start record, in the order of R176. -/
inductive OffReason where
  | none | limit | expired | retention | reset
deriving DecidableEq, Repr

/-- The Supply Monitor. Times are in seconds; the levels at the two monitor inputs are in millivolts. -/
structure Supply where
  mode : SupplyMode := .coldStart
  mainBroken : Bool := false
  mainMv : Nat := Config.nominalMv
  /-- The one qualification time runs: of a break in PRESENT, of a return in BROKEN (R174). -/
  qualifying : Bool := false
  retentionLow : Bool := false
  breakCount : Nat := 0
  settle : Option Nat := none
  hold : Option Nat := none
  extHold : Option Nat := none
  startCause : StartCause := .cold
  lastOff : OffReason := .none
  resetAsserted : Bool := false
  /-- The 200 ms clearing counts (R177). -/
  clearing : Bool := false
deriving DecidableEq, Repr

/-! ### Host Port (R189 to R203) -/

/-- Result codes, in the order of R193. -/
inductive Result where
  | ok | busy | unknownKind | badField | badTime | wrongState | conflict | full | inUse | notFound | offRoute | following
  | part | linkFailed
deriving DecidableEq, Repr

/-- Phases of an in-flight request (R191). -/
inductive ReqPhase where
  | handed | waiting | sending
deriving DecidableEq, Repr

/-- An entry of the in-flight table (R191). -/
structure InFlight where
  tag : Byte
  kind : Byte
  phase : ReqPhase
deriving DecidableEq, Repr

/-- A frame of the send queue (R190): a reply of an in-flight entry, a refusal reply, or the EVENT frame. -/
inductive QFrame where
  | reply (tag kind : Byte) (result : Result) (detail : List Byte)
  | refusal (tag kind : Byte) (result : Result)
  | event
deriving DecidableEq, Repr

/-- The frame on the line to the host, its contents fixed when its sending began (R190, R198); `entry` is the tag of the
in-flight entry it answers. -/
structure SentFrame where
  kind : Byte
  tag : Byte
  body : List Byte
  entry : Option Byte
deriving DecidableEq, Repr

/-- Receiver states (R189). -/
inductive Receiver where
  | hunting | inFrame
deriving DecidableEq, Repr

/-- The fifteen configuration parameters (section 11.7) with their defaults. -/
structure Params where
  debounce : Nat := 2
  hysteresis : Nat := 20
  threshold : Nat := 3
  claimWindow : Nat := 15
  onThreshold : Nat := 24
  offThreshold : Nat := 12
  vacateHold : Nat := 6
  pageDwell : Nat := 8
  stabling : Nat := 10
  night : Nat := 0
  holdLimit : Nat := 20
  extHoldLimit : Nat := 15
  settleLimit : Nat := 600
  breakLimit : Nat := 6
  enable : BitVec 14 := 0x3FFF#14
deriving DecidableEq, Repr

/-- The Host Port: receiver, in-flight table, send queue, frame on the line, event latch set and parameters (the event
enable set among them). ATTENTION is computed (R197). -/
structure HostPort where
  receiver : Receiver := .hunting
  buffer : List Byte := []
  inFlight : List InFlight := []
  queue : List QFrame := []
  sending : Option SentFrame := none
  latched : BitVec 14 := 0#14
  params : Params := {}
deriving DecidableEq, Repr

/-! ### Frames the part sends (the model's own fields) -/

/-- A frame sent on the coupler line. -/
inductive LineFrame where
  | beacon (f : BeaconFrame)
  | response (unitId cycle level : Nat)
  | mark
  | grant (leader unitId cycle : Nat)
  | release
  | rollCall (unitId epoch : Nat)
  | rollAnswer (f : RollAnswerFrame)
  | formation (leader epoch : Nat) (units : List UnitEntry)
  | formationReq (unitId epoch : Nat)
  | noticeFwd (f : NoticeFwdFrame)
  | noticeAns (f : NoticeAnsFrame)
  | tally (f : TallyFrame)
deriving DecidableEq, Repr

/-- The content a TRANSFER carries: a seat unit's or a panel's record. -/
inductive EpContent where
  | seat (c : SeatContent)
  | panel (c : PanelContent)
deriving DecidableEq, Repr

/-- A frame sent on the display line (section 9.1). -/
inductive DispFrame where
  | transfer (addr : EpAddr) (version : Nat) (content : EpContent)
  | poll (addr : EpAddr)
deriving DecidableEq, Repr

/-- The frames the last command made the part send, oldest first (log entry 11). -/
structure Outputs where
  line : List LineFrame := []
  disp : List DispFrame := []
deriving DecidableEq, Repr

/-- The part: its eleven blocks, and the frames sent in the last step. -/
structure Part where
  unit : UnitDesc := {}
  text : TextStore := {}
  route : Route := {}
  est : Estimates := {}
  form : Formation := {}
  res : Reservations := {}
  seat : SeatSense := {}
  panel : Panels := {}
  disp : Display := {}
  supply : Supply := {}
  host : HostPort := {}
  out : Outputs := {}
deriving DecidableEq, Repr

/-- The machine: the part, and the commands that wait, first in first out. -/
structure State where
  part : Part
  pending : List Instr
deriving DecidableEq, Repr

/-- No command makes the part stop: every row of the table has an effect in every state, so the machine has no fault. -/
inductive Fault where
deriving DecidableEq, Repr

/-- Why a command has no meaning. Raised only by `exec` for a row without one; safe, since nothing is claimed of it.
No row is left so. -/
inductive Refusal where
  /-- The row of that mnemonic is not modelled. Safe. -/
  | notModelled (mnemonic : String)
deriving DecidableEq, Repr

/-- The part right after its first cold start (log entry 1): every block at its cold values, mode RUN with start cause
COLD and no OFF reason, START latched with its EVENT frame begun (R186, R203), the settle time at 0 (R183) and the
stabling timer started (R157). -/
def Part.afterColdStart : Part :=
  { supply := { mode := .run, settle := some 0 }
    panel := { stabling := some 600 }
    host := { latched := 1#14
              sending := some { kind := 0x40#8, tag := 0#8, body := [0, 1, 0, 0, 0, 0, 0, 0, 0, 0, 0], entry := none } } }

/-- The machine right after reset: the part after a cold start, and no command waiting. -/
def State.reset : State := { part := Part.afterColdStart, pending := [] }

end Sys2Proof.Machine
end

