-- ==== Sys2Proof/Machine/Ops.lean ====
section
/-! DEFINITION. Operations every block shares: association lists, lists by index, the supply mode, the unit description,
and the configuration parameters by id. -/
namespace Sys2Proof.Machine

/-! ### Lists -/

/-- The value under a key. -/
def assocGet {α : Type} (k : Nat) : List (Nat × α) → Option α
  | [] => none
  | (j, v) :: t => if j = k then some v else assocGet k t

/-- The list with a key's value written, keys in rising order. -/
def assocSet {α : Type} (k : Nat) (v : α) : List (Nat × α) → List (Nat × α)
  | [] => [(k, v)]
  | (j, w) :: t => if k < j then (k, v) :: (j, w) :: t else if j = k then (k, v) :: t else (j, w) :: assocSet k v t

/-- The list without a key. -/
def assocErase {α : Type} (k : Nat) (l : List (Nat × α)) : List (Nat × α) := l.filter fun e => e.1 != k

/-- Map with the index, counted from `i`. -/
def mapFrom {α β : Type} (f : Nat → α → β) : Nat → List α → List β
  | _, [] => []
  | i, x :: t => f i x :: mapFrom f (i + 1) t

/-- Insert before the first element that the new one precedes. -/
def insertBy {α : Type} (before : α → α → Bool) (x : α) : List α → List α
  | [] => [x]
  | y :: t => if before x y then x :: y :: t else y :: insertBy before x t

/-- Stable insertion sort. -/
def sortBy {α : Type} (before : α → α → Bool) (l : List α) : List α :=
  l.foldr (fun x acc => insertBy (fun a b => !before b a) x acc) []

/-- Whether a list holds one value twice. -/
def hasDup : List Nat → Bool
  | [] => false
  | x :: t => t.contains x || hasDup t

/-- A list of numbers without repeats of earlier elements. -/
def dedup : List Nat → List Nat
  | [] => []
  | x :: t => x :: (dedup t).filter (· != x)

/-- The list with element `i` replaced by its image, if there is one. -/
def modifyAt {α : Type} (i : Nat) (f : α → α) : List α → List α
  | [] => []
  | x :: t => match i with
    | 0 => f x :: t
    | j + 1 => x :: modifyAt j f t

/-- Index of the first empty place. -/
def firstEmpty {α : Type} : List (Option α) → Option Nat
  | [] => none
  | none :: _ => some 0
  | some _ :: t => (firstEmpty t).map (· + 1)

/-! ### The supply mode (section 10.2) -/

/-- The part is in RUN. -/
def isRun (s : Part) : Bool := s.supply.mode == .run

/-- The part is in one of the hold modes. -/
def isHold (s : Part) : Bool := s.supply.mode == .breakHold || s.supply.mode == .extendedHold

/-! ### The unit description (R2 to R4) -/

/-- The seat record of an existing seat (R3). -/
def seatAt (u : UnitDesc) (c p : Nat) : Option SeatRec := (u.coaches[c]?).bind fun r => r.seats[p]?

/-- The seat exists (R3). -/
def seatExists (u : UnitDesc) (c p : Nat) : Bool := (seatAt u c p).isSome

/-- The seat has a sensor fitted. -/
def sensorFitted (u : UnitDesc) (c p : Nat) : Bool := ((seatAt u c p).map (·.sensorFitted)).getD false

/-- The booked numbers in index order. -/
def bookedNumbers (u : UnitDesc) : List Nat := u.coaches.map (·.booked)

/-- Endpoints of one coach in address order (R4). -/
def coachEndpoints (c : Nat) (r : CoachRec) : List EpAddr :=
  ((mapFrom (fun i x => if x.unitFitted then [({ coach := c, kind := .seat, number := i } : EpAddr)] else []) 0 r.seats).flatten) ++
    (if r.interiorA then [{ coach := c, kind := .interior, number := 1 }] else []) ++
    (if r.interiorB then [{ coach := c, kind := .interior, number := 2 }] else []) ++
    (if r.exterior1 then [{ coach := c, kind := .exterior, number := 1 }] else []) ++
    (if r.exterior2 then [{ coach := c, kind := .exterior, number := 2 }] else [])

/-- The endpoint list in address order (R4). -/
def endpointList (coaches : List CoachRec) : List EpAddr := (mapFrom coachEndpoints 0 coaches).flatten

/-- A coach has a fitted interior panel. -/
def hasInterior (r : CoachRec) : Bool := r.interiorA || r.interiorB

/-- Rank of a kind in address order (R4). -/
def kindRank : EpKind → Nat
  | .seat => 0
  | .interior => 1
  | .exterior => 2

/-- Address order: coach, then kind, then number (R4). -/
def addrLt (x y : EpAddr) : Bool :=
  x.coach < y.coach || (x.coach == y.coach &&
    (kindRank x.kind < kindRank y.kind || (kindRank x.kind == kindRank y.kind && x.number < y.number)))

/-! ### Configuration parameters (section 11.7) -/

/-- The value in force of a parameter, by id. -/
def Params.get (q : Params) : Nat → Option Nat
  | 1 => some q.debounce
  | 2 => some q.hysteresis
  | 3 => some q.threshold
  | 4 => some q.claimWindow
  | 5 => some q.onThreshold
  | 6 => some q.offThreshold
  | 7 => some q.vacateHold
  | 8 => some q.pageDwell
  | 9 => some q.stabling
  | 10 => some q.night
  | 11 => some q.holdLimit
  | 12 => some q.extHoldLimit
  | 13 => some q.settleLimit
  | 14 => some q.breakLimit
  | 15 => some q.enable.toNat
  | _ => none

/-- The parameters with one stored. -/
def Params.put (q : Params) (id v : Nat) : Params :=
  match id with
  | 1 => { q with debounce := v }
  | 2 => { q with hysteresis := v }
  | 3 => { q with threshold := v }
  | 4 => { q with claimWindow := v }
  | 5 => { q with onThreshold := v }
  | 6 => { q with offThreshold := v }
  | 7 => { q with vacateHold := v }
  | 8 => { q with pageDwell := v }
  | 9 => { q with stabling := v }
  | 10 => { q with night := v }
  | 11 => { q with holdLimit := v }
  | 12 => { q with extHoldLimit := v }
  | 13 => { q with settleLimit := v }
  | 14 => { q with breakLimit := v }
  | 15 => { q with enable := BitVec.ofNat 14 v }
  | _ => q

/-- A value clamped to a range (section 1.6). -/
def clamp (lo hi v : Nat) : Nat := max lo (min hi v)

/-- What a value requested for a parameter gives: the value to store, or none where it is refused BAD_FIELD (the table of
section 11.7; R122 for the thresholds). -/
def Params.admitted (q : Params) (id v : Nat) : Option Nat :=
  match id with
  | 1 => if v ≤ 3 then some v else none
  | 2 => some (clamp 0 1000 v)
  | 3 => some (clamp 1 15 v)
  | 4 => some (clamp 0 30 v)
  | 5 => if 1 ≤ v && v ≤ 63 && q.offThreshold < v then some v else none
  | 6 => if v ≤ 62 && v < q.onThreshold then some v else none
  | 7 => some (clamp 0 31 v)
  | 8 => some (clamp 2 30 v)
  | 9 => some (clamp 1 60 v)
  | 10 => if v ≤ 1 then some v else none
  | 11 => some (clamp 2 60 v)
  | 12 => some (clamp 1 120 v)
  | 13 => some (clamp 60 3600 v)
  | 14 => some (clamp 0 15 v)
  | 15 => some (v % 16384)
  | _ => none

/-- The debounce time of a code, in ms (R68). -/
def debounceMs (code : Nat) : Nat := 500 * 2 ^ code

end Sys2Proof.Machine
end

