-- ==== Sys2Proof/Machine/Flags.lean ====
section
/-! DEFINITION. The event kinds, the event latch set and ATTENTION (section 11.5). -/
namespace Sys2Proof.Machine

/-- The fourteen event kinds, in bit order (R196). -/
inductive EventKind where
  | start | formation | leaderConflict | detached | linkTimeout | arbTimeout | routeMismatch | progressStale | clockRange
  | legReleased | legOrphaned | endpointAbsent | endpointReturned | noticeExpired
deriving DecidableEq, Repr

/-- The bit of a kind in every set of event kinds (R196). -/
def EventKind.bit : EventKind → Nat
  | .start => 0
  | .formation => 1
  | .leaderConflict => 2
  | .detached => 3
  | .linkTimeout => 4
  | .arbTimeout => 5
  | .routeMismatch => 6
  | .progressStale => 7
  | .clockRange => 8
  | .legReleased => 9
  | .legOrphaned => 10
  | .endpointAbsent => 11
  | .endpointReturned => 12
  | .noticeExpired => 13

/-- The set holding one kind. -/
def EventKind.mask (k : EventKind) : BitVec 14 := 1#14 <<< k.bit

/-- A kind is in a set. -/
def inSet (k : EventKind) (x : BitVec 14) : Bool := x.getLsbD k.bit

/-- The reported set: latched and enabled (R197). -/
def reported (h : HostPort) : BitVec 14 := h.latched &&& h.params.enable

/-- The ATTENTION output (R197): asserted in RUN while the reported set is not empty. -/
def attention (s : Part) : Bool := isRun s && reported s.host != 0#14

/-- Arrange an EVENT frame: queue one when none is queued (R198). -/
def arrangeEvent (h : HostPort) : HostPort :=
  if h.queue.contains .event then h else { h with queue := h.queue ++ [.event] }

/-- Set the latch set; an EVENT frame is arranged when the reported set gains a member in RUN (R197, R187). -/
def latchMask (m : BitVec 14) (s : Part) : Part :=
  let h := { s.host with latched := s.host.latched ||| m }
  { s with host := if isRun s && reported h != reported s.host then arrangeEvent h else h }

/-- Latch one kind (R197). -/
def latch (k : EventKind) (s : Part) : Part := latchMask k.mask s

/-- Latch a kind when a condition holds. -/
def latchIf (c : Bool) (k : EventKind) (s : Part) : Part := if c then latch k s else s

/-- A count of the Reservation Store raised by some latchings: it stays at 65,535 (R112). -/
def countUp (n k : Nat) : Nat := min Config.countTop (n + k)

end Sys2Proof.Machine
end

