-- ==== Sys2Proof/Machine/Operands.lean ====
section
/-! DEFINITION. The encodings of R188 and R195: the fields of every request body, and the bytes of replies and frames. -/
namespace Sys2Proof.Machine

/-! ### Reading bodies -/

/-- Two bytes, most significant first. -/
def be2 (a b : Byte) : Nat := a.toNat * 256 + b.toNat

/-- A UNIT-SETUP segment as its body gives it (R195): label and flag byte of each seat position carried. -/
structure SegmentReq where
  unitId : Nat
  coachCount : Nat
  coachIndex : Nat
  booked : Nat
  seatCount : Nat
  panels : Nat
  seats : List (Nat × Nat)
deriving DecidableEq, Repr

/-- The seat positions of a segment, three bytes each. -/
def readSeats : List Byte → Option (List (Nat × Nat))
  | [] => some []
  | a :: b :: c :: t => (readSeats t).map fun r => (be2 a b, c.toNat) :: r
  | _ => none

/-- UNIT-SETUP: 7 + 3·n bytes, n at most 96 (R195). -/
def readUnitSetup : List Byte → Option SegmentReq
  | a :: b :: cc :: ci :: bk :: sc :: pn :: t =>
    match readSeats t with
    | some ss =>
      if ss.length ≤ 96 then
        some { unitId := be2 a b, coachCount := cc.toNat, coachIndex := ci.toNat, booked := bk.toNat,
               seatCount := sc.toNat, panels := pn.toNat, seats := ss }
      else none
    | none => none
  | _ => none

/-- An empty body. -/
def readNone : List Byte → Option Unit
  | [] => some ()
  | _ => none

/-- One field of one byte. -/
def readOne : List Byte → Option Nat
  | [a] => some a.toNat
  | _ => none

/-- One field of two bytes. -/
def readTwo : List Byte → Option Nat
  | [a, b] => some (be2 a b)
  | _ => none

/-- Two fields of one byte (SEAT-QUERY). -/
def readPair : List Byte → Option (Nat × Nat)
  | [a, b] => some (a.toNat, b.toNat)
  | _ => none

/-- CONFIG-SET: parameter id and value. -/
def readConfigSet : List Byte → Option (Nat × Nat)
  | [i, a, b] => some (i.toNat, be2 a b)
  | _ => none

/-- A list of one-byte elements with its count (COACH-NUMBERS). -/
def readList : List Byte → Option (List Nat)
  | n :: t => if t.length = n.toNat then some (t.map (·.toNat)) else none
  | [] => none

/-- TEXT-PUT: handle, then a text variant (slot, length, codes). -/
def readTextPut : List Byte → Option (Nat × Nat × List Byte)
  | h :: sl :: n :: t => if t.length = n.toNat then some (h.toNat, sl.toNat, t) else none
  | _ => none

/-- ROUTE-OPEN: route id and train-number handle. -/
def readRouteOpen : List Byte → Option (Nat × Nat)
  | [a, b, h] => some (be2 a b, h.toNat)
  | _ => none

/-- A scheduled time of three bytes (R195). -/
def schedOf (hh mm day : Byte) : SchedTime := { hh := hh, mm := mm, day := day.toNat }

/-- A STOP-PUT body (R195); an inbound entry is mask byte, length and recovery. -/
structure StopReq where
  index : Nat
  name : Nat
  short : Nat
  mask : Nat
  presence : Nat
  arr : SchedTime
  dep : SchedTime
  dwell : Nat
  approach : Nat
  side : Nat
  flags : Nat
  inbound : List (Nat × Nat × Nat)
deriving DecidableEq, Repr

/-- The inbound entries of a STOP-PUT, five bytes each. -/
def readInbound : List Byte → Option (List (Nat × Nat × Nat))
  | [] => some []
  | m :: a :: b :: c :: d :: t => (readInbound t).map fun r => (m.toNat, be2 a b, be2 c d) :: r
  | _ => none

/-- STOP-PUT: 18 + 5·k bytes, k the inbound count it carries (R195). -/
def readStopPut : List Byte → Option StopReq
  | ix :: nm :: sh :: mk :: pr :: ah :: am :: ad :: dh :: dm :: dd :: w1 :: w0 :: a1 :: a0 :: sd :: fl :: k :: t =>
    match readInbound t with
    | some es =>
      if es.length = k.toNat then
        some { index := ix.toNat, name := nm.toNat, short := sh.toNat, mask := mk.toNat, presence := pr.toNat,
               arr := schedOf ah am ad, dep := schedOf dh dm dd, dwell := be2 w1 w0, approach := be2 a1 a0,
               side := sd.toNat, flags := fl.toNat, inbound := es }
      else none
    | none => none
  | _ => none

/-- A STOP-AMEND body (R195). -/
structure AmendReq where
  index : Nat
  changes : Nat
  side : Nat
  arr : SchedTime
  dep : SchedTime
  dwell : Nat
deriving DecidableEq, Repr

/-- STOP-AMEND: 11 bytes (R195). -/
def readStopAmend : List Byte → Option AmendReq
  | [ix, ch, sd, ah, am, ad, dh, dm, dd, w1, w0] =>
    some { index := ix.toNat, changes := ch.toNat, side := sd.toNat, arr := schedOf ah am ad, dep := schedOf dh dm dd,
           dwell := be2 w1 w0 }
  | _ => none

/-- A time of TIME, DEPARTED and ARRIVED: BCD hh, mm, ss and the day flag (R195). -/
structure ClockTime where
  hh : Byte
  mm : Byte
  ss : Byte
  day : Nat
deriving DecidableEq, Repr

/-- TIME: four bytes. -/
def readTime : List Byte → Option ClockTime
  | [h, m, s, d] => some { hh := h, mm := m, ss := s, day := d.toNat }
  | _ => none

/-- DEPARTED and ARRIVED: route index and time. -/
def readIndexTime : List Byte → Option (Nat × ClockTime)
  | [k, h, m, s, d] => some (k.toNat, { hh := h, mm := m, ss := s, day := d.toNat })
  | _ => none

/-- POSITION: signed, four bytes (R195). -/
def readPosition : List Byte → Option Int
  | [a, b, c, d] => some ((a ++ b ++ c ++ d : BitVec 32).toInt)
  | _ => none

/-- A LEG-ADD body. -/
structure LegReq where
  id : Nat
  coach : Nat
  seat : Nat
  frm : Nat
  till : Nat
  flags : Nat
deriving DecidableEq, Repr

/-- LEG-ADD: leg id, coach index, seat position, from, to, flags (R97). -/
def readLegAdd : List Byte → Option LegReq
  | [a, b, c, p, f, t, x] =>
    some { id := be2 a b, coach := c.toNat, seat := p.toNat, frm := f.toNat, till := t.toNat, flags := x.toNat }
  | _ => none

/-- A NOTICE-RAISE body (R195). -/
structure RaiseReq where
  noticeId : Nat
  level : Nat
  subPriority : Nat
  kind : Nat
  numbers : List Nat
  handle : Nat
  duration : Nat
deriving DecidableEq, Repr

/-- NOTICE-RAISE: 9 + c bytes, c the count byte (R195). -/
def readNoticeRaise : List Byte → Option RaiseReq
  | a :: b :: lv :: sp :: kd :: c :: t =>
    match t.drop c.toNat with
    | [h, d1, d0] =>
      if t.length = c.toNat + 3 then
        some { noticeId := be2 a b, level := lv.toNat, subPriority := sp.toNat, kind := kd.toNat,
               numbers := (t.take c.toNat).map (·.toNat), handle := h.toNat, duration := be2 d1 d0 }
      else none
    | _ => none
  | _ => none

/-- ENDPOINT-QUERY: start index, selection, maximum (R170). -/
def readEndpointQuery : List Byte → Option (Nat × Nat × Nat)
  | [a, b, sel, mx] => some (be2 a b, sel.toNat, mx.toNat)
  | _ => none

/-! ### BCD times -/

/-- The value of a BCD byte. -/
def bcd (b : Byte) : Nat := b.toNat / 16 * 10 + b.toNat % 16

/-- Both digits of a BCD byte are at most 9 and its value is at most `top`. -/
def bcdOk (top : Nat) (b : Byte) : Bool := b.toNat / 16 ≤ 9 && b.toNat % 16 ≤ 9 && bcd b ≤ top

/-- A scheduled time has good BCD, hour and minute (R31, check 3). -/
def SchedTime.ok (t : SchedTime) : Bool := bcdOk 23 t.hh && bcdOk 59 t.mm

/-- The scheduled minute (R28, R53). -/
def SchedTime.minute (t : SchedTime) : Nat := 60 * bcd t.hh + bcd t.mm + 1440 * t.day

/-- A clock time has good BCD, hour, minute and second (R38, R41). -/
def ClockTime.ok (t : ClockTime) : Bool := bcdOk 23 t.hh && bcdOk 59 t.mm && bcdOk 59 t.ss

/-- The clock seconds of a time (R38, R41). -/
def ClockTime.seconds (t : ClockTime) : Nat := 3600 * bcd t.hh + 60 * bcd t.mm + bcd t.ss + 86400 * t.day

/-! ### Writing replies -/

/-- One byte. -/
def e1 (n : Nat) : List Byte := [byte n]
/-- Two bytes, most significant first. -/
def e2 (n : Nat) : List Byte := [byte (n / 256), byte n]
/-- Three bytes, most significant first. -/
def e3 (n : Nat) : List Byte := [byte (n / 65536), byte (n / 256), byte n]
/-- One byte, all bits 1 when absent. -/
def o1 (n : Option Nat) : List Byte := e1 (n.getD 0xFF)
/-- Two bytes, all bits 1 when absent. -/
def o2 (n : Option Nat) : List Byte := e2 (n.getD 0xFFFF)
/-- Three bytes, all bits 1 when absent. -/
def o3 (n : Option Nat) : List Byte := e3 (n.getD 0xFFFFFF)
/-- A flag as one byte. -/
def eb (b : Bool) : List Byte := e1 (if b then 1 else 0)
/-- A list with its one-byte count. -/
def eList {α : Type} (f : α → List Byte) (l : List α) : List Byte := e1 l.length ++ (l.map f).flatten
/-- A delay: signed, three bytes, 0x800000 when absent. -/
def eDelay : Option Int → List Byte
  | some d => e3 (d % 16777216).toNat
  | none => e3 0x800000
/-- Minutes: signed, two bytes, 0x8000 when absent. -/
def eMinutes : Option Int → List Byte
  | some m => e2 (m % 65536).toNat
  | none => e2 0x8000
/-- An endpoint address, three bytes. -/
def eAddr (a : EpAddr) : List Byte := [byte a.coach, byte (kindRank a.kind), byte a.number]
/-- An endpoint address or its absence. -/
def oAddr : Option EpAddr → List Byte
  | some a => eAddr a
  | none => e3 0xFFFFFF

/-- Code of a result (R193). -/
def Result.code : Result → Nat
  | .ok => 0
  | .busy => 1
  | .unknownKind => 2
  | .badField => 3
  | .badTime => 4
  | .wrongState => 5
  | .conflict => 6
  | .full => 7
  | .inUse => 8
  | .notFound => 9
  | .offRoute => 10
  | .following => 11
  | .part => 12
  | .linkFailed => 13

/-- Position of a progress state in R39. -/
def pstateCode : PState → Nat
  | .idle => 0
  | .loading => 1
  | .standing => 2
  | .departed => 3
  | .approaching => 4
  | .halted => 5
  | .terminated => 6

/-- Position of a start cause (R186). -/
def StartCause.code : StartCause → Nat
  | .cold => 0
  | .warm => 1
  | .warmExtended => 2

/-- Position of an OFF reason (R176). -/
def OffReason.code : OffReason → Nat
  | .none => 0
  | .limit => 1
  | .expired => 2
  | .retention => 3
  | .reset => 4

/-- Position of a role state, both sides of FORMING as one value (R200). -/
def Role.code : Role → Nat
  | .standalone => 0
  | .leading => 1
  | .following => 2
  | .formingLeader => 3
  | .formingFollower => 3
  | .isolated => 4

/-- Position of an orientation (R70). -/
def orientationCode : Orientation → Nat
  | .forward => 0
  | .reversed => 1
  | .unknown => 2

/-! ### Frames (R188) -/

/-- One bit of the CRC register. -/
def crcBit (c : BitVec 16) : BitVec 16 := if c.msb then (c <<< 1) ^^^ 0x1021#16 else c <<< 1

/-- One byte into the CRC register, most significant bit first (R188). -/
def crcByte (c : BitVec 16) (b : Byte) : BitVec 16 :=
  crcBit (crcBit (crcBit (crcBit (crcBit (crcBit (crcBit (crcBit (c ^^^ (b.zeroExtend 16 <<< 8)))))))))

/-- The CRC over some bytes: register 0xFFFF at the start, no final inversion (R188). -/
def crc16 (bs : List Byte) : BitVec 16 := bs.foldl crcByte 0xFFFF#16

/-- The bytes the CRC covers: body length, kind, tag and body (R188). -/
def coveredBytes (kind tag : Byte) (body : List Byte) : List Byte := e2 body.length ++ [kind, tag] ++ body

/-- The bytes of a whole frame (R188). -/
def frameBytes (kind tag : Byte) (body : List Byte) : List Byte :=
  0xA5#8 :: coveredBytes kind tag body ++ e2 (crc16 (coveredBytes kind tag body)).toNat

end Sys2Proof.Machine
end

