-- ==== Sys2Proof/Machine/TextOps.lean ====
section
/-! DEFINITION. The Text Store (section 2): the block pool, writing and removing entries, reference counts, remote entries,
and the character set. -/
namespace Sys2Proof.Machine

/-- Blocks a variant of `n` codes needs (R14). -/
def blocksNeeded (n : Nat) : Nat := (n + (Config.blockCodes - 1)) / Config.blockCodes

/-- The Text Store admits a code (R22). -/
def admitted (c : Byte) : Bool :=
  (0x20 ≤ c.toNat && c.toNat ≤ 0x7E) || 0xA0 ≤ c.toNat || c.toNat == 0x0A || (1 ≤ c.toNat && c.toNat ≤ 7)

/-- The entry of a handle. -/
def textAt (t : TextStore) (h : Nat) : Option TextEntry := assocGet h t.entries

/-- A handle is known when its place holds an entry (R18). -/
def textKnown (t : TextStore) (h : Nat) : Bool := (textAt t h).isSome

/-- The variant of a slot. -/
def TextEntry.variant (e : TextEntry) : Nat → Option Variant
  | 0 => some e.v0
  | 1 => e.v1
  | 2 => e.v2
  | _ => none

/-- The present variant slots of an entry, ascending (R26). -/
def TextEntry.slots (e : TextEntry) : List Nat :=
  [0] ++ (if e.v1.isSome then [1] else []) ++ (if e.v2.isSome then [2] else [])

/-- The entry with a slot's variant replaced. -/
def TextEntry.setVariant (e : TextEntry) (slot : Nat) (v : Variant) : TextEntry :=
  match slot with
  | 0 => { e with v0 := v }
  | 1 => { e with v1 := some v }
  | _ => { e with v2 := some v }

/-- The chain of a slot, empty where the slot is absent. -/
def TextEntry.chain (e : TextEntry) (slot : Nat) : List Nat := ((e.variant slot).map (·.chain)).getD []

/-- All blocks of an entry, in slot order 0, 1, 2. -/
def TextEntry.blocks (e : TextEntry) : List Nat := e.chain 0 ++ e.chain 1 ++ e.chain 2

/-- Write one variant: allocate the new chain, create the entry or take the slot, free the old chain (R16). -/
def putVariant (h slot : Nat) (codes : List Byte) (t : TextStore) : TextStore :=
  let k := blocksNeeded codes.length
  let v : Variant := { codes := codes, chain := t.free.take k }
  let rest := t.free.drop k
  match textAt t h with
  | some e => { entries := assocSet h (e.setVariant slot v) t.entries, free := rest ++ e.chain slot }
  | none => { entries := assocSet h { v0 := v, v1 := none, v2 := none, refs := 0 } t.entries, free := rest }

/-- Remove an entry: its chains go to the free list in slot order and the handle becomes free (R19, R21). -/
def dropEntry (h : Nat) (t : TextStore) : TextStore :=
  match textAt t h with
  | some e => { entries := assocErase h t.entries, free := t.free ++ e.blocks }
  | none => t

/-- Count one more place that names a handle (R17). -/
def retain (h : Nat) (t : TextStore) : TextStore :=
  match textAt t h with
  | some e => { t with entries := assocSet h { e with refs := e.refs + 1 } t.entries }
  | none => t

/-- Release one place that names a handle; a remote entry whose count falls to zero is freed (R17, R21). -/
def release (h : Nat) (t : TextStore) : TextStore :=
  match textAt t h with
  | some e =>
    let e' := { e with refs := e.refs - 1 }
    let t' := { t with entries := assocSet h e' t.entries }
    if 192 ≤ h && e'.refs == 0 then dropEntry h t' else t'
  | none => t

/-- Retain every handle of a list. -/
def retainAll (hs : List Nat) (t : TextStore) : TextStore := hs.foldl (fun t h => retain h t) t

/-- Release every handle of a list. -/
def releaseAll (hs : List Nat) (t : TextStore) : TextStore := hs.foldl (fun t h => release h t) t

/-- The lowest free remote handle, 192..255 (R20). -/
def freeRemote (t : TextStore) : Option Nat := (List.range 64).findSome? fun i =>
  if textKnown t (192 + i) then none else some (192 + i)

/-- The number of free remote handles (R14). -/
def freeRemoteCount (t : TextStore) : Nat := ((List.range 64).filter fun i => !textKnown t (192 + i)).length

/-- A carried text passes check 1 of R20. -/
def carriedOk (vs : List VariantText) : Bool :=
  vs.any (·.slot == 0) &&
    vs.all fun v => v.slot ≤ 2 && 1 ≤ v.codes.length && v.codes.length ≤ Config.maxVariant && v.codes.all admitted

/-- The codes a carried text gives a slot: of two variants of one slot the first (log entry 61). -/
def carried (vs : List VariantText) (slot : Nat) : Option (List Byte) := (vs.find? (·.slot == slot)).map (·.codes)

/-- Take a chain for optional codes from a free list. -/
def takeVariant (codes : Option (List Byte)) (free : List Nat) : Option Variant × List Nat :=
  match codes with
  | some cs => (some { codes := cs, chain := free.take (blocksNeeded cs.length) }, free.drop (blocksNeeded cs.length))
  | none => (none, free)

/-- Make the remote entry of a forwarded text, or refuse it (R20): the handle taken and the store after. The blocks of every
variant carried are counted (log entry 61). -/
def makeRemote (vs : List VariantText) (t : TextStore) : Option (Nat × TextStore) :=
  if carriedOk vs then
    match freeRemote t, carried vs 0 with
    | some h, some c0 =>
      if (vs.map fun v => blocksNeeded v.codes.length).sum ≤ t.free.length then
        let k := blocksNeeded c0.length
        let (v1, f1) := takeVariant (carried vs 1) (t.free.drop k)
        let (v2, f2) := takeVariant (carried vs 2) f1
        some (h, { entries := assocSet h { v0 := { codes := c0, chain := t.free.take k }, v1 := v1, v2 := v2, refs := 0 }
                     t.entries, free := f2 })
      else none
    | _, _ => none
  else none

/-- The text of a notice as a frame carries it: every present variant with its slot (R21, R87). -/
def frameText (t : TextStore) (h : Nat) : List VariantText :=
  match textAt t h with
  | some e => e.slots.filterMap fun i => (e.variant i).map fun v => { slot := i, codes := v.codes }
  | none => []

end Sys2Proof.Machine
end

