-- ==== Sys2Proof/Machine/RouteOps.lean ====
section
/-! DEFINITION. The route table: portion sequences, effective segments, the checks of ROUTE-CLOSE, and placing a position
(R28, R29, R32, R46, R54). -/
namespace Sys2Proof.Machine

/-- The portions a mask names, ascending. -/
def portions (m : PortionMask) : List Nat := [0, 1, 2].filter fun k => m.getLsbD k

/-- Route indices whose record satisfies a test, in order. -/
def indicesWhere (f : StopRec → Bool) (stops : List StopRec) : List Nat :=
  (mapFrom (fun i r => if f r then [i] else []) 0 stops).flatten

/-- The full sequence of a portion (R29). -/
def fullSeq (stops : List StopRec) (k : Nat) : List Nat := indicesWhere (fun r => r.mask.getLsbD k) stops

/-- The calling sequence of a portion (R29). -/
def callSeq (stops : List StopRec) (k : Nat) : List Nat := indicesWhere (fun r => r.mask.getLsbD k && !r.cancelled) stops

/-- The first member after an index. -/
def firstAfter (c : List Nat) (x : Nat) : Option Nat := c.find? fun i => x < i

/-- The last member at or before an index. -/
def lastUpTo (c : List Nat) (x : Nat) : Option Nat := (c.filter fun i => i ≤ x).getLast?

/-- The last member before an index. -/
def lastBefore (c : List Nat) (x : Nat) : Option Nat := (c.filter fun i => i < x).getLast?

/-- The route id in force: 0 while IDLE or LOADING (R30). -/
def routeInForce (r : Route) : Nat :=
  match r.prog.state with
  | .idle => 0
  | .loading => 0
  | _ => r.id

/-- The train runs on a route: neither IDLE nor LOADING. -/
def hasRoute (s : PState) : Bool := s != .idle && s != .loading

/-- Progress is STANDING, DEPARTED, APPROACHING or HALTED. -/
def underWay (s : PState) : Bool := s == .standing || s == .departed || s == .approaching || s == .halted

/-- Every text handle a stop record holds (R17). -/
def recHandles (r : StopRec) : List Nat := [r.name] ++ r.short.toList

/-- Every text handle the route table holds (R17). -/
def routeHandles (r : Route) : List Nat := (r.stops.map recHandles).flatten ++ r.train.toList

/-! ### Effective segments (R54) -/

/-- The inbound entry used for a portion (R29). -/
def inboundFor (r : StopRec) (k : Nat) : Option Inbound := r.inbound.find? fun e => e.mask.getLsbD k

/-- Records of the full sequence after `a` up to and including `b`. -/
def segment (stops : List StopRec) (k a b : Nat) : List Nat := (fullSeq stops k).filter fun i => a < i && i ≤ b

/-- L_eff(a, b), in units of 10 m (R54). -/
def lEff (stops : List StopRec) (k a b : Nat) : Nat :=
  ((segment stops k a b).map fun i => ((stops[i]?).bind fun r => (inboundFor r k).map (·.length)).getD 0).sum

/-- The scheduled arrival minute of a record, where it holds one. -/
def schedArr (stops : List StopRec) (i : Nat) : Option Nat := (stops[i]?).bind fun r => r.arr.map (·.minute)

/-- The scheduled departure minute of a record, where it holds one. -/
def schedDep (stops : List StopRec) (i : Nat) : Option Nat := (stops[i]?).bind fun r => r.dep.map (·.minute)

/-- The scheduled dwell in seconds of a record holding both times, 0 otherwise. -/
def schedDwell (stops : List StopRec) (i : Nat) : Int :=
  match schedArr stops i, schedDep stops i with
  | some a, some d => 60 * ((d : Int) - (a : Int))
  | _, _ => 0

/-- What one record of a segment adds to R_eff(a, b) (R54). -/
def recoveryOf (stops : List StopRec) (k b i : Nat) : Int :=
  match stops[i]? with
  | some r => (((inboundFor r k).map (·.recovery)).getD 0 : Nat) + (if r.cancelled && i < b then schedDwell stops i else 0)
  | none => 0

/-- R_eff(a, b), in seconds (R54). -/
def rEff (stops : List StopRec) (k a b : Nat) : Int := ((segment stops k a b).map (recoveryOf stops k b)).sum

/-! ### Checks over the table (R32) -/

/-- The first record that fails a check. -/
def firstFailing (bad : Nat → StopRec → Bool) (stops : List StopRec) : Option Nat :=
  (mapFrom (fun i r => if bad i r then [i] else []) 0 stops).flatten.head?

/-- The record is first in the full sequence of a portion. -/
def isFirst (stops : List StopRec) (k i : Nat) : Bool := (fullSeq stops k).head? == some i

/-- The record is last in the full sequence of a portion. -/
def isLast (stops : List StopRec) (k i : Nat) : Bool := (fullSeq stops k).getLast? == some i

/-- Check 1: times present exactly where R28 requires them. -/
def badPresence (stops : List StopRec) (i : Nat) (r : StopRec) : Bool :=
  (r.arr.isNone != (portions r.mask).all fun k => isFirst stops k i) ||
    (r.dep.isNone != (portions r.mask).all fun k => isLast stops k i)

/-- Check 2: exactly one inbound entry for each portion in which the record follows another, none where it is first. -/
def badInbound (stops : List StopRec) (i : Nat) (r : StopRec) : Bool :=
  (portions r.mask).any fun k =>
    (r.inbound.filter fun e => e.mask.getLsbD k).length != (if isFirst stops k i then 0 else 1)

/-- Check 3: a DIVIDE record has two portions, and two of them go on. -/
def badDivide (stops : List StopRec) (i : Nat) (r : StopRec) : Bool :=
  r.divide && ((portions r.mask).length < 2 || ((portions r.mask).filter fun k => !isLast stops k i).length < 2)

/-- Check 4: a JOIN record has two portions and two inbound entries. -/
def badJoin (_i : Nat) (r : StopRec) : Bool := r.join && ((portions r.mask).length < 2 || r.inbound.length < 2)

/-- Check 5: a REVERSE record is the first or the last record of every portion in its mask (log entry 33). -/
def badReverse (stops : List StopRec) (i : Nat) (r : StopRec) : Bool :=
  r.reverse && (portions r.mask).all fun k => isFirst stops k i || isLast stops k i

/-- Check 6: the own calling sequence has fewer than two stops; the index at which it fails. -/
def badOwn (stops : List StopRec) (own : Nat) : Option Nat :=
  if (callSeq stops own).length < 2 then some (((fullSeq stops own).getLast?).getD stops.length) else none

/-- Check 7: a record's departure is earlier than its arrival. -/
def badDwell (stops : List StopRec) (i : Nat) (_r : StopRec) : Bool :=
  match schedArr stops i, schedDep stops i with
  | some a, some d => d < a
  | _, _ => false

/-- Check 8: the arrival is earlier than the departure from the stop before it in some calling sequence. -/
def badRunning (stops : List StopRec) (i : Nat) (r : StopRec) : Bool :=
  !r.cancelled && (portions r.mask).any fun k =>
    match (lastBefore (callSeq stops k) i).bind (schedDep stops), schedArr stops i with
    | some d, some a => a < d
    | _, _ => false

/-- Checks 7 and 8 (R32, R35). -/
def timeFault (stops : List StopRec) : Option Nat :=
  (firstFailing (badDwell stops) stops).orElse fun _ => firstFailing (badRunning stops) stops

/-- Checks 1 to 6 (R32). -/
def shapeFault (stops : List StopRec) (own : Nat) : Option Nat :=
  (firstFailing (badPresence stops) stops).orElse fun _ =>
  (firstFailing (badInbound stops) stops).orElse fun _ =>
  (firstFailing (badDivide stops) stops).orElse fun _ =>
  (firstFailing badJoin stops).orElse fun _ =>
  (firstFailing (badReverse stops) stops).orElse fun _ => badOwn stops own

/-- The result of the checks of ROUTE-CLOSE: the first failure with the index it is reported at, or none (R32). -/
def closeFault (stops : List StopRec) (own : Nat) : Option (Result × Nat) :=
  match shapeFault stops own with
  | some i => some (.badField, i)
  | none => (timeFault stops).map fun i => (.badTime, i)

/-! ### Placing a position (R46) -/

/-- A placed position. -/
structure Placed where
  state : PState
  p : Nat
  n : Option Nat
  halt : Option Nat
deriving DecidableEq, Repr

/-- Standing at `x` (R46). -/
def placeStanding (c : List Nat) (x : Nat) : Option Placed :=
  if c.length < 2 then none else
  match lastUpTo c x with
  | none => none
  | some q =>
    match firstAfter c x with
    | none => some { state := .terminated, p := q, n := none, halt := none }
    | some n => if q = x then some { state := .standing, p := x, n := some n, halt := none }
                else some { state := .halted, p := q, n := some n, halt := some x }

/-- Having left `x` (R46). -/
def placeLeft (c : List Nat) (x : Nat) : Option Placed :=
  if c.length < 2 then none else
  match lastUpTo c x with
  | none => none
  | some q =>
    match firstAfter c q with
    | none => some { state := .terminated, p := q, n := none, halt := none }
    | some n => some { state := .departed, p := q, n := some n, halt := none }

/-- The state that a remaining distance gives a running train (R43). -/
def runningState (prev : PState) (approach hysteresis d : Nat) : PState :=
  if prev == .approaching then (if approach + hysteresis < d then .departed else .approaching)
  else if d ≤ approach then .approaching else .departed

/-- The approach distance of a stop. -/
def approachOf (stops : List StopRec) (i : Nat) : Nat := ((stops[i]?).map (·.approach)).getD 0

/-- The route index at which the train stands, if it stands: p, or the halt index (R47). -/
def standingPlace (g : Progress) : Option Nat :=
  match g.state with
  | .standing => g.p
  | .terminated => g.p
  | .halted => g.halt
  | _ => none

end Sys2Proof.Machine
end

