-- ==== Sys2Proof/Machine/EstimateOps.lean ====
section
/-! DEFINITION. The Estimate Unit (section 4): the delay at the next stop, the chain of later stops, and the list. -/
namespace Sys2Proof.Machine

/-- A delay saturated at ±59,940 s (R62). -/
def saturate (d : Int) : Int := max (-Config.delayTop) (min Config.delayTop d)

/-- The minutes of a delay, halves away from zero (R63). -/
def delayMinutes (d : Int) : Int := if d < 0 then -((-d + 30) / 60) else (d + 30) / 60

/-- The dwell slack of a stop (R55). -/
def slack (stops : List StopRec) (j : Nat) : Int :=
  match schedArr stops j, schedDep stops j with
  | some _, some _ => max 0 (schedDwell stops j - (((stops[j]?).map (·.dwell)).getD 0 : Nat))
  | _, _ => 0

/-- The scheduled second of a minute that R53 guarantees present (log entry 29). -/
def second (m : Option Nat) : Int := 60 * ((m.getD 0 : Nat) : Int)

/-- The remaining running time r, the product formed exactly and the division rounding up (R56). -/
def remaining (stops : List StopRec) (k p n d : Nat) : Int :=
  let l := lEff stops k p n
  let t := (second (schedArr stops n) - second (schedDep stops p)).toNat
  (((t * (min d l) + (l - 1)) / l : Nat) : Int)

/-- The arrival delay held for p while STANDING (R59), before saturation. -/
def delayAtP (stops : List StopRec) (g : Progress) (p : Nat) : Int :=
  match g.arr, schedArr stops p with
  | some a, some m => (a : Int) - 60 * (m : Int)
  | _, _ => 0

/-- The excess of now over the scheduled departure of p, at least 0 (R58, R60). -/
def overdue (stops : List StopRec) (now p : Nat) : Int := max 0 ((now : Int) - second (schedDep stops p))

/-- The delay at the next stop n, before saturation: the four cases of section 4.3 (R56 to R60). -/
def delayAtN (stops : List StopRec) (k now : Nat) (g : Progress) (p n : Nat) : Int :=
  let rec_ := rEff stops k p n
  match g.state with
  | .standing =>
    let gp := max (max 0 (saturate (delayAtP stops g p) - slack stops p)) ((now : Int) - second (schedDep stops p))
    max 0 (gp - rec_)
  | .halted => max 0 (overdue stops now p - rec_)
  | _ =>
    match g.d, g.dep with
    | some d, _ => ((now : Int) + remaining stops k p n d) - second (schedArr stops n)
    | none, some t =>
      let gact := (t : Int) - second (schedDep stops p)
      if gact ≤ 0 then gact else max 0 (gact - rec_)
    | none, none => max 0 (overdue stops now p - rec_)

/-- The delays of the stops after one whose saturated delay is known (R61, R62). -/
def delayChain (stops : List StopRec) (k : Nat) : Nat → Int → List Nat → List (Nat × Int)
  | _, _, [] => []
  | j, dj, i :: t =>
    let di := saturate (max 0 (max 0 (dj - slack stops j) - rEff stops k j i))
    (i, di) :: delayChain stops k i di t

/-- The stops of the list with their saturated delays (R51). -/
def delays (r : Route) (k : Nat) : List (Nat × Int) :=
  match r.prog.p with
  | none => []
  | some p =>
    match r.ownSeq.filter fun i => p < i with
    | [] => []
    | n :: t =>
      let dn := saturate (delayAtN r.stops k r.clock r.prog p n)
      (if r.prog.state == .standing then [(p, saturate (delayAtP r.stops r.prog p))] else []) ++
        (n, dn) :: delayChain r.stops k n dn t

/-- The expected minute E of a stop with scheduled arrival minute `a` (R64). -/
def expectedMinute (shown : Bool) (m : Int) (a : Nat) : Nat := if shown then (((a : Int) + m) % 1440).toNat else a % 1440

/-- The entry of a stop with a known delay (R63, R64). -/
def estEntry (stops : List StopRec) (threshold : Nat) (x : Nat × Int) : EstEntry :=
  let m := delayMinutes x.2
  let shown : Bool := decide ((threshold : Int) ≤ m)
  { stop := x.1, delay := some x.2, minutes := some m, shown := shown
    expected := (schedArr stops x.1).map (expectedMinute shown m) }

/-- The entry of a stop while the list is SUSPENDED (R65). -/
def blankEntry (x : Nat × Int) : EstEntry :=
  { stop := x.1, delay := none, minutes := none, shown := false, expected := none }

/-- The estimate list as a recomputation builds it (R51, R65). -/
def estimate (r : Route) (k threshold : Nat) : Estimates :=
  let ds := if underWay r.prog.state then delays r k else []
  { valid := r.clockSet
    entries := if r.clockSet then ds.map (estEntry r.stops threshold) else ds.map blankEntry }

/-- The entry of a stop. -/
def estOf (e : Estimates) (i : Nat) : Option EstEntry := e.entries.find? fun x => x.stop == i

/-- The shown values of a stop's entry that R66 compares. -/
def shownValues (e : Estimates) (i : Nat) : Option (Bool × Option Int × Option Nat) :=
  (estOf e i).map fun x => (x.shown, x.minutes, x.expected)

/-- The stops a recomputation names: those that entered or left, or whose shown values changed (R66). -/
def namedStops (before after : Estimates) : List Nat :=
  (dedup (before.entries.map (·.stop) ++ after.entries.map (·.stop))).filter fun i =>
    shownValues before i != shownValues after i

/-- The delay at the next stop is clock-driven (R52). -/
def clockDriven (g : Progress) : Bool :=
  match g.state with
  | .standing => true
  | .halted => true
  | .departed => g.d.isNone && g.dep.isNone
  | _ => false

end Sys2Proof.Machine
end

