-- ==== Sys2Proof/Machine/DisplayOps.lean ====
section
/-! DEFINITION. The endpoint table and the refresh queue (R159 to R161), building, resetting and stopping the line
(R171 to R173). Beginning and ending operations stand in Machine/LineOps.lean. -/
namespace Sys2Proof.Machine

/-- The entry of an address. -/
def epAt (d : Display) (a : EpAddr) : Option EpEntry := d.table.find? fun e => e.addr == a

/-- The table with an address's entry replaced by its image. -/
def epUpdate (a : EpAddr) (f : EpEntry → EpEntry) (d : Display) : Display :=
  { d with table := d.table.map fun e => if e.addr == a then f e else e }

/-- The endpoint joins the tail of the queue unless it is in it (R161). -/
def enqueue (a : EpAddr) (d : Display) : Display :=
  if d.queue.contains a then d else { d with queue := d.queue ++ [a] }

/-- A transfer to the address is in flight. -/
def transferTo (d : Display) (a : EpAddr) : Bool :=
  match d.inFlight with
  | some (.transfer _, x) => x == a
  | _ => false

/-- Raise the content version of an endpoint, and queue it as R160 states. -/
def raiseContent (a : EpAddr) (d : Display) : Display :=
  match epAt d a with
  | none => d
  | some e =>
    let d' := epUpdate a (fun x => { x with content := (x.content + 1) % 256 }) d
    if e.present && !transferTo d a then enqueue a d' else d'

/-- Raise a list of endpoints in order. -/
def raiseAll (l : List EpAddr) (d : Display) : Display := l.foldl (fun d a => raiseContent a d) d

/-- The number of ABSENT endpoints (R169). -/
def absentCount (d : Display) : Nat := (d.table.filter fun e => !e.present).length

/-- The Driver's state for a newly taken description (R159, R173). -/
def newTable (coaches : List CoachRec) : Display :=
  { table := (endpointList coaches).map fun a => { addr := a }, queue := endpointList coaches }

/-- The abandonment of the operation in flight when the line stops: no miss, and a transfer's endpoint joins the tail
(R171). -/
def abandon (d : Display) : Display :=
  match d.inFlight with
  | some (.transfer _, a) => enqueue a { d with inFlight := none }
  | _ => { d with inFlight := none }

/-- An entry as a warm return resets it (R172). -/
def resetEntry (e : EpEntry) : EpEntry :=
  { e with present := true, miss := 0, shown := none, probeTime := none, probeDue := false }

/-- The Driver at a warm return (R172). -/
def warmDisplay (d : Display) : Display :=
  { table := d.table.map resetEntry, queue := d.table.map (·.addr), probes := [], inFlight := none, mark := none,
    lastTransfer := false }

end Sys2Proof.Machine
end

