-- ==== Sys2Proof/Machine/TrainOps.lean ====
section
/-! DEFINITION. The formation in force and what is computed from it: coach positions, NUMBER_CLASH, destinations, the
train tally table and the seat summary (R69, R70, R83, R86, R90, R129, R130). -/
namespace Sys2Proof.Machine

/-- The qualifying end from the senses (R69). -/
def qualifyingEnd (f : Formation) : Option UnitEnd :=
  if f.cab.a && !f.coupled.a then some .a else if f.cab.b && !f.coupled.b then some .b else none

/-- The orientation a qualifying end gives (R70). -/
def orientationOf : Option UnitEnd → Orientation
  | some .a => .forward
  | some .b => .reversed
  | none => .unknown

/-- The own unit's entry with a given orientation. -/
def ownEntry (s : Part) (o : Orientation) : UnitEntry :=
  { unitId := s.unit.unitId, orientation := o, booked := bookedNumbers s.unit, portion := s.unit.portionTag
    route := routeInForce s.route }

/-- A record of the own unit alone, keeping the epoch number (R70, R82). -/
def ownAlone (s : Part) : FormRecord :=
  { epoch := s.form.record.epoch, units := [ownEntry s (orientationOf s.form.qualEnd)], ownIndex := 1 }

/-- The role is one whose formation in force is the own unit alone (R70). -/
def aloneRole (r : Role) : Bool := r == .standalone || r == .isolated

/-- The formation in force (R70). -/
def inForce (s : Part) : FormRecord := if aloneRole s.form.role then ownAlone s else s.form.record

/-- One entry of the coach position table (R83), with the list index of its unit. -/
structure CoachPos where
  position : Nat
  unitIndex : Nat
  unitId : Nat
  coach : Nat
  booked : Nat
  portion : Nat
  route : Nat
deriving DecidableEq, Repr

/-- The coaches of one unit in position order, numbered after `base` (R83). -/
def unitPositions (base index : Nat) (u : UnitEntry) : List CoachPos :=
  let count := u.booked.length
  let coaches := mapFrom (fun i b => ({ position := if u.orientation == .reversed then base + count - i else base + i + 1
                                        unitIndex := index, unitId := u.unitId, coach := i, booked := b
                                        portion := u.portion, route := u.route } : CoachPos)) 0 u.booked
  if u.orientation == .reversed then coaches.reverse else coaches

/-- The coach position table from a base and a list index on. -/
def positionsFrom : Nat → Nat → List UnitEntry → List CoachPos
  | _, _, [] => []
  | base, index, u :: t => unitPositions base index u ++ positionsFrom (base + u.booked.length) (index + 1) t

/-- The coach position table of a record (R83). -/
def positions (r : FormRecord) : List CoachPos := positionsFrom 0 1 r.units

/-- The position of an own coach in the formation in force. -/
def ownPosition (s : Part) (c : Nat) : Option Nat :=
  ((positions (inForce s)).find? fun x => x.unitIndex == (inForce s).ownIndex && x.coach == c).map (·.position)

/-- NUMBER_CLASH: one booked number in more than one unit (R83). -/
def numberClash : List UnitEntry → Bool
  | [] => false
  | u :: t => (u.booked.any fun b => t.any fun v => v.booked.contains b) || numberClash t

/-- The own orientation in the formation in force. -/
def ownOrientation (s : Part) : Orientation :=
  (((inForce s).units[(inForce s).ownIndex - 1]?).map (·.orientation)).getD .unknown

/-- The units of the formation in force other than the own unit. -/
def otherUnits (s : Part) : List UnitEntry := (inForce s).units.eraseIdx ((inForce s).ownIndex - 1)

/-- Whether the formation in force holds another unit. -/
def hasOthers (s : Part) : Bool := !(otherUnits s).isEmpty

/-- Whether another unit holds a targeted coach (R86). -/
def reaches (t : Targets) (u : UnitEntry) : Bool :=
  match t with
  | .all => true
  | .unit => false
  | .coaches ns => u.booked.any fun b => ns.contains b

/-- The members of a list, each once, where it stands first. -/
def once : List Nat → List Nat
  | [] => []
  | x :: t => x :: (once t).filter fun y => y != x

/-- The destinations of a notice, as unit ids in list order (R86). An id that two other units carry stands once, so one answer
serves both: the awaited set holds a member once, and this is the model's reading (log entry 90). -/
def destinations (s : Part) (t : Targets) : List Nat := once (((otherUnits s).filter (reaches t)).map (·.unitId))

/-- The destinations of a clear: every other unit, an id once (R86; log entry 90). -/
def clearDestinations (s : Part) : List Nat := once ((otherUnits s).map (·.unitId))

/-- The leader's unit id in a record: the unit at list index 1 (R83). -/
def leaderId (r : FormRecord) : Nat := ((r.units.head?).map (·.unitId)).getD 0

/-- A unit is listed at list index 2 or above. -/
def listedFollower (r : FormRecord) (u : Nat) : Bool := r.units.tail.any fun x => x.unitId == u

/-! ### The train tally table and the seat summary -/

/-- The own entries as they are to be written: one per own coach at its position, with the booked number that the formation
in force holds for it (R129, log entry 64). -/
def ownTallyEntries (s : Part) : List TallyEntry :=
  ((positions (inForce s)).filter fun x => x.unitIndex == (inForce s).ownIndex).map fun x =>
    let c := (s.seat.counts[x.coach]?).getD (0, 0)
    { position := x.position, booked := x.booked, unitId := s.unit.unitId, freeEnd := c.1, freeDivide := c.2
      epoch := (inForce s).epoch }

/-- The table with entries written at their positions, in position order. -/
def writeTallies (new : List TallyEntry) (old : List TallyEntry) : List TallyEntry :=
  sortBy (fun a b => a.position < b.position)
    ((old.filter fun e => !new.any fun x => x.position == e.position) ++ new)

/-- Write the own entries (R129). -/
def writeOwnTallies (s : Part) : Part :=
  let others := s.form.trainTally.filter fun e => e.unitId != s.unit.unitId
  { s with form := { s.form with trainTally := writeTallies (ownTallyEntries s) others } }

/-- An entry of the table is eligible for the seat summary (R130). -/
def eligible (s : Part) (e : TallyEntry) : Bool :=
  e.epoch == (inForce s).epoch &&
    (positions (inForce s)).any fun x => x.position == e.position && x.unitId == e.unitId && x.portion == s.unit.portionTag

/-- The seat summary list (R130). -/
def seatSummary (s : Part) : List SummaryEntry :=
  ((sortBy (fun (a b : TallyEntry) => b.freeEnd < a.freeEnd || (a.freeEnd == b.freeEnd && a.position < b.position))
    (s.form.trainTally.filter (eligible s))).take 6).map fun e =>
      { position := e.position, booked := e.booked, freeEnd := e.freeEnd, freeDivide := e.freeDivide }

end Sys2Proof.Machine
end

