-- ==== Sys2Proof/Machine/SeatOps.lean ====
section
/-! DEFINITION. The Reservation Store and Seat Sense: legs and their lifecycle, free horizons and seat display states, the
sensor records, and the own tally (sections 6 and 7). -/
namespace Sys2Proof.Machine

/-! ### Legs -/

/-- BOOKED and CLAIMED legs are active (R94). -/
def Leg.active (l : Leg) : Bool := l.state == .booked || l.state == .claimed

/-- The leg is on a seat. -/
def Leg.onSeat (l : Leg) (c p : Nat) : Bool := l.coach == c && l.seat == p

/-- Two legs cover a common stop range (R96). -/
def Leg.overlaps (a b : Leg) : Bool := a.frm < b.till && b.frm < a.till

/-- Two legs are on the same seat. -/
def Leg.sameSeat (a b : Leg) : Bool := a.coach == b.coach && a.seat == b.seat

/-- Order of the pool: coach, seat, from, leg id (R96). -/
def Leg.before (a b : Leg) : Bool :=
  a.coach < b.coach || (a.coach == b.coach && (a.seat < b.seat || (a.seat == b.seat &&
    (a.frm < b.frm || (a.frm == b.frm && a.id < b.id)))))

/-- A leg meets an active leg of its seat among others. -/
def meetsActive (l : Leg) (others : List Leg) : Bool := others.any fun x => x.active && x.sameSeat l && x.overlaps l

/-- The free records (R95). -/
def freeLegs (r : Reservations) : Nat := Config.legRecords - r.legs.length

/-- The phase a claim window opens with: OPEN with a sensor fitted, DONE without (R98). -/
def openedPhase (u : UnitDesc) (l : Leg) : Phase := if sensorFitted u l.coach l.seat then .opened else .done

/-- Map the legs. -/
def mapLegs (f : Leg → Leg) (s : Part) : Part := { s with res := { s.res with legs := s.res.legs.map f } }

/-- Free every allocated leg that a test names. -/
def freeWhere (f : Leg → Bool) (s : Part) : Part := { s with res := { s.res with legs := s.res.legs.filter fun l => !f l } }

/-- Free every allocated leg whose to is at or below p (R102, step 1; R103; R111). -/
def freeFinished (s : Part) : Part :=
  match s.route.prog.p with
  | some p => freeWhere (fun l => l.till ≤ p) s
  | none => s

/-- Open the window of every BOOKED leg in phase AHEAD whose from is at or below k (R102, step 2). -/
def openWindows (k : Nat) (s : Part) : Part :=
  mapLegs (fun l => if l.state == .booked && l.phase == .ahead && l.frm ≤ k then { l with phase := openedPhase s.unit l } else l) s

/-- The sensor record of a seat. -/
def sensorAt (q : SeatSense) (c p : Nat) : Option Sensor := (q.sensors[c]?).bind fun r => r[p]?

/-- The seat is held occupied. -/
def seatOccupied (q : SeatSense) (c p : Nat) : Bool := ((sensorAt q c p).map (·.occupied)).getD false

/-- The seat's evidence is FRESH (R123). -/
def evidenceFresh (q : SeatSense) (c p : Nat) : Bool := ((sensorAt q c p).map fun x => x.age.isSome).getD false

/-- The leg's deadline is reached at a clock value (R107). -/
def deadlineReached (clock : Nat) (l : Leg) : Bool :=
  match l.phase with
  | .timed d => d ≤ clock
  | _ => false

/-- What a reached deadline makes of a leg (R107). -/
def decideLeg (s : Part) (l : Leg) : Leg :=
  if isRun s && evidenceFresh s.seat l.coach l.seat then
    if seatOccupied s.seat l.coach l.seat then { l with state := .claimed, phase := .done }
    else { l with state := .released, phase := .done }
  else { l with phase := .deferred 0 }

/-- Count and latch some releases (R112). -/
def noteReleases (k : Nat) (s : Part) : Part :=
  if k = 0 then s
  else latch .legReleased { s with res := { s.res with releaseCount := countUp s.res.releaseCount k } }

/-- Count and latch some orphanings (R112). -/
def noteOrphans (k : Nat) (s : Part) : Part :=
  if k = 0 then s
  else latch .legOrphaned { s with res := { s.res with orphanCount := countUp s.res.orphanCount k } }

/-- Map the legs, and count and latch those that become RELEASED. -/
def mapReleasing (f : Leg → Leg) (s : Part) : Part :=
  noteReleases (s.res.legs.filter fun l => l.state != .released && (f l).state == .released).length (mapLegs f s)

/-- Decide every leg whose deadline the clock has reached (R107, R109). -/
def decideDeadlines (s : Part) : Part :=
  mapReleasing (fun l => if deadlineReached s.route.clock l then decideLeg s l else l) s

/-- On a departure at t from a stop: legs in OPEN that meet the conditions become TIMED (R104), and deadlines already
reached are decided. -/
def setDeadlines (t : Nat) (s : Part) : Part :=
  let w := s.host.params.claimWindow
  decideDeadlines (mapLegs (fun l =>
    if l.phase == .opened && !l.noRelease && 0 < w && s.route.clockSet then
      { l with phase := .timed (min Config.clockTop (t + 60 * w)) } else l) s)

/-- A poll report on a leg of the seat (R106, R108). -/
def reportLeg (occupied : Bool) (l : Leg) : Leg :=
  if l.state != .booked then l else
  match l.phase with
  | .opened => if occupied then { l with state := .claimed, phase := .done } else l
  | .timed _ => if occupied then { l with state := .claimed, phase := .done } else l
  | .deferred n =>
    if occupied then { l with state := .claimed, phase := .done }
    else if 2 ≤ n + 1 then { l with state := .released, phase := .done }
    else { l with phase := .deferred (n + 1) }
  | _ => l

/-- A poll report of a seat (R106, R108). -/
def pollReport (c p : Nat) (occupied : Bool) (s : Part) : Part :=
  mapReleasing (fun l => if l.onSeat c p then reportLeg occupied l else l) s

/-- Both stops of a leg are own calling stops. -/
def stopsCall (seq : List Nat) (l : Leg) : Bool := seq.contains l.frm && seq.contains l.till

/-- The orphaning pass (R110). -/
def orphanPass (s : Part) : Part :=
  let lost (l : Leg) : Bool := l.active && !stopsCall s.route.ownSeq l
  noteOrphans (s.res.legs.filter lost).length
    (mapLegs (fun l => if lost l then { l with state := .orphaned, phase := .done } else l) s)

/-- The phase of a restored leg (R110). -/
def restoredPhase (u : UnitDesc) (g : Progress) (p : Nat) (l : Leg) : Phase :=
  if p < l.frm then .ahead else if l.frm == p && g.state == .standing then openedPhase u l else .done

/-- The restoration pass over the legs in list order; `done` holds the legs passed, newest first (R110). -/
def restoreLegs (s : Part) (p : Nat) : List Leg → List Leg → List Leg
  | done, [] => done.reverse
  | done, l :: t =>
    if l.state == .orphaned && stopsCall s.route.ownSeq l && p < l.till && !meetsActive l (done ++ t) then
      restoreLegs s p ({ l with state := .booked, phase := restoredPhase s.unit s.route.prog p l } :: done) t
    else restoreLegs s p (l :: done) t

/-- The restoration pass; it does not run without a position, as in LOADING (R110). -/
def restorePass (s : Part) : Part :=
  match s.route.prog.p with
  | some p => { s with res := { s.res with legs := restoreLegs s p [] s.res.legs } }
  | none => s

/-- The orphan re-evaluation (R110). -/
def orphanReevaluation (s : Part) : Part := restorePass (orphanPass s)

/-! ### Horizons and displays (R113 to R116) -/

/-- A leg is now-covering (R94). -/
def Leg.covers (l : Leg) (p : Nat) : Bool := l.active && l.frm ≤ p && p < l.till

/-- The least of some numbers. -/
def leastOf : List Nat → Option Nat
  | [] => none
  | x :: t => match leastOf t with
    | some y => some (min x y)
    | none => some x

/-- Free horizon, display state and named stop of a seat (R113, R115, R116). -/
def seatView (s : Part) (c p : Nat) : SeatView :=
  match s.route.prog.p, s.route.ownSeq.getLast? with
  | some pos, some last =>
    if underWay s.route.prog.state then
      let legs := s.res.legs.filter fun l => l.onSeat c p
      match legs.find? (·.covers pos) with
      | some l => { horizon := some pos, display := .reserved, stop := some l.till }
      | none =>
        if seatOccupied s.seat c p then { horizon := some pos, display := .free, stop := none }
        else
          let h := (leastOf ((legs.filter fun l => l.active && pos < l.frm).map (·.frm))).getD last
          if pos < h && h < last then { horizon := some h, display := .freeUntil, stop := some h }
          else { horizon := some h, display := .free, stop := none }
    else {}
  | _, _ => {}

/-- The views of every seat. -/
def allViews (s : Part) : List (List SeatView) :=
  mapFrom (fun c r => mapFrom (fun p _ => seatView s c p) 0 r.seats) 0 s.unit.coaches

/-- The view held of a seat. -/
def viewAt (r : Reservations) (c p : Nat) : Option SeatView := (r.views[c]?).bind fun v => v[p]?

/-- What a view shows: display state and named stop (R116). -/
def shownOf (v : Option SeatView) : Option (SeatDisplay × Option Nat) := v.map fun x => (x.display, x.stop)

/-- Seat addresses of the endpoint list. -/
def seatAddrs (u : UnitDesc) : List EpAddr := (endpointList u.coaches).filter fun a => a.kind == .seat

/-- Recompute every seat's free horizon and display state; a seat unit whose display content changed has its content
version raised (R114, R116). -/
def recomputeSeats (s : Part) : Part :=
  let s' := { s with res := { s.res with views := allViews s } }
  let changed := (seatAddrs s.unit).filter fun a =>
    shownOf (viewAt s.res a.coach a.number) != shownOf (viewAt s'.res a.coach a.number)
  { s' with disp := raiseAll changed s.disp }

/-! ### Sensor records (R119 to R124) -/

/-- The record after a reading of a level (R121). -/
def Sensor.read (q : Params) (level : Nat) (x : Sensor) : Sensor :=
  let y := { x with age := some 0 }
  if x.occupied then
    if level ≤ q.offThreshold then
      if q.vacateHold + 1 ≤ x.run + 1 then { y with occupied := false, run := 0 } else { y with run := x.run + 1 }
    else { y with run := 0 }
  else
    if q.onThreshold ≤ level then
      if 2 ≤ x.run + 1 then { y with occupied := true, run := 0 } else { y with run := x.run + 1 }
    else { y with run := 0 }

/-- The record of a seat whose unit went ABSENT (R124). -/
def Sensor.freeze (x : Sensor) : Sensor := { x with frozen := true, run := 0, age := none }

/-- The record of a seat whose unit returned (R124). -/
def Sensor.unfreeze (x : Sensor) : Sensor := { x with frozen := false }

/-- Change the sensor record of a seat. -/
def sensorUpdate (c p : Nat) (f : Sensor → Sensor) (s : Part) : Part :=
  { s with seat := { s.seat with sensors := modifyAt c (modifyAt p f) s.seat.sensors } }

/-- Change every sensor record. -/
def mapSensors (f : Sensor → Sensor) (s : Part) : Part :=
  { s with seat := { s.seat with sensors := s.seat.sensors.map fun r => r.map f } }

/-- VACANT records with stale evidence for every seat of a description (R7, R132). -/
def freshSensors (coaches : List CoachRec) : List (List Sensor) := coaches.map fun r => r.seats.map fun _ => {}

/-! ### The own tally (R126 to R128) -/

/-- The columns: own calling stops after p, while under way (R126). -/
def tallyColumns (r : Route) : List Nat :=
  match r.prog.p with
  | some p => if underWay r.prog.state then r.ownSeq.filter fun i => p < i else []
  | none => []

/-- A tally entry: seats whose horizon lies at or beyond a stop (R126). -/
def seatsFreeTo (vs : List SeatView) (j : Nat) : Nat := (vs.filter fun v => (v.horizon.map fun h => decide (j ≤ h)).getD false).length

/-- The first column whose stop carries DIVIDE (R127). -/
def divideColumn (stops : List StopRec) (cols : List Nat) : Option Nat :=
  cols.find? fun j => ((stops[j]?).map (·.divide)).getD false

/-- Free-to-end and free-to-divide of a coach (R127). -/
def coachCounts (stops : List StopRec) (cols : List Nat) (vs : List SeatView) : Nat × Nat :=
  match cols.getLast? with
  | none => (0, 0)
  | some e => (seatsFreeTo vs e, seatsFreeTo vs ((divideColumn stops cols).getD e))

/-- The own tally rebuilt from the horizons (R126 to R128). -/
def rebuildTally (s : Part) : Part :=
  let cols := tallyColumns s.route
  { s with seat := { s.seat with columns := cols, rows := s.res.views.map fun vs => cols.map (seatsFreeTo vs)
                                 counts := s.res.views.map (coachCounts s.route.stops cols) } }

/-- Counts compared coach by coach, a coach that was not there counting 0 (R128). -/
def countsDiffer (a b : List (Nat × Nat)) : Bool :=
  (List.range (max a.length b.length)).any fun i => a.getD i (0, 0) != b.getD i (0, 0)

end Sys2Proof.Machine
end

