-- ==== Sys2Proof/Machine/RenderOps.lean ====
section
/-! DEFINITION. Rendering: numbers and times, substitution fields, lines and pages, languages (R23 to R26), the pages of
the levels (R140 to R144), exit arrows (R145, R146), and the content of every endpoint (R116, R154, R155). -/
namespace Sys2Proof.Machine

/-! ### Numbers and times (R24) -/

/-- Decimal digits of a number, most significant first. -/
def digits : Nat → Nat → List Byte
  | 0, _ => []
  | f + 1, n => if n < 10 then [byte (0x30 + n)] else digits f (n / 10) ++ [byte (0x30 + n % 10)]

/-- An unsigned number. -/
def number (n : Nat) : List Byte := digits 10 n

/-- A signed number: always a sign. -/
def signed (n : Int) : List Byte := (if n < 0 then 0x2D#8 else 0x2B#8) :: number n.natAbs

/-- Two digits with leading zeros. -/
def twoDigits (n : Nat) : List Byte := [byte (0x30 + n / 10), byte (0x30 + n % 10)]

/-- A time of five characters; the minute is reduced mod 1440. -/
def timeText (m : Nat) : List Byte := twoDigits (m % 1440 / 60) ++ 0x3A#8 :: twoDigits (m % 60)

/-! ### Texts, lines and pages (R23, R25, R26) -/

/-- The codes of a text in a language, slot 0 where the language is absent (R26). -/
def textIn (t : TextStore) (h lang : Nat) : List Byte :=
  match textAt t h with
  | some e => ((e.variant lang).getD e.v0).codes
  | none => []

/-- A text inserted as a value: a line break becomes a space, a substitution code contributes nothing (R23). -/
def inserted (codes : List Byte) : List Byte :=
  (codes.filter fun c => c.toNat == 0x0A || 7 < c.toNat).map fun c => if c == 0x0A#8 then 0x20#8 else c

/-- The next stop of the fields 0x02, 0x03 and 0x05 (R23). -/
def nextStop (r : Route) : Option Nat := if underWay r.prog.state then r.prog.n else none

/-- The name handle of a record. -/
def nameOf (r : Route) (i : Nat) : Option Nat := (r.stops[i]?).map (·.name)

/-- The name handle of the last stop of the own calling sequence. -/
def destination (r : Route) : Option Nat := r.ownSeq.getLast?.bind (nameOf r)

/-- A text value by handle, blank where there is none. -/
def valueText (t : TextStore) (lang : Nat) (h : Option Nat) : List Byte := (h.map fun x => inserted (textIn t x lang)).getD []

/-- The characters of an arrow (R23). -/
def arrowText : Arrow → List Byte
  | .left => asc "<-"
  | .right => asc "->"
  | .both => asc "<->"
  | .none => []

/-- The handle a substitution code inserts, for the codes whose value is a text (R23). -/
def substHandle (r : Route) (code : Nat) : Option Nat :=
  match code with
  | 2 => (nextStop r).bind (nameOf r)
  | 6 => r.train
  | 7 => destination r
  | _ => none

/-- The value of a substitution code for a coach, an arrow and a language (R23). -/
def substitute (s : Part) (coach : Nat) (arrow : Arrow) (lang code : Nat) : List Byte :=
  match code with
  | 1 => ((s.unit.coaches[coach]?).map fun c => number c.booked).getD []
  | 3 => if s.route.clockSet then
      (((nextStop s.route).bind (estOf s.est)).bind fun e => e.expected.map timeText).getD [] else []
  | 4 => arrowText arrow
  | 5 => if s.route.clockSet then
      (((nextStop s.route).bind (estOf s.est)).bind fun e => e.minutes.map signed).getD [] else []
  | c => valueText s.text lang (substHandle s.route c)

/-- The characters of an item after substitution (R23). -/
def substituted (s : Part) (coach : Nat) (arrow : Arrow) (lang : Nat) (codes : List Byte) : List Byte :=
  (codes.map fun c => if 1 ≤ c.toNat && c.toNat ≤ 7 then substitute s coach arrow lang c.toNat else [c]).flatten

/-- The parts between line breaks. -/
def splitBreaks : List Byte → List (List Byte)
  | [] => [[]]
  | c :: t =>
    match splitBreaks t with
    | l :: ls => if c == 0x0A#8 then [] :: l :: ls else (c :: l) :: ls
    | [] => [[c]]

/-- The lines of an item: a break that is its last code begins no further line (R25). -/
def itemLines (codes : List Byte) : List (List Byte) :=
  if codes.getLast? == some 0x0A#8 then (splitBreaks codes).dropLast else splitBreaks codes

/-- Three lines, filled with blank ones. -/
def threeLines (ls : List (List Byte)) : List (List Byte) := (ls ++ [[], [], []]).take 3

/-- Page k of some lines, each cut at 40 characters (R25). -/
def pageOf (k : Nat) (ls : List (List Byte)) : List (List Byte) :=
  (threeLines (ls.drop (3 * k))).map fun l => l.take Config.lineWidth

/-- Pages that L lines take. -/
def pagesFor (l : Nat) : Nat := (l + 2) / 3

/-- The codes of page k of an entry, over all its variants (log entry 54). -/
def entryPageCodes (e : TextEntry) (k : Nat) : List Byte :=
  (e.slots.map fun i => ((e.variant i).map fun v => (((itemLines v.codes).drop (3 * k)).take 3).flatten).getD []).flatten

/-- The text handles of a line. -/
def pieceHandles : List Piece → List Nat
  | [] => []
  | .lit _ :: t => pieceHandles t
  | .text h :: t => h :: pieceHandles t
  | .clock :: t => pieceHandles t
  | .expected _ :: t => pieceHandles t

/-- The text handles a page uses, directly or through the fields 0x02, 0x06 and 0x07 (R136), over all its variants (log entry
54). -/
def pageHandles (s : Part) : Page → List Nat
  | .composed ls _ => (ls.map pieceHandles).flatten
  | .notice h k => h :: ((((textAt s.text h).map fun e => entryPageCodes e k).getD []).filterMap fun c => substHandle s.route c.toNat)

/-- A page substitutes one of some codes. -/
def pageSubstitutes (s : Part) (codes : List Nat) : Page → Bool
  | .composed _ _ => false
  | .notice h k => (((textAt s.text h).map fun e => entryPageCodes e k).getD []).any fun c => codes.contains c.toNat

/-- The language set of a page (R136). -/
def languages (s : Part) (p : Page) : List Nat :=
  match (pageHandles s p).filterMap (textAt s.text) with
  | [] => [0]
  | es => [0, 1, 2].filter fun i => es.any fun e => (e.variant i).isSome

/-- The lowest language of a page. -/
def lowestLang (s : Part) (p : Page) : Nat := ((languages s p).head?).getD 0

/-- Line 3 of the approach page, from the estimate list as it stands (R142). -/
def approachLine (e : Estimates) (n : Nat) : List Byte :=
  if !e.valid then []
  else match estOf e n with
    | some x => if x.shown then asc "exp " ++ (x.expected.map timeText).getD [] else asc "on time"
    | none => []

/-- A line of pieces in a language. -/
def pieceText (s : Part) (lang : Nat) (l : List Piece) : List Byte :=
  (l.map fun x => match x with
    | .lit cs => cs
    | .text h => inserted (textIn s.text h lang)
    | .clock => if s.route.clockSet then timeText (s.route.clock / 60) else []
    | .expected i => approachLine s.est i).flatten

/-- A page rendered for a coach, an arrow and a language (R23, R25, R26). -/
def renderPage (s : Part) (coach : Nat) (arrow : Arrow) (lang : Nat) : Page → List (List Byte)
  | .composed ls _ => pageOf 0 (ls.map (pieceText s lang))
  | .notice h k => pageOf k (itemLines (substituted s coach arrow lang (textIn s.text h lang)))

/-! ### The pages of the levels (R140 to R144) -/

/-- A text value as a piece, or none. -/
def textPiece (h : Option Nat) : List Piece := (h.map Piece.text).toList

/-- The IDLE page (R140). -/
def idlePages (s : Part) : List Page :=
  [.composed [textPiece s.route.train, textPiece (destination s.route), [.clock]] []]

/-- The STANDING level's page (R141). -/
def standingPages (s : Part) : List Page :=
  match s.route.prog.state, s.route.prog.p, s.route.prog.halt with
  | .standing, some p, _ => [.composed [[.lit (asc "This is")], textPiece (nameOf s.route p), []] []]
  | .halted, _, some x =>
    [.composed [[.lit (asc "This is")], textPiece (nameOf s.route x), [.lit (asc "Doors do not open here")]] []]
  | _, _, _ => []

/-- Runs of a coach list, as first and last number: coaches at consecutive positions whose numbers rise by one (R143). -/
def coachRuns : List CoachPos → List (Nat × Nat)
  | [] => []
  | x :: t =>
    match coachRuns t with
    | (a, b) :: r =>
      if t.head?.any fun y => y.position == x.position + 1 && y.booked == x.booked + 1 then (x.booked, b) :: r
      else (x.booked, x.booked) :: (a, b) :: r
    | [] => [(x.booked, x.booked)]

/-- The coach list of some coaches in position order (R143). -/
def coachListText (cs : List CoachPos) : List Byte :=
  (List.intersperse (asc ", ") ((coachRuns cs).map fun r =>
    if r.1 == r.2 then number r.1 else number r.1 ++ asc "-" ++ number r.2)).flatten

/-- The coaches of a portion in units on the own route (R143). -/
def portionCoaches (s : Part) (k : Nat) : List CoachPos :=
  (positions (inForce s)).filter fun x => x.portion == k && x.route == routeInForce s.route

/-- The divide pages of a record (R143). -/
def dividePages (s : Part) (x : Nat) : List Page :=
  match s.route.stops[x]? with
  | none => []
  | some r =>
    ((portions r.mask).filter fun k => (callSeq s.route.stops k).any (fun i => x < i) && !(portionCoaches s k).isEmpty).map fun k =>
      .composed [[.lit (asc "Train divides at "), .text r.name],
                 [.lit (asc "coaches " ++ coachListText (portionCoaches s k))],
                 [.lit (asc "to ")] ++ textPiece (((callSeq s.route.stops k).getLast?).bind (nameOf s.route))] []

/-- A record carries DIVIDE. -/
def isDivide (r : Route) (i : Nat) : Bool := ((r.stops[i]?).map (·.divide)).getD false

/-- The APPROACH level's pages (R142). -/
def approachPages (s : Part) : List Page :=
  if !underWay s.route.prog.state then [] else
  match s.route.prog.n with
  | some n =>
    .composed [[.lit (asc "Next stop")], textPiece (nameOf s.route n), [.expected n]] [n] ::
      (if isDivide s.route n then dividePages s n else [])
  | none => []

/-- The route map line of a stop (R144). -/
def mapLine (s : Part) (i : Nat) : List Piece :=
  let name := textPiece (nameOf s.route i)
  if !s.est.valid then name
  else match estOf s.est i with
    | some x =>
      [.lit ((if x.shown then asc "exp " else []) ++ (x.expected.map timeText).getD [] ++ asc " ")] ++ name
    | none => name

/-- The route map pages: stops three per page (R144). -/
def mapPages (s : Part) : List Nat → List Page
  | a :: b :: c :: t => .composed [mapLine s a, mapLine s b, mapLine s c] [a, b, c] :: mapPages s t
  | [a, b] => [.composed [mapLine s a, mapLine s b, []] [a, b]]
  | [a] => [.composed [mapLine s a, [], []] [a]]
  | [] => []

/-- Lines of fixed characters laid out as pages. -/
def linePages : List (List Byte) → List Page
  | a :: b :: c :: t => .composed [[.lit a], [.lit b], [.lit c]] [] :: linePages t
  | [a, b] => [.composed [[.lit a], [.lit b], []] []]
  | [a] => [.composed [[.lit a], [], []] []]
  | [] => []

/-- The seat summary item (R144). -/
def summaryLines (l : List SummaryEntry) : List (List Byte) :=
  if l.isEmpty then []
  else asc "Free seats" :: l.map fun e => asc "Coach " ++ number e.booked ++ asc ": " ++ number e.freeEnd ++ asc " seats"

/-- The JOURNEY level's pages (R144). -/
def journeyPages (s : Part) : List Page :=
  match s.route.prog.p with
  | some p =>
    if underWay s.route.prog.state then
      let ahead := s.route.ownSeq.filter fun i => p < i
      mapPages s ahead ++ ((ahead.find? (isDivide s.route)).map (dividePages s)).getD [] ++ linePages (summaryLines s.seat.summary)
    else []
  | none => []

/-! ### Exit arrows (R145, R146) -/

/-- The physical side of a platform side for an orientation (R145). -/
def physical : Side → Orientation → PhysSide
  | .left, .forward => .side1
  | .left, .reversed => .side2
  | .right, .forward => .side2
  | .right, .reversed => .side1
  | .both, .forward => .both
  | .both, .reversed => .both
  | _, _ => .none

/-- The arrow of a physical side at a panel's end, number 1 for the A end (R146). -/
def arrowAt : PhysSide → Nat → Arrow
  | .side1, 1 => .left
  | .side1, _ => .right
  | .side2, 1 => .right
  | .side2, _ => .left
  | .both, _ => .both
  | .none, _ => .none

/-- The platform side of a record. -/
def sideOf (r : Route) (i : Nat) : Side := ((r.stops[i]?).map (·.side)).getD .none

/-- The physical side in use (R146). -/
def arrowSide (s : Part) : PhysSide :=
  match s.route.prog.state with
  | .standing => (s.panel.standing.map (·.side)).getD .none
  | .approaching => (s.route.prog.n.map fun n => physical (sideOf s.route n) (ownOrientation s)).getD .none
  | _ => .none

/-- The exit arrow of an interior panel, by its number (R146). -/
def panelArrow (s : Part) (num : Nat) : Arrow := arrowAt (arrowSide s) num

/-! ### The pages of a notice (R25, R136) -/

/-- The lines of a known text in a language, after substitution (R25). How many they are is the same for every coach and
either end: only a value that is blank for all of them can take a line away. -/
def noticeLines (s : Part) (h lang : Nat) : List (List Byte) :=
  itemLines (substituted s 0 (panelArrow s 1) lang (textIn s.text h lang))

/-- Pages of a notice text: the most that it takes in one of the languages (log entry 24). -/
def entryPages (s : Part) (h : Nat) : Nat :=
  if textKnown s.text h then ([0, 1, 2].map fun lang => pagesFor (noticeLines s h lang).length).foldl max 0 else 0

/-- The pages of a notice text (R136). -/
def noticePages (s : Part) (h : Nat) : List Page := (List.range (entryPages s h)).map fun k => .notice h k

/-! ### Content of endpoints (R116, R154, R155) -/

/-- The occupied slot at an index of a level. -/
def slotAt (q : Panels) (l : NoticeLevel) (i : Nat) : Option Slot :=
  match l with
  | .staff => (q.staff[i]?).join
  | .service => (q.service[i]?).join

/-- The rotation a coach shows (R135, R151). -/
def rotationOf (q : Panels) (c : CoachShow) : Option Context :=
  match c.shown with
  | .idle => some q.idleCtx
  | .journey => some q.journeyCtx
  | .approach => some q.approachCtx
  | .standing => some q.standingCtx
  | .staff => (c.staff.bind (slotAt q .staff)).map (·.rotation)
  | .service => (c.service.bind (slotAt q .service)).map (·.rotation)

/-- The current page and language of a rotation. -/
def currentPage (x : Context) : Option (Page × Nat) := (x.pages[x.index]?).map fun p => (p, x.lang)

/-- What a coach's interior panels show. -/
def shownPage (q : Panels) (c : CoachShow) : Option (Page × Nat) := (rotationOf q c).bind currentPage

/-- The content of an interior panel (R154). -/
def interiorContent (s : Part) (coach num : Nat) : PanelContent :=
  let c := (s.panel.coaches[coach]?).getD {}
  if s.panel.brightness == .dark then { brightness := .dark, lines := [[], [], []], arrow := .none }
  else
    { brightness := s.panel.brightness
      lines := ((shownPage s.panel c).map fun x => renderPage s coach (panelArrow s num) x.2 x.1).getD [[], [], []]
      arrow := if c.shown == .standing || c.shown == .approach then panelArrow s num else .none }

/-- The line that a text field of an endpoint of a coach receives: the first line of the text as an item in language 0, with no
arrow; an exterior panel and a seat unit have one line for it (R23, R25, R26; log entry 28). -/
def fieldLine (s : Part) (coach : Nat) (h : Option Nat) : List Byte :=
  (h.bind fun x => (itemLines (substituted s coach .none 0 (textIn s.text x 0))).head?).getD []

/-- The handles that a text field shows: its own, and those that the codes of its line insert (R16, R23; log entry 55). -/
def fieldHandles (s : Part) (h : Option Nat) : List Nat :=
  h.toList ++ ((h.bind fun x => (itemLines (textIn s.text x 0)).head?).getD []).filterMap fun c => substHandle s.route c.toNat

/-- The handles that an exterior panel's content uses (R155). -/
def exteriorHandles (s : Part) : List Nat := fieldHandles s (destination s.route) ++ fieldHandles s s.route.train

/-- The content of an exterior panel (R155). -/
def exteriorContent (s : Part) (coach : Nat) : PanelContent :=
  if s.panel.brightness == .dark then { brightness := .dark, lines := [[], [], []], arrow := .none }
  else
    { brightness := s.panel.brightness
      lines := pageOf 0 [((s.unit.coaches[coach]?).map fun c => number c.booked).getD [],
                         fieldLine s coach (destination s.route), fieldLine s coach s.route.train]
      arrow := .none }

/-- The content of a panel. -/
def panelContent (s : Part) (a : EpAddr) : PanelContent :=
  match a.kind with
  | .exterior => exteriorContent s a.coach
  | _ => interiorContent s a.coach a.number

/-- The stop name a seat unit shows: its first rendered line in language 0, cut at 40 (R116). -/
def seatStopName (s : Part) (coach i : Nat) : List Byte :=
  (fieldLine s coach ((s.route.stops[i]?).map fun r => r.short.getD r.name)).take Config.lineWidth

/-- The content of a seat unit (R116). -/
def seatContent (s : Part) (c p : Nat) : SeatContent :=
  let v := (viewAt s.res c p).getD {}
  { display := v.display, dim := v.display == .noService
    label := number (((seatAt s.unit c p).map (·.label)).getD 0)
    line1 := match v.display with
      | .reserved => asc "reserved"
      | .freeUntil => asc "free to"
      | _ => []
    line2 := match v.display, v.stop with
      | .reserved, some i => seatStopName s c i
      | .freeUntil, some i => seatStopName s c i
      | _, _ => [] }

/-- The content record a transfer sends (R162). -/
def transferContent (s : Part) (e : EpEntry) : EpContent :=
  match e.addr.kind with
  | .seat => .seat (seatContent s e.addr.coach e.addr.number)
  | _ => .panel (e.rendered.getD (panelContent s e.addr))

end Sys2Proof.Machine
end

