-- ==== Sys2Proof/Machine/PanelOps.lean ====
section
/-! DEFINITION. The Panel Composer's one re-evaluation: standing side, page lists, selection, shown levels, contexts in use,
and the panels rendered anew (R134 to R139, R145, R151, R154); notice slots, brightness and the stabling timer (R147,
R152, R156). -/
namespace Sys2Proof.Machine

/-! ### Contexts -/

/-- The context of a level. -/
def contextOf (q : Panels) : ProgLevel → Context
  | .idle => q.idleCtx
  | .journey => q.journeyCtx
  | .approach => q.approachCtx
  | .standing => q.standingCtx

/-- The Composer with a level's context replaced. -/
def setContext (q : Panels) (l : ProgLevel) (x : Context) : Panels :=
  match l with
  | .idle => { q with idleCtx := x }
  | .journey => { q with journeyCtx := x }
  | .approach => { q with approachCtx := x }
  | .standing => { q with standingCtx := x }

/-- The content level a context belongs to. -/
def progLevel : ProgLevel → Level
  | .idle => .idle
  | .journey => .journey
  | .approach => .approach
  | .standing => .standing

/-- The page list of a level as the state gives it (section 8.3). -/
def levelPages (s : Part) : ProgLevel → List Page
  | .idle => idlePages s
  | .journey => journeyPages s
  | .approach => approachPages s
  | .standing => standingPages s

/-- A level is active by the progress record (R134). -/
def progActive (g : PState) : ProgLevel → Bool
  | .idle => true
  | .journey => g == .departed
  | .approach => g == .approaching
  | .standing => g == .standing || g == .halted

/-- The lowest language of page i of a list. -/
def langAt (s : Part) (pages : List Page) (i : Nat) : Nat := ((pages[i]?).map (lowestLang s)).getD 0

/-- A context over a newly derived page list (R139). -/
def fitContext (s : Part) (pages : List Page) (x : Context) : Context :=
  let i := if x.index < pages.length then x.index else 0
  let l := if x.index < pages.length then x.lang else langAt s pages 0
  let ok := ((pages[i]?).map fun p => (languages s p).contains l).getD false
  { x with pages := pages, index := i, lang := if ok then l else langAt s pages i }

/-- A reset context over a page list (R138). -/
def resetContext (s : Part) (pages : List Page) (x : Context) : Context :=
  { x with pages := pages, index := 0, lang := langAt s pages 0, dwell := s.host.params.pageDwell }

/-- A context put in or out of use; one that comes into use does so with a full page dwell (R138). -/
def putInUse (s : Part) (use : Bool) (x : Context) : Context :=
  { x with inUse := use, dwell := if use && !x.inUse then s.host.params.pageDwell else x.dwell }

/-- The rotation of a newly filled slot (R138). -/
def newRotation (s : Part) (h : Nat) : Context :=
  { pages := noticePages s h, index := 0, lang := langAt s (noticePages s h) 0, dwell := s.host.params.pageDwell }

/-- The advance of a rotation at the end of its dwell (R137). -/
def advance (s : Part) (x : Context) : Context :=
  match x.pages[x.index]? with
  | none => { x with dwell := s.host.params.pageDwell }
  | some p =>
    match (languages s p).find? fun i => x.lang < i with
    | some i => { x with lang := i, dwell := s.host.params.pageDwell }
    | none =>
      let j := if x.index + 1 < x.pages.length then x.index + 1 else 0
      { x with index := j, lang := langAt s x.pages j, dwell := s.host.params.pageDwell }

/-! ### Slots and selection -/

/-- The slots of a level. -/
def slotsOf (q : Panels) : NoticeLevel → List (Option Slot)
  | .staff => q.staff
  | .service => q.service

/-- The Composer with a level's slots replaced. -/
def setSlots (q : Panels) (l : NoticeLevel) (x : List (Option Slot)) : Panels :=
  match l with
  | .staff => { q with staff := x }
  | .service => { q with service := x }

/-- An occupied slot applies to an own coach (R147). -/
def applies (x : Slot) (booked : Nat) : Bool :=
  match x.targets with
  | .all => true
  | .unit => x.origin.isNone
  | .coaches ns => ns.contains booked

/-- The selected slot among those from index `i` on: highest sub-priority, then lowest index (R151). -/
def selectFrom (booked : Nat) : Nat → List (Option Slot) → Option (Nat × Nat)
  | _, [] => none
  | i, x :: t =>
    match x, selectFrom booked (i + 1) t with
    | some y, r =>
      if applies y booked then
        match r with
        | some (j, sp) => if y.subPriority < sp then some (j, sp) else some (i, y.subPriority)
        | none => some (i, y.subPriority)
      else r
    | none, r => r

/-- The selected slot of a level for a coach (R151). -/
def selected (slots : List (Option Slot)) (booked : Nat) : Option Nat := (selectFrom booked 0 slots).map (·.1)

/-- What a coach shows (R134, R135, R151). -/
def coachShow (q : Panels) (g : PState) (booked : Nat) : CoachShow :=
  let st := selected q.staff booked
  let sv := selected q.service booked
  { staff := st, service := sv
    shown :=
      if st.isSome then .staff
      else if progActive g .standing then .standing
      else if progActive g .approach then .approach
      else if sv.isSome then .service
      else if progActive g .journey then .journey
      else .idle }

/-- The slot rotations of a level refreshed: fitted to their pages, or reset while no coach has the level active (R138, R139). -/
def refreshSlots (s : Part) (active : Bool) (slots : List (Option Slot)) : List (Option Slot) :=
  slots.map fun x => x.map fun y =>
    { y with rotation := (if active then fitContext s (noticePages s y.handle) y.rotation
                          else resetContext s (noticePages s y.handle) y.rotation) }

/-- A level context refreshed (R138, R139). -/
def refreshLevel (s : Part) (l : ProgLevel) : Context :=
  if progActive s.route.prog.state l then fitContext s (levelPages s l) (contextOf s.panel l)
  else resetContext s (levelPages s l) (contextOf s.panel l)

/-- Some own coach with a fitted interior panel satisfies a test. -/
def someCoach (u : UnitDesc) (cs : List CoachShow) (f : CoachShow → Bool) : Bool :=
  (u.coaches.zip cs).any fun x => hasInterior x.1 && f x.2

/-- The slot rotations of a level put in or out of use (R137). -/
def useSlots (s : Part) (f : Nat → Bool) (slots : List (Option Slot)) : List (Option Slot) :=
  mapFrom (fun i x => x.map fun y => { y with rotation := putInUse s (f i) y.rotation }) 0 slots

/-- The standing side as R145 keeps it, and whether it was computed now. -/
def standingSide (s : Part) : Option Standing × Bool :=
  match s.route.prog.state, s.route.prog.p with
  | .standing, some p =>
    let o := ownOrientation s
    let fresh : Standing := { p := p, side := physical (sideOf s.route p) o, pending := o == .unknown }
    match s.panel.standing with
    | some x => if x.p == p then (if x.pending && o != .unknown then (some fresh, true) else (some x, false)) else (some fresh, true)
    | none => (some fresh, true)
  | _, _ => (none, false)

/-- The Composer's state re-evaluated against the rest of the part, without rendering. -/
def reevaluate (s : Part) : Panels :=
  let q0 := { s.panel with standing := (standingSide s).1 }
  let shows := s.unit.coaches.map fun c => coachShow q0 s.route.prog.state c.booked
  let s0 := { s with panel := q0 }
  let q1 := { q0 with
    coaches := shows
    staff := refreshSlots s0 (shows.any (·.staff.isSome)) q0.staff
    service := refreshSlots s0 (shows.any (·.service.isSome)) q0.service
    idleCtx := refreshLevel s .idle
    journeyCtx := refreshLevel s .journey
    approachCtx := refreshLevel s .approach
    standingCtx := refreshLevel s .standing }
  let use (l : Level) : Bool := someCoach s.unit shows fun c => c.shown == l
  { q1 with
    idleCtx := putInUse s (use .idle) q1.idleCtx
    journeyCtx := putInUse s (use .journey) q1.journeyCtx
    approachCtx := putInUse s (use .approach) q1.approachCtx
    standingCtx := putInUse s (use .standing) q1.standingCtx
    staff := useSlots s (fun i => someCoach s.unit shows fun c => c.shown == .staff && c.staff == some i) q1.staff
    service := useSlots s (fun i => someCoach s.unit shows fun c => c.shown == .service && c.service == some i) q1.service }

/-! ### Rendering -/

/-- What a re-evaluation was caused by, beyond what the state itself shows to have changed (R154). -/
structure Cause where
  /-- The arrows may have changed (R146). -/
  arrow : Bool := false
  /-- Text handles named as changed (R16). -/
  handles : List Nat := []
  /-- Stops named by the Estimate Unit (R66). -/
  named : List Nat := []
  /-- A minute change is reported (R140). -/
  clock : Bool := false
  /-- Substitution codes whose values changed with the own portion (R10, R154). -/
  fields : List Nat := []
  /-- The slot that was filled, or whose notice was replaced in place (R150, R152). -/
  slot : Option (NoticeLevel × Nat) := none
  /-- Coaches whose booked number changed (R9). -/
  coaches : List Nat := []
  /-- Every exterior panel is rendered anew (R155). -/
  exterior : Bool := false
  /-- Every panel is rendered anew. -/
  all : Bool := false
  /-- No panel is rendered: they are at the warm return (R152). -/
  silent : Bool := false
deriving DecidableEq, Repr

/-- What a coach shows, as far as the Composer holds it: shown level, the selected slot of each notice level, the shown one or
not (R135, R152; log entry 27), and page list, page and language. -/
def showKey (q : Panels) (c : CoachShow) : CoachShow × Option (List Page × Nat × Nat) :=
  (c, (rotationOf q c).map fun x => (x.pages, x.index, x.lang))

/-- What the coach at an index shows. -/
def coachKey (q : Panels) (i : Nat) : Option (CoachShow × Option (List Page × Nat × Nat)) := (q.coaches[i]?).map (showKey q)

/-- A coach shows the rotation of a slot. -/
def showsSlot (c : CoachShow) (x : NoticeLevel × Nat) : Bool :=
  match x.1 with
  | .staff => c.shown == .staff && c.staff == some x.2
  | .service => c.shown == .service && c.service == some x.2

/-- What a coach shows is touched by a cause (R140, R142, R146, R152, R154). -/
def touches (s : Part) (cause : Cause) (c : CoachShow) : Bool :=
  match shownPage s.panel c with
  | none => false
  | some (p, _) =>
    (cause.arrow && ((c.shown == .standing && s.route.prog.state == .standing) || c.shown == .approach ||
        pageSubstitutes s [4] p)) ||
      ((pageHandles s p).any fun h => cause.handles.contains h) ||
      (!cause.named.isEmpty && ((match p with
        | .composed _ st => st.any fun i => cause.named.contains i
        | .notice _ _ => false) || pageSubstitutes s [3, 5] p)) ||
      pageSubstitutes s cause.fields p || (cause.slot.any fun x => showsSlot c x) ||
      (cause.clock && c.shown == .idle)

/-- An interior panel of a coach is rendered anew; `old` is the Composer before the re-evaluation. -/
def interiorDue (old : Panels) (s : Part) (cause : Cause) (coach : Nat) : Bool :=
  cause.all || cause.coaches.contains coach || coachKey old coach != coachKey s.panel coach ||
    ((s.panel.coaches[coach]?).map (touches s cause)).getD false

/-- An exterior panel is rendered anew (R154, R155); while DARK it counts as using its handles (log entry 55). A substituted
value that changes is no cause of its own (log entry 28). -/
def exteriorDue (s : Part) (cause : Cause) (coach : Nat) : Bool :=
  cause.all || cause.exterior || cause.coaches.contains coach ||
    (exteriorHandles s).any fun h => cause.handles.contains h

/-- A panel is rendered anew. -/
def panelDue (old : Panels) (s : Part) (cause : Cause) (a : EpAddr) : Bool :=
  match a.kind with
  | .seat => false
  | .interior => interiorDue old s cause a.coach
  | .exterior => exteriorDue s cause a.coach

/-- Render one panel anew: its content record is computed and its content version raised (R154). -/
def renderPanel (s : Part) (d : Display) (a : EpAddr) : Display :=
  raiseContent a (epUpdate a (fun e => { e with rendered := some (panelContent s a) }) d)

/-- Render some panels anew, in address order. -/
def renderPanels (l : List EpAddr) (s : Part) : Part := { s with disp := l.foldl (renderPanel s) s.disp }

/-- The panels of the unit that a test names, in address order. -/
def panelsWhere (s : Part) (f : EpAddr → Bool) : List EpAddr := (endpointList s.unit.coaches).filter f

/-- The Panel Composer re-evaluates everything it derives and renders anew every panel the change concerns (R135, R139,
R154), in every supply mode (R171); at an expiry in BREAK_HOLD it leaves the rendering to the warm return (R152). -/
def composer (cause : Cause) (s : Part) : Part :=
  let s' := { s with panel := reevaluate s }
  let c := { cause with arrow := cause.arrow || (standingSide s).2 }
  if cause.silent then s' else renderPanels (panelsWhere s' (panelDue s.panel s' c)) s'

/-! ### Namings (R66, R130, R144) -/

/-- The interior panels of the coaches that a test names. -/
def interiorWhere (s : Part) (f : CoachShow → Bool) : List EpAddr :=
  panelsWhere s fun a => a.kind == .interior && ((s.panel.coaches[a.coach]?).map f).getD false

/-- The contexts of some levels over their page lists derived anew (R139). What the coaches show, the notice slots and the
standing side stand as they are: the Composer's own step follows. -/
def rederive (ls : List ProgLevel) (s : Part) : Part :=
  { s with panel := ls.foldl (fun q l => setContext q l (refreshLevel s l)) s.panel }

/-- A coach shows an active level, or the JOURNEY level, whose pages differ between two states of the Composer (R10, R144). -/
def pagesTurned (old : Panels) (s : Part) (c : CoachShow) : Bool :=
  [ProgLevel.journey, .approach].any fun l =>
    c.shown == progLevel l && (l == .journey || progActive s.route.prog.state l) &&
      (contextOf old l).pages != (contextOf s.panel l).pages

/-- Derive the pages of some levels anew after a naming, and render the interior panels it concerns: those of the coaches the
test names, and those that show one of these levels where its pages changed (R144, R154). -/
def renderNamed (ls : List ProgLevel) (f : CoachShow → Bool) (s : Part) : Part :=
  let s' := rederive ls s
  renderPanels (interiorWhere s fun c => f c || pagesTurned s.panel s' c) s'

/-- The Estimate Unit names stops: every panel whose current page, as it is held, uses one of them is rendered anew, and so is
every panel that shows the APPROACH or the JOURNEY level where the new list changes its pages (R66, R142, R144, R154). -/
def nameStops (l : List Nat) (s : Part) : Part :=
  if l.isEmpty then s else renderNamed [.journey, .approach] (touches s { named := l }) s

/-- The seat summary list, which was `before`, is named where it changed: every panel whose pages include its page is rendered
anew (R130, R144). -/
def nameSummary (before : List SummaryEntry) (s : Part) : Part :=
  if s.seat.summary == before then s else renderNamed [.journey] (fun c => c.shown == .journey && !before.isEmpty) s

/-! ### Brightness and the stabling timer (R156) -/

/-- A STAFF slot is occupied. -/
def staffOccupied (q : Panels) : Bool := q.staff.any (·.isSome)

/-- The stabling condition (R156). -/
def stablingCondition (s : Part) : Bool :=
  (s.route.prog.state == .idle || s.route.prog.state == .terminated) && !staffOccupied s.panel

/-- The full stabling timeout in seconds. -/
def fullStabling (s : Part) : Nat := 60 * s.host.params.stabling

/-- Restart the timer while the condition holds, stop it otherwise (R156). -/
def restartStabling (s : Part) : Part :=
  { s with panel := { s.panel with stabling := if stablingCondition s then some (fullStabling s) else none } }

/-- Start the timer where the condition became true, stop it where it is false (R156). -/
def followStabling (before : Bool) (s : Part) : Part :=
  let now := stablingCondition s
  let t := if now then (if before then s.panel.stabling else some (fullStabling s)) else none
  { s with panel := { s.panel with stabling := t } }

/-- The brightness outside DARK (R156). -/
def litBrightness (s : Part) : Brightness := if s.host.params.night == 1 then .dim else .bright

/-- Set the brightness. -/
def setBrightness (b : Brightness) (s : Part) : Part := { s with panel := { s.panel with brightness := b } }

/-- Leave DARK (or keep out of it), then re-evaluate: a change of brightness renders every panel (R154, R156). -/
def lightAndCompose (cause : Cause) (s : Part) : Part :=
  let b := litBrightness s
  composer { cause with all := cause.all || b != s.panel.brightness } (setBrightness b s)

/-! ### Filling and emptying slots (R148 to R152) -/

/-- Write a place of a level's slots. -/
def putSlot (l : NoticeLevel) (i : Nat) (x : Option Slot) (s : Part) : Part :=
  { s with panel := setSlots s.panel l ((slotsOf s.panel l).set i x) }

/-- Change the Text Store. -/
def onText (f : TextStore → TextStore) (s : Part) : Part := { s with text := f s.text }

/-- Place (empty or replace) without re-evaluation: the slot's text handle is released (R152). -/
def vacate (l : NoticeLevel) (i : Nat) (s : Part) : Part :=
  match slotAt s.panel l i with
  | some x => onText (release x.handle) (putSlot l i none s)
  | none => s

/-- The place of a notice by origin and id, among both levels (R148 to R150). -/
def findNotice (q : Panels) (origin : Option Nat) (id : Nat) : Option (NoticeLevel × Nat) :=
  let hit (x : Option Slot) : Bool := (x.map fun y => y.origin == origin && y.noticeId == id).getD false
  match q.staff.findIdx? hit with
  | some i => some (.staff, i)
  | none => (q.service.findIdx? hit).map fun i => (.service, i)

/-- A slot's contents as a raise fills them (R148, R150). -/
def newSlot (s : Part) (origin : Option Nat) (id subPriority : Nat) (targets : Targets) (h duration : Nat) : Slot :=
  { origin := origin, noticeId := id, subPriority := subPriority, targets := targets, handle := h, duration := duration
    remaining := if duration = 0 then none else some duration, rotation := newRotation s h }

/-- After slots were filled or emptied: selection, activity, brightness and the stabling timer (R148, R152, R156).
`before` is the stabling condition before the change; `filled` is the slot that was filled or whose notice was replaced.
Outside RUN only an expiry empties a slot, and the panels wait for the warm return (R152). -/
def afterSlots (before : Bool) (filled : Option (NoticeLevel × Nat)) (s : Part) : Part :=
  let cause : Cause := { slot := filled, silent := !isRun s }
  followStabling before (if filled.any fun x => x.1 == .staff then lightAndCompose cause s else composer cause s)

/-- Empty one slot with all its effects (R152). -/
def emptySlot (l : NoticeLevel) (i : Nat) (s : Part) : Part :=
  afterSlots (stablingCondition s) none (vacate l i s)

/-- Places of both levels, in the order in which slots of one command empty: STAFF 0 to 3, then SERVICE 0 to 3. R81 and R152 give
the slots no order; this one is the model's choice (log entry 78). -/
def slotPlaces : List (NoticeLevel × Nat) :=
  [(.staff, 0), (.staff, 1), (.staff, 2), (.staff, 3), (.service, 0), (.service, 1), (.service, 2), (.service, 3)]

/-- Empty every slot that a test names, without re-evaluation. -/
def vacateWhere (f : Slot → Bool) (s : Part) : Part :=
  slotPlaces.foldl (fun s x => if ((slotAt s.panel x.1 x.2).map f).getD false then vacate x.1 x.2 s else s) s

end Sys2Proof.Machine
end

