-- ==== Sys2Proof/Machine/HandOps.lean ====
section
/-! DEFINITION. What a change hands on: answers to the host, the change rule of the own tallies and its pacing (R91, R128 to
R130), a change of the formation in force (R70), estimates and the minute (R37, R52, R66), and the hand-off of a progress
change (R40). -/
namespace Sys2Proof.Machine

/-! ### Answers of owners (R191, R192) -/

/-- The owner of an in-flight request answers it: its entry goes to SENDING and its reply joins the send queue (R191). -/
def answer (tag : Byte) (r : Result) (detail : List Byte) (s : Part) : Part :=
  match s.host.inFlight.find? fun e => e.tag == tag with
  | some e =>
    { s with host := { s.host with
        inFlight := s.host.inFlight.map fun x => if x.tag == tag then { x with phase := .sending } else x
        queue := s.host.queue ++ [.reply tag e.kind r detail] } }
  | none => s

/-! ### The line queue and the pacing of tallies (R77, R91) -/

/-- Change the Formation Controller. -/
def onForm (f : Formation → Formation) (s : Part) : Part := { s with form := f s.form }

/-- An item other than a NOTICE_FWD joins the tail, or is dropped where the queue is full (R77). -/
def queueItem (x : LineItem) (f : Formation) : Formation :=
  if f.queue.length < Config.lineQueueMax then { f with queue := f.queue ++ [x] } else f

/-- A change of the own tallies is reported: the pacing of TALLY frames, in RUN and with another unit in the formation in
force (R91, R133). -/
def reportTallies (s : Part) : Part :=
  if isRun s && hasOthers s then
    if s.form.queue.contains .tally then s
    else if s.form.spacing then onForm (fun f => { f with tallyPending := true }) s
    else onForm (fun f => { queueItem .tally f with spacing := true }) s
  else s

/-- The seat summary list as the tally table and the formation in force give it. -/
def setSummary (s : Part) : Part := { s with seat := { s.seat with summary := seatSummary s } }

/-- Derive the seat summary list anew, and name it where it changed (R130). -/
def deriveSummary (s : Part) : Part := nameSummary s.seat.summary (setSummary s)

/-- The own tally rebuilt, and the own tallies changed where a count of a coach differs (R128, R129). Seats that the Reservation
Store names together give one rebuild (log entry 65). -/
def tallyUpdate (s : Part) : Part :=
  let s' := rebuildTally s
  if countsDiffer s.seat.counts s'.seat.counts then deriveSummary (reportTallies (writeOwnTallies s')) else s'

/-- Horizons, displays, tally and summary brought up to date after a change of legs or sensors (R114, R125, R128). The seat units
whose display changed are raised first, then the Tally is told, whose summary raises panels: R114 gives the two no order, and this
is the model's choice (log entry 91). -/
def refreshSeats (s : Part) : Part := tallyUpdate (recomputeSeats s)

/-! ### The source of progress and the formation in force (R45, R70, R83) -/

/-- The source that R45 gives. -/
def sourceOf (s : Part) : Source :=
  if s.form.role == .following && routeInForce s.route != 0 && s.route.beaconRoute == some (routeInForce s.route) then .beacon
  else .own

/-- Evaluate the source of progress (R45). -/
def evalSource (s : Part) : Part := { s with route := { s.route with prog := { s.route.prog with source := sourceOf s } } }

/-- Tallies and panels after a change of the formation in force; `o` is the own orientation before it (R70, R146). -/
def formationHandOff (o : Orientation) (s : Part) : Part :=
  let s' := deriveSummary (writeOwnTallies s)
  composer { arrow := ownOrientation s' != o } s'

/-- The formation in force changed: the three hand-offs of R70 in their order. -/
def formationChanged (o : Orientation) (s : Part) : Part := formationHandOff o (evalSource s)

/-- The formation record is the own unit alone, as it is now (R70, R82, R93). -/
def recordAlone (s : Part) : Part := onForm (fun f => { f with record := ownAlone s }) s

/-- The own entry of the formation record rewritten in the fields that changed; its other fields stand (R83). While STANDALONE the
record is the own unit alone. -/
def rewriteOwn (g : UnitEntry → UnitEntry) (s : Part) : Part :=
  if s.form.role == .standalone then recordAlone s
  else onForm (fun f => { f with record := { f.record with units := modifyAt (f.record.ownIndex - 1) g f.record.units } }) s

/-- An entry with the present booked numbers (R9; all of them, log entry 86). -/
def withNumbers (s : Part) (u : UnitEntry) : UnitEntry := { u with booked := bookedNumbers s.unit }

/-- An entry with the present portion tag (R10). -/
def withTag (s : Part) (u : UnitEntry) : UnitEntry := { u with portion := s.unit.portionTag }

/-- An entry with the route id in force, where that was another `before` (R83). -/
def withRoute (before : Nat) (s : Part) (u : UnitEntry) : UnitEntry :=
  if routeInForce s.route == before then u else { u with route := routeInForce s.route }

/-- COACH-NUMBERS or PORTION-SET changed the own entry, as `g` rewrites it: a change of the formation in force, and of the own
tallies (R83, R91; log entry 69 for PORTION-SET). -/
def ownEntryChanged (g : UnitEntry → UnitEntry) (s : Part) : Part :=
  reportTallies (formationChanged (ownOrientation s) (rewriteOwn g s))

/-- The route id in force may have changed from `before` (R83): it is written into the own entry, the change handed on and counted
as a change of the own tallies. With `evaluate` false the source stands until the next beacon, as R33 states. -/
def routeIdChanged (before : Nat) (evaluate : Bool) (s : Part) : Part :=
  if routeInForce s.route == before then s
  else
    let s' := rewriteOwn (withRoute before s) s
    reportTallies (if evaluate then formationChanged (ownOrientation s) s' else formationHandOff (ownOrientation s) s')

/-! ### Estimates and the clock minute (R37, R52, R66) -/

/-- The list as a recomputation builds it from the part. -/
def newEstimates (s : Part) : Estimates := estimate s.route s.unit.portionTag s.host.params.threshold

/-- Store a recomputed list. -/
def setEstimates (s : Part) : Part := { s with est := newEstimates s }

/-- Recompute the list and name the changed stops to the Panel Composer; only in RUN (R52, R66). -/
def estRecompute (s : Part) : Part :=
  if isRun s then nameStops (namedStops s.est (newEstimates s)) (setEstimates s) else s

/-- The clock minute. -/
def minuteOf (r : Route) : Nat := r.clock / 60

/-- The minute changed by advance: the Estimate Unit where the delay is clock-driven, and the Panel Composer (R37, R52). -/
def minuteAdvanced (before : Nat) (s : Part) : Part :=
  if minuteOf s.route == before then s
  else composer { clock := true } (if clockDriven s.route.prog then estRecompute s else s)

/-- Write the service clock, with the hand-offs of R38 in their order. The Composer brings its page lists up to date also
where the minute stands (R139). -/
def writeClock (v : Nat) (s : Part) : Part :=
  let m := minuteOf s.route
  let s1 : Part := { s with route := { s.route with clock := v, clockSet := true, rangeLatched := false } }
  let s2 := estRecompute (refreshSeats (decideDeadlines s1))
  composer { clock := minuteOf s2.route != m } s2

/-! ### The hand-off of a progress change (R40) -/

/-- A notification to the Reservation Store (R40, step 1). A departure carries its time and whether the train stood at a
stop, not at a halt. -/
inductive Note where
  | placement (k : Nat)
  | arrival (k : Nat)
  | halt
  | departure (t : Nat) (fromStop : Bool)
  | termination
  | opened
  | rederived
deriving DecidableEq, Repr

/-- The Reservation Store handles one notification (R102 to R105, R111). -/
def handleNote (s : Part) : Note → Part
  | .placement k => openWindows k (freeFinished s)
  | .arrival k => openWindows k (freeFinished s)
  | .halt => freeFinished s
  | .departure t fromStop => if fromStop then setDeadlines t s else s
  | .termination => freeWhere (fun _ => true) s
  | .opened => freeWhere (fun _ => true) s
  | .rederived => freeFinished (orphanReevaluation s)

/-- The Reservation Store handles the notifications in order. -/
def handleNotes (notes : List Note) (s : Part) : Part := notes.foldl handleNote s

/-- Steps 1 to 3 of R40: legs and seats, tallies, estimates, each naming what it changed to the Panel Composer before the
Composer's own step (R66). Horizons and displays are recomputed once, after all notifications of the change: R114 does not say
whether each of several has a recomputation of its own, and this is the model's choice (log entry 76). -/
def handOffData (notes : List Note) (s : Part) : Part := estRecompute (refreshSeats (handleNotes notes s))

/-- The hand-off of a progress change in the order of R40; a progress change leaves DARK and restarts the stabling timer
(R156). `cause` says what else the panels are rendered for. -/
def handOff (notes : List Note) (cause : Cause) (s : Part) : Part :=
  restartStabling (lightAndCompose cause (handOffData notes s))

/-- Replace the progress record. -/
def setProg (g : Progress) (s : Part) : Part := { s with route := { s.route with prog := g } }

end Sys2Proof.Machine
end

