-- ==== Sys2Proof/Machine/CouplerOps.lean ====
section
/-! DEFINITION. The Formation Controller: roles, roll calls, epoch changes and separation (R70 to R73, R78 to R85), forwards
and the late-answer set (R86, R89), and the frames sent in a grant (R76, R87, R91). -/
namespace Sys2Proof.Machine

/-- Send a frame on the coupler line. -/
def sendLine (x : LineFrame) (s : Part) : Part := { s with out := { s.out with line := s.out.line ++ [x] } }

/-- The full beacon loss time, in seconds (R84). -/
def lossTime (s : Part) : Nat := s.host.params.holdLimit + 2

/-- Restart the beacon loss time (R84). -/
def restartLoss (s : Part) : Part := onForm (fun f => { f with beaconLoss := some (lossTime s) }) s

/-- The units listed at list index 2 and above. -/
def listed (r : FormRecord) : List Nat := r.units.tail.map (·.unitId)

/-- Start the absence time of every listed unit (R85). -/
def startAbsence (s : Part) : Part :=
  onForm (fun f => { f with absence := (listed f.record).map fun u => (u, s.host.params.holdLimit) }) s

/-- A frame or response from a listed unit restarts its absence time, at a LEADING part (R75, R85). -/
def heardUnit (u : Nat) (s : Part) : Part :=
  if s.form.role == .leading && (listed s.form.record).contains u then
    onForm (fun f => { f with absence := (f.absence.filter fun x => x.1 != u) ++ [(u, s.host.params.holdLimit)] }) s
  else s

/-! ### Forwards (R86, R89) -/

/-- The text handles that forwards count (R17). -/
def forwardHandles (l : List Forward) : List Nat := (l.filterMap (·.raise)).map (·.handle)

/-- A forward's entry leaves the list and releases its text handle (R89); its item leaves the line queue with it. -/
def dropForward (tag : Byte) (s : Part) : Part :=
  let gone := s.form.forwards.filter fun e => e.tag == tag
  onText (releaseAll (forwardHandles gone))
    (onForm (fun f => { f with forwards := f.forwards.filter (fun e => e.tag != tag)
                               queue := f.queue.filter fun x => x != .noticeFwd tag }) s)

/-- A forward ends with an answer to its host request (R89). -/
def endForward (tag : Byte) (r : Result) (detail : List Byte) (s : Part) : Part := answer tag r detail (dropForward tag s)

/-- Every outstanding forward ends with LINK_FAILED, and the late-answer set empties (R81, R84). -/
def endForwards (s : Part) : Part :=
  let s' := s.form.forwards.foldl (fun s e => endForward e.tag .linkFailed [] s) s
  onForm (fun f => { f with late := [] }) s'

/-- A pair joins the late-answer set, which holds it once (log entry 56); a full set loses its oldest pair (R89). -/
def addLate (l : List (Nat × Nat)) (x : Nat × Nat) : List (Nat × Nat) :=
  if l.contains x then l else (if l.length < Config.lateMax then l else l.drop 1) ++ [x]

/-- The outstanding-forward balance (R89). -/
def balance (f : Formation) : Nat := ((f.forwards.map fun e => e.awaited.length).sum) + f.late.length

/-- LINK_WAIT (R89). -/
def linkWait (f : Formation) : Bool := 0 < balance f

/-- Make an outstanding-forward entry with its NOTICE_FWD item, or answer LINK_FAILED at once where the queue is full (R77,
R86). The answer: none while the forward runs. -/
def makeForward (tag : Byte) (noticeId : Nat) (raise : Option RaiseData) (dests : List Nat) (s : Part) : Part × Option Result :=
  if s.form.queue.length < Config.lineQueueMax then
    let e : Forward := { tag := tag, noticeId := noticeId, raise := raise, dests := dests, number := none, awaited := [], full := [] }
    (onText (retainAll (forwardHandles [e]))
      (onForm (fun f => { f with forwards := f.forwards ++ [e], queue := f.queue ++ [.noticeFwd tag] }) s), none)
  else (s, some .linkFailed)

/-! ### Roles (section 5.2) -/

/-- Enter a role; a formation in force that differs is handed on, and the source is evaluated in any case (R45, R70). -/
def changeRole (r : Role) (s : Part) : Part :=
  let s' := onForm (fun f => { f with role := r }) s
  if inForce s' == inForce s then evalSource s' else formationChanged (ownOrientation s) s'

/-- No roll call or window runs any more. -/
def quietLeader (f : Formation) : Formation :=
  { f with rollCall := none, rollPending := false, rollAgain := false, windowOpen := false, responses := [], absence := [] }

/-- A leader gives up its leadership: it abandons a roll call, stops beaconing and enters follower-side FORMING, keeping
record and epoch (R72, R73). ROLL that it drives is driven on until one of the events of R69. -/
def yieldLead (s : Part) : Part :=
  restartLoss (changeRole .formingFollower
    (onForm (fun f => { quietLeader f with waiting := false, rollFront := none, heardAnswers := 0 }) s))

/-- Start a roll call with the qualifying end `e` as front end (R79). A roll call that was asked for meanwhile is this one (log
entry 57). -/
def rollCallFrom (e : UnitEnd) (s : Part) : Part :=
  let s1 := changeRole .formingLeader s
  let drive : Ends Bool := Ends.set { a := false, b := false } e.other (s1.form.coupled.get e.other)
  let s2 := onForm (fun f => { quietLeader f with
    rollCall := some [], drive := drive, beaconLoss := none, waiting := false, rollFront := none, heardAnswers := 0 }) s1
  sendLine (.rollCall s2.unit.unitId s2.form.record.epoch) s2

/-- Start a roll call, where the part has a qualifying end (R78, R79). -/
def startRollCall (s : Part) : Part :=
  match s.form.qualEnd with
  | some e => rollCallFrom e s
  | none => s

/-- The conflict of two leaders, with the unit id the foreign frame carries (R73). -/
def leaderConflict (other : Nat) (s : Part) : Part :=
  latch .leaderConflict
    (if other < s.unit.unitId || other == s.unit.unitId then yieldLead s
     else if s.form.role == .leading then onForm (fun f => { f with rollPending := true }) s
     else startRollCall s)

/-- The part is LEADING or leader-side FORMING. -/
def leads (r : Role) : Bool := r == .leading || r == .formingLeader

/-- Re-evaluate the qualifying end (R69): its loss ends a leadership (R72), its change turns a part that runs alone (R70). -/
def evalQualEnd (s : Part) : Part :=
  let q := qualifyingEnd s.form
  if q == s.form.qualEnd then s
  else
    let s' := onForm (fun f => { f with qualEnd := q }) s
    if leads s.form.role then (if q.isNone then yieldLead s' else s')
    else if aloneRole s.form.role then
      formationChanged (ownOrientation s) (if s.form.role == .standalone then recordAlone s' else s')
    else s'

/-! ### Epoch change and separation (R81, R82) -/

/-- A slot's origin is a unit that a record does not list. -/
def foreignTo (r : FormRecord) (x : Slot) : Bool :=
  match x.origin with
  | some u => !r.units.any fun e => e.unitId == u
  | none => false

/-- Steps 2 to 5 of R81 against the record in place; `o` is the own orientation before the change. The seat summary is derived
once for the entries dropped and the own ones rewritten (log entry 68). The whole line queue empties, at a separation too, which
keeps the epoch number: R81 speaks of items "of the old epoch", and this is the model's choice (log entry 89). -/
def recordEffects (o : Orientation) (s : Part) : Part :=
  let s2 := onForm (fun f => { f with queue := [] }) (endForwards s)
  let s3 := deriveSummary (writeOwnTallies (onForm (fun f =>
    { f with trainTally := f.trainTally.filter fun e => e.epoch == f.record.epoch }) s2))
  let s3' := if hasOthers s3 then onForm (queueItem .tally) s3 else s3
  let before := stablingCondition s3'
  let s4 := afterSlots before none (vacateWhere (foreignTo s3'.form.record) s3')
  formationChanged o s4

/-- A formation record is taken in a role: the effects of an epoch change (R81). -/
def takeRecord (r : FormRecord) (role : Role) (s : Part) : Part :=
  latch .formation (recordEffects (ownOrientation s)
    (onForm (fun f => { quietLeader f with record := r, role := role }) s))

/-- The train tally table keeps the own entries alone (R82). -/
def ownTalliesOnly (s : Part) : Part :=
  onForm (fun f => { f with trainTally := f.trainTally.filter fun e => e.unitId == s.unit.unitId }) s

/-- The part goes STANDALONE with the separation effects (R82). -/
def separate (s : Part) : Part :=
  let s1 := onForm (fun f => { quietLeader f with
    role := .standalone, beaconLoss := none, waiting := false, rollFront := none, heardAnswers := 0
    drive := { a := false, b := false } }) s
  recordEffects (ownOrientation s) (ownTalliesOnly (recordAlone s1))

/-- The part goes ISOLATED (R84). -/
def isolate (s : Part) : Part :=
  let s1 := onForm (fun f => { f with
    beaconLoss := none, waiting := false, rollFront := none, heardAnswers := 0, drive := { a := false, b := false } }) s
  latch .detached (changeRole .isolated (endForwards s1))

/-! ### Closing a roll call (R79) -/

/-- The formation entry of an answer (R80, R83). -/
def entryOf (f : RollAnswerFrame) : UnitEntry :=
  { unitId := f.unitId, orientation := orientationOf (some f.front), booked := f.booked, portion := f.portion, route := f.route }

/-- An answer is collected at the position it carries; a later one at the same position replaces it. -/
def collect (f : RollAnswerFrame) (l : List RollAnswerFrame) : List RollAnswerFrame :=
  insertBy (fun a b => a.position < b.position) f (l.filter fun x => x.position != f.position)

/-- The record a roll call gives; the leader's own entry takes the qualifying end as it is at the close (log entry 58). -/
def rollRecord (s : Part) (answers : List RollAnswerFrame) : FormRecord :=
  { epoch := (s.form.record.epoch + 1) % 256
    units := ownEntry s (orientationOf s.form.qualEnd) :: answers.map entryOf, ownIndex := 1 }

/-- Close the roll call with the answers collected: FORMATION is sent, the record taken, and the part leads (R79); another
roll call starts at once where a coupling event asked for it (R78). -/
def closeRollCall (answers : List RollAnswerFrame) (s : Part) : Part :=
  let r := rollRecord s answers
  let again := s.form.rollAgain
  let s1 := onForm (fun f => { f with drive := { a := false, b := false } })
    (sendLine (.formation s.unit.unitId r.epoch r.units) s)
  let s2 := startAbsence (takeRecord r .leading s1)
  if again then startRollCall s2 else s2

/-! ### Building and sending frames -/

/-- The progress snapshot of a beacon (R74). -/
def snapshotOf (g : Progress) : Snapshot :=
  { state := g.state, p := g.p, n := g.n, halt := g.halt, d := g.d, arr := g.arr, dep := g.dep, stale := g.stale }

/-- End the grant in force: its further frames are not taken (R76). -/
def endGrant (f : Formation) : Formation :=
  match f.grant with
  | some u => { f with grant := none, ended := if f.ended.contains u then f.ended else f.ended ++ [u] }
  | none => f

/-- Send a beacon with the next cycle count (R74); a grant that no RELEASE ended ends with it (R76). The first beacon after a
cold start, where the count is 0, carries 1 (log entry 63). -/
def sendBeacon (s : Part) : Part :=
  let c := (s.form.cycleCount + 1) % 65536
  sendLine (.beacon { leader := s.unit.unitId, epoch := s.form.record.epoch, cycle := c, clock := s.route.clock
                      clockSet := s.route.clockSet, route := routeInForce s.route, snap := snapshotOf s.route.prog })
    (onForm (fun f => { endGrant f with cycleCount := c }) s)

/-- The level of an item (R77). -/
def itemLevel : LineItem → Nat
  | .noticeFwd _ => 3
  | .noticeAns _ _ _ _ => 2
  | .formationReq => 2
  | .tally => 1

/-- The level of a line queue (R75). -/
def queueLevel (q : List LineItem) : Nat := (q.map itemLevel).foldl max 0

/-- The NOTICE_FWD frame of an entry, its text read now (R21, R87). -/
def fwdFrame (s : Part) (e : Forward) (number : Nat) : NoticeFwdFrame :=
  { origin := s.unit.unitId, noticeId := e.noticeId, number := number, epoch := s.form.record.epoch, dests := e.dests
    body := match e.raise with
      | some r => .raise r.level r.subPriority r.targets r.duration (frameText s.text r.handle)
      | none => .clear }

/-- The TALLY frame (R91). -/
def tallyFrame (s : Part) : TallyFrame :=
  { unitId := s.unit.unitId, epoch := s.form.record.epoch, portion := s.unit.portionTag, route := routeInForce s.route
    coaches := mapFrom (fun i c =>
      let k := (s.seat.counts[i]?).getD (0, 0)
      ({ position := (ownPosition s i).getD 0, booked := c.booked, freeEnd := k.1, freeDivide := k.2 } : TallyCoach)) 0
      s.unit.coaches }

/-- Send one item (R76, R87, R91); its NOTICE_FWD entry becomes SENT with the next forward number. -/
def sendItem (x : LineItem) (s : Part) : Part :=
  match x with
  | .noticeFwd tag =>
    let n := (s.form.lastNumber + 1) % 256
    match s.form.forwards.find? fun e => e.tag == tag with
    | some e =>
      sendLine (.noticeFwd (fwdFrame s e n)) (onForm (fun f => { f with
        lastNumber := n
        forwards := f.forwards.map fun y => if y.tag == tag then { y with number := some n, awaited := y.dests } else y }) s)
    | none => s
  | .noticeAns o i n full =>
    sendLine (.noticeAns { origin := o, noticeId := i, number := n, epoch := s.form.record.epoch, unitId := s.unit.unitId
                           full := full }) s
  | .formationReq => sendLine (.formationReq s.unit.unitId s.form.record.epoch) s
  | .tally => sendLine (.tally (tallyFrame s)) s

/-- The oldest item of the highest level. -/
def nextItem (q : List LineItem) : Option LineItem := q.find? fun x => itemLevel x == queueLevel q

/-- Send up to `k` items, highest level first and oldest first within a level (R76). -/
def sendItems : Nat → Part → Part
  | 0, s => s
  | k + 1, s =>
    match nextItem s.form.queue with
    | some x => sendItems k (sendItem x (onForm (fun f => { f with queue := f.queue.erase x }) s))
    | none => s

/-- The granted part's turn: its frames, then a RELEASE mark (R76). -/
def sendGranted (s : Part) : Part := sendLine .release (sendItems Config.grantItems s)

/-- A unit is granted the line: the grant before it has ended, and frames of this one are taken (R76). -/
def beginGrant (u : Nat) (f : Formation) : Formation :=
  let g := endGrant f
  { g with grant := some u, ended := g.ended.filter fun x => x != u }

/-- A data frame is taken: its epoch is the own one, and its sender's last grant has not ended (section 5.4, R76). -/
def frameTaken (s : Part) (sender epoch : Nat) : Bool := epoch == s.form.record.epoch && !s.form.ended.contains sender

/-- The requester granted: highest level of 1..3, and among equal levels the lowest list index (R76). -/
def arbitrate : List (Nat × Nat) → Option (Nat × Nat)
  | [] => none
  | (u, l) :: t =>
    match arbitrate t with
    | some (v, m) => if l < m then some (v, m) else some (u, l)
    | none => if 0 < l then some (u, l) else none

/-- The requests of the window, in list order: the leader's own level, then each listed unit's response. -/
def requests (s : Part) : List (Nat × Nat) :=
  (s.unit.unitId, queueLevel s.form.queue) ::
    (listed s.form.record).map fun u => (u, (assocGet u s.form.responses).getD 0)

/-! ### Following a beacon (R45 to R47) -/

/-- What a snapshot places on a calling sequence (R46, R47). -/
def placeSnapshot (c : List Nat) (x : Snapshot) : Option Placed :=
  match x.state with
  | .standing => x.p.bind (placeStanding c)
  | .terminated => x.p.bind (placeStanding c)
  | .halted => x.halt.bind (placeStanding c)
  | .departed => x.p.bind (placeLeft c)
  | .approaching => x.p.bind (placeLeft c)
  | _ => none

/-- A running state. -/
def running (g : PState) : Bool := g == .departed || g == .approaching

/-- The record a placed position gives, completed from the snapshot (R47). -/
def followedRecord (s : Part) (x : Snapshot) (y : Placed) : Progress :=
  let same := x.p == some y.p
  let d := if running y.state && x.n == y.n then
      x.d.map fun v => min v (lEff s.route.stops s.unit.portionTag y.p (y.n.getD 0)) else none
  { state := match d with
      | some v => runningState s.route.prog.state (approachOf s.route.stops (y.n.getD 0)) s.host.params.hysteresis v
      | none => y.state
    p := some y.p, n := y.n, halt := y.halt, d := d
    arr := if same then x.arr else none, dep := if same then x.dep else none
    stale := x.stale, source := s.route.prog.source }

/-- The train stands at a stop or a halt (R47, first notification). -/
def stoodAt (g : Progress) : Option Nat :=
  match g.state with
  | .standing => g.p
  | .halted => g.halt
  | _ => none

/-- The departure time of the new p as a follower takes it: the beacon's actual departure, the own clock where the beacon holds
none (R47, log entry 35). -/
def followedTime (s : Part) (x : Snapshot) : Nat := x.dep.getD s.route.clock

/-- The notifications derived from the old record and the new one (R47). -/
def followedNotes (s : Part) (x : Snapshot) (old new : Progress) : List Note :=
  let left := match stoodAt old with
    | some z => if standingPlace new == some z then []
                else [.departure (if new.p == some z then followedTime s x else s.route.clock) (old.state == .standing)]
    | none => []
  let came := match standingPlace new with
    | some k => if standingPlace old == some k then [] else
      (match new.state with
       | .halted => [.halt]
       | .terminated => [.arrival k, .termination]
       | _ => [.arrival k])
    | none => []
  let passed := if running new.state && decide (old.p.getD 0 < new.p.getD 0) then
      [.arrival (new.p.getD 0), .departure (followedTime s x) true] else []
  left ++ came ++ passed

/-- Apply a snapshot with source BEACON: nothing where the position cannot be placed or the record stays as it was (R47). -/
def applySnapshot (x : Snapshot) (s : Part) : Part :=
  match placeSnapshot s.route.ownSeq x with
  | none => s
  | some y =>
    let new := followedRecord s x y
    if new == s.route.prog then s
    else handOff (followedNotes s x s.route.prog new) {} (setProg new s)

/-- ROUTE_MISMATCH at the first beacon of an epoch with a different route id (R45). -/
def noteMismatch (f : BeaconFrame) (s : Part) : Part :=
  if f.route != routeInForce s.route && s.route.mismatchEpoch != some f.epoch then
    latch .routeMismatch { s with route := { s.route with mismatchEpoch := some f.epoch } }
  else s

/-- Route and Progress takes a beacon of the own leader: clock, source, progress (R38, R45, R47). -/
def followBeacon (f : BeaconFrame) (s : Part) : Part :=
  let s1 := if f.clockSet && f.clock != s.route.clock then writeClock f.clock s else s
  let s2 := evalSource { s1 with route := { s1.route with beaconRoute := some f.route } }
  if s2.route.prog.source == .beacon then applySnapshot f.snap s2 else noteMismatch f s2

/-- The beacon comes from the leader of the record and at its epoch (R74). -/
def fromRecord (f : BeaconFrame) (r : FormRecord) : Bool := f.leader == leaderId r && f.epoch == r.epoch

/-- A FOLLOWING part takes a beacon of its leader and answers in the request window (R74, R75). -/
def takeBeacon (f : BeaconFrame) (s : Part) : Part :=
  let s' := followBeacon f (restartLoss s)
  sendLine (.response s'.unit.unitId f.cycle (queueLevel s'.form.queue)) s'

/-- A part not listed marks the open slot (R75). -/
def markSlot (s : Part) : Part := sendLine .mark s

/-- A beacon heard, by role (R74). The cycle count of any leader's beacon is the one a GRANT is compared with (log entry 67). -/
def hearBeacon (f : BeaconFrame) (s : Part) : Part :=
  let s1 := onForm (fun g => { endGrant g with heardCycle := some f.cycle }) s
  match s.form.role with
  | .following => if fromRecord f s.form.record then takeBeacon f s1 else markSlot (restartLoss s1)
  | .isolated =>
    if fromRecord f s.form.record && decide (2 ≤ s.form.record.units.length) then takeBeacon f (changeRole .following s1)
    else markSlot s1
  | .standalone => markSlot s1
  | .formingFollower => markSlot (restartLoss s1)
  | .leading => leaderConflict f.leader s1
  | .formingLeader => leaderConflict f.leader s1

/-! ### Placing a forwarded notice (R150) -/

/-- Write a slot of the notice, its text counted (R148, R150). -/
def fillSlot (l : NoticeLevel) (i : Nat) (origin : Option Nat) (id sub : Nat) (t : Targets) (h duration : Nat) (s : Part) : Part :=
  let s' := onText (retain h) s
  putSlot l i (some (newSlot s' origin id sub t h duration)) s'

/-- Place a forwarded notice whose text holds remote handle `h` (R150): the part after, and whether it was placed. Where it
is not, the remote entry is freed. -/
def placeNotice (origin id : Nat) (l : NoticeLevel) (sub : Nat) (t : Targets) (duration h : Nat) (s : Part) : Part × Bool :=
  let before := stablingCondition s
  let done (i : Nat) (s' : Part) : Part × Bool := (afterSlots before (some (l, i)) s', true)
  match findNotice s.panel (some origin) id with
  | some (l', i) =>
    if l' == l then
      let old := ((slotAt s.panel l i).map (·.handle)).toList
      done i (onText (releaseAll old) (fillSlot l i (some origin) id sub t h duration s))
    else match firstEmpty (slotsOf s.panel l) with
      | some j => done j (vacate l' i (fillSlot l j (some origin) id sub t h duration s))
      | none => (onText (dropEntry h) s, false)
  | none =>
    match firstEmpty (slotsOf s.panel l) with
    | some j => done j (fillSlot l j (some origin) id sub t h duration s)
    | none => (onText (dropEntry h) s, false)

/-- A forwarded notice reaches Text Store and Panel Composer (R20, R88, R150): the part after, and the result OK. -/
def receiveNotice (f : NoticeFwdFrame) (s : Part) : Part × Bool :=
  match f.body with
  | .raise l sub t d vs =>
    match makeRemote vs s.text with
    | some (h, t') => placeNotice f.origin f.noticeId l sub t d h { s with text := t' }
    | none => (s, false)
  | .clear =>
    match findNotice s.panel (some f.origin) f.noticeId with
    | some (l, i) => (emptySlot l i s, true)
    | none => (s, true)

/-! ### A TALLY frame (R90) -/

/-- The entries a TALLY frame writes. -/
def frameTallies (f : TallyFrame) : List TallyEntry :=
  f.coaches.map fun c => { position := c.position, booked := c.booked, unitId := f.unitId, freeEnd := c.freeEnd
                           freeDivide := c.freeDivide, epoch := f.epoch }

/-- A formation entry with the numbers, tag and route id of a TALLY frame. -/
def tallyEntry (f : TallyFrame) (u : UnitEntry) : UnitEntry :=
  { u with booked := f.coaches.map (·.booked), portion := f.portion, route := f.route }

/-- The record with the sending unit's entry rewritten. -/
def tallyRecord (f : TallyFrame) (r : FormRecord) : FormRecord :=
  { r with units := mapFrom (fun i u => if i + 1 != r.ownIndex && u.unitId == f.unitId then tallyEntry f u else u) 0 r.units }

/-- Take a TALLY frame of a listed unit (R90, R130). The seat summary is derived once for the entries written and a changed
record (log entry 68). -/
def takeTally (f : TallyFrame) (s : Part) : Part :=
  let s1 := onForm (fun g => { g with trainTally := writeTallies (frameTallies f) g.trainTally, record := tallyRecord f g.record }) s
  if s1.form.record == s.form.record then deriveSummary s1
  else formationChanged (ownOrientation s) s1

end Sys2Proof.Machine
end

