-- ==== Sys2Proof/Machine/LineOps.lean ====
section
/-! DEFINITION. The display line at work: the arbiter and the beginning of operations (R162, R164, R166), and their ends
(R163, R165, R167, R168). -/
namespace Sys2Proof.Machine

/-- Change the Display Line Driver. -/
def onDisp (f : Display → Display) (s : Part) : Part := { s with disp := f s.disp }

/-- Send a frame on the display line. -/
def sendDisp (x : DispFrame) (s : Part) : Part := { s with out := { s.out with disp := s.out.disp ++ [x] } }

/-! ### Beginning an operation -/

/-- The endpoint a poll of the rotation takes: the first PRESENT one after the mark, wrapping (R164). -/
def rotationNext (d : Display) : Option EpAddr :=
  let ps := (d.table.filter (·.present)).map (·.addr)
  match d.mark with
  | some m => (ps.find? fun a => addrLt m a).orElse fun _ => ps.head?
  | none => ps.head?

/-- A transfer is ready (R166). -/
def transferReady (d : Display) : Bool := !d.queue.isEmpty

/-- A poll is ready (R166). -/
def pollReady (d : Display) : Bool := !d.probes.isEmpty || d.table.any (·.present)

/-- Begin the transfer to the head of the refresh queue (R162). -/
def beginTransfer (s : Part) : Part :=
  match s.disp.queue with
  | [] => s
  | a :: t =>
    match epAt s.disp a with
    | some e =>
      sendDisp (.transfer a e.content (transferContent s e))
        (onDisp (fun d => { d with queue := t, inFlight := some (.transfer e.content, a), lastTransfer := true }) s)
    | none => onDisp (fun d => { d with queue := t }) s

/-- Begin a poll turn: the head of the probe list, else the rotation (R164, R166, R168). -/
def beginPoll (s : Part) : Part :=
  match s.disp.probes with
  | a :: t =>
    sendDisp (.poll a) (onDisp (fun d => { d with probes := t, inFlight := some (.probe, a), lastTransfer := false }) s)
  | [] =>
    match rotationNext s.disp with
    | some a => sendDisp (.poll a) (onDisp (fun d => { d with mark := some a, inFlight := some (.poll, a), lastTransfer := false }) s)
    | none => s

/-- The arbiter: with the line free, the kind not served last where both are ready (R166). -/
def arbiter (s : Part) : Part :=
  if transferReady s.disp && (!pollReady s.disp || !s.disp.lastTransfer) then beginTransfer s
  else if pollReady s.disp then beginPoll s
  else s

/-- The arbiter takes its turn in RUN while no operation is in flight (R158, R166, R171). -/
def kick (s : Part) : Part := if isRun s && s.disp.inFlight.isNone then arbiter s else s

/-! ### Ending an operation -/

/-- The line is free again. -/
def freeLine (s : Part) : Part := onDisp (fun d => { d with inFlight := none }) s

/-- Change the entry of an endpoint. -/
def onEntry (a : EpAddr) (f : EpEntry → EpEntry) (s : Part) : Part := onDisp (epUpdate a f) s

/-- The endpoint joins the tail of the refresh queue. -/
def requeue (a : EpAddr) (s : Part) : Part := onDisp (enqueue a) s

/-- The content version of an endpoint. -/
def contentOf (s : Part) (a : EpAddr) : Nat := ((epAt s.disp a).map (·.content)).getD 0

/-- A transfer of version `v` ends with an ACK that echoes `w` (R163). -/
def ackTransfer (a : EpAddr) (v w : Nat) (s : Part) : Part :=
  if w = v then
    let s' := onEntry a (fun e => { e with shown := some v, miss := 0 }) (freeLine s)
    if contentOf s' a = v then s' else requeue a s'
  else requeue a (onEntry a (fun e => { e with shown := none, miss := 0 }) (freeLine s))

/-- The last status a reply leaves: a level for a seat unit with sensor, a status for a panel (R159, R165). Where the reply carries
what its endpoint cannot report, it is taken as the answer and the old status stands: R165 gives no behaviour for it, and this is
the model's choice (log entry 80). -/
def statusAfter (s : Part) (a : EpAddr) (x : PollStatus) (old : Option EpStatus) : Option EpStatus :=
  match a.kind, x with
  | .seat, .level raw => if sensorFitted s.unit a.coach a.number then some (.level raw) else old
  | .seat, _ => old
  | _, .ok => some .ok
  | _, .fault => some .fault
  | _, _ => old

/-- A reading of a raw level: the sensor record, then the report to the Reservation Store (R119, R121, R125). -/
def takeReading (c p raw : Nat) (s : Part) : Part :=
  let s1 := sensorUpdate c p (Sensor.read s.host.params (min raw 63)) s
  refreshSeats (pollReport c p (seatOccupied s1.seat c p) s1)

/-- A reply hands on a reading where it comes from a seat unit with sensor and carries a level (R119, R165; log entry 80). -/
def readingOf (a : EpAddr) (x : PollStatus) (s : Part) : Part :=
  match a.kind, x with
  | .seat, .level raw => if sensorFitted s.unit a.coach a.number then takeReading a.coach a.number raw s else s
  | _, _ => s

/-- The held version of a reply contradicts the shown version (R165). -/
def contradicts (e : EpEntry) (held : Option Nat) : Bool := e.shown.isSome && e.shown != held

/-- A poll ends with a reply (R165). -/
def pollAnswered (a : EpAddr) (held : Option Nat) (x : PollStatus) (s : Part) : Part :=
  let s1 := freeLine s
  let lost := ((epAt s1.disp a).map fun e => contradicts e held).getD false
  let s2 := onEntry a (fun e => { e with miss := 0, status := statusAfter s a x e.status, shown := if lost then none else e.shown }) s1
  readingOf a x (if lost then requeue a s2 else s2)

/-- A probe ends with a reply: the endpoint returns (R168, R124). -/
def probeAnswered (a : EpAddr) (x : PollStatus) (s : Part) : Part :=
  let s1 := onEntry a (fun e => { e with present := true, miss := 0, shown := none, probeTime := none, probeDue := false
                                         status := statusAfter s a x e.status }) (freeLine s)
  let s2 := requeue a s1
  latch .endpointReturned (if a.kind == .seat then sensorUpdate a.coach a.number Sensor.unfreeze s2 else s2)

/-- The endpoint goes ABSENT (R167, R124). -/
def setAbsent (a : EpAddr) (s : Part) : Part :=
  let s1 := onDisp (fun d => epUpdate a (fun e => { e with present := false, probeTime := some Config.probeSeconds, probeDue := false })
    { d with queue := d.queue.filter (· != a) }) s
  latch .endpointAbsent (if a.kind == .seat then sensorUpdate a.coach a.number Sensor.freeze s1 else s1)

/-- The miss count of an endpoint. -/
def missOf (s : Part) (a : EpAddr) : Nat := ((epAt s.disp a).map (·.miss)).getD 0

/-- A miss is counted; at three the endpoint goes ABSENT, below it a transfer's endpoint joins the tail (R163, R165, R167). -/
def countMiss (a : EpAddr) (transfer : Bool) (s : Part) : Part :=
  let s1 := onEntry a (fun e => { e with miss := e.miss + 1 }) (freeLine s)
  if Config.missMax ≤ missOf s1 a then setAbsent a s1
  else if transfer then requeue a s1 else s1

/-- A probe ends unanswered (R168). -/
def probeMissed (a : EpAddr) (s : Part) : Part :=
  onEntry a (fun e => { e with probeDue := false, probeTime := some Config.probeSeconds }) (freeLine s)

/-- The operation in flight ends unanswered (R158). -/
def windowExpired (s : Part) : Part :=
  match s.disp.inFlight with
  | some (.transfer _, a) => countMiss a true s
  | some (.poll, a) => countMiss a false s
  | some (.probe, a) => probeMissed a s
  | none => s

end Sys2Proof.Machine
end

