-- ==== Sys2Proof/Machine/HostOps.lean ====
section
/-! DEFINITION. The Host Port: the request stage (R191), the send queue and the frame on the line (R190, R192, R198), and how
one command is carried out: the frames of the step before are forgotten, the command acts, and the two lines that are free
begin to send. -/
namespace Sys2Proof.Machine

/-- Change the Host Port. -/
def onHost (f : HostPort → HostPort) (s : Part) : Part := { s with host := f s.host }

/-! ### Sending -/

/-- A kind of the table of R194. -/
def requestKind (k : Byte) : Bool := 1 ≤ k.toNat && k.toNat ≤ 28

/-- The kind of the reply to a request kind (R192). -/
def replyKind (k : Byte) : Byte := if requestKind k then k + 0x80#8 else 0xFF#8

/-- The body of an EVENT frame (R198). -/
def eventBody (s : Part) : List Byte :=
  e2 (reported s.host).toNat ++ e2 s.res.releaseCount ++ e2 s.res.orphanCount ++ e2 (absentCount s.disp) ++
    e1 s.supply.startCause.code ++ e1 s.supply.lastOff.code ++ e1 s.supply.breakCount

/-- The frame a queued frame becomes when its sending begins (R192, R198). -/
def sentFrame (s : Part) : QFrame → SentFrame
  | .reply tag kind r detail =>
    { kind := replyKind kind, tag := tag, body := [byte r.code, 1] ++ detail, entry := some tag }
  | .refusal tag kind r => { kind := replyKind kind, tag := tag, body := [byte r.code, 0], entry := none }
  | .event => { kind := 0x40#8, tag := 0#8, body := eventBody s, entry := none }

/-- The next frame of a send queue and what is left of it; an EVENT frame that finds the reported set empty is dropped (R198). It
is dropped also where a CONFIG-SET of the enable set emptied the set: R198 names an EVENT-CLEAR alone, and this is the model's
choice (log entry 81). -/
def nextFrame (empty : Bool) : List QFrame → Option QFrame × List QFrame
  | [] => (none, [])
  | .event :: t => if empty then nextFrame empty t else (some .event, t)
  | x :: t => (some x, t)

/-- Begin sending the next queued frame, in RUN with nothing on the line (R190). -/
def pump (s : Part) : Part :=
  if isRun s && s.host.sending.isNone then
    match nextFrame (reported s.host == 0#14) s.host.queue with
    | (x, rest) => onHost (fun h => { h with queue := rest, sending := x.map (sentFrame s) }) s
  else s

/-! ### The request stage (R191) -/

/-- What an owner does with a request: it answers, or it waits. -/
inductive Reply where
  | now (r : Result) (detail : List Byte)
  | wait
deriving DecidableEq, Repr

/-- A refusal reply joins the send queue, unless three are queued (R190). -/
def refuse (tag kind : Byte) (r : Result) (h : HostPort) : HostPort :=
  let queued := (h.queue.filter fun x => match x with
    | .refusal _ _ _ => true
    | _ => false).length
  if queued < Config.refusalMax then { h with queue := h.queue ++ [.refusal tag kind r] } else h

/-- The first two checks of the request stage (R191). -/
def stageFault (h : HostPort) (tag : Byte) : Option Result :=
  if Config.inFlightMax ≤ h.inFlight.length then some .busy
  else if h.inFlight.any fun e => e.tag == tag then some .conflict
  else none

/-- A whole frame was received: the receiver hunts again (R189). -/
def frameEnd (s : Part) : Part := onHost (fun h => { h with receiver := .hunting, buffer := [] }) s

/-- The request takes an entry, is handed to its owner, and is answered or waits (R191). -/
def handRequest (kind tag : Byte) (owner : Part → Part × Reply) (s : Part) : Part :=
  let s1 := onHost (fun h => { h with inFlight := h.inFlight ++ [{ tag := tag, kind := kind, phase := .handed }] }) s
  match owner s1 with
  | (s2, .now r detail) => answer tag r detail s2
  | (s2, .wait) => onHost (fun h => { h with inFlight := h.inFlight.map fun e => if e.tag == tag then { e with phase := .waiting } else e }) s2

/-- A request frame that passed its CRC: the request stage, then its owner. `body` is the body read as its kind gives it,
none where its length does not fit. Outside RUN the frame is lost (R187). -/
def hostRequest {α : Type} (kind tag : Byte) (body : Option α) (owner : α → Part → Part × Reply) (s : Part) : Part :=
  if isRun s then
    let s0 := frameEnd s
    match stageFault s0.host tag, body with
    | some r, _ => onHost (refuse tag kind r) s0
    | none, none => onHost (refuse tag kind .badField) s0
    | none, some x => handRequest kind tag (owner x) s0
  else s

/-- A refused request: it changes nothing (R193). -/
def refused (r : Result) (s : Part) : Part × Reply := (s, .now r [])

/-- A taken request, answered OK. -/
def taken (s : Part) : Part × Reply := (s, .now .ok [])

/-- A taken request, answered OK with a detail. -/
def takenWith (detail : List Byte) (s : Part) : Part × Reply := (s, .now .ok detail)

/-- The first check that fails refuses the request; where none does, it is taken. -/
def checked (checks : List (Bool × Result)) (take : Part → Part × Reply) (s : Part) : Part × Reply :=
  match checks.find? (·.1) with
  | some c => refused c.2 s
  | none => take s

/-! ### Carrying out a command -/

/-- The frames of the last step are forgotten. -/
def quiet (s : Part) : Part := { s with out := {} }

/-- Where a step ends, the lines that are free begin to send. -/
def finish (s : Part) : Part := kick (pump s)

/-- Carry out a command whose effect on the part is `f`. -/
def carry (f : Part → Part) (s : State) : Host.Outcome State Fault Refusal :=
  .next { s with part := finish (f (quiet s.part)) }

end Sys2Proof.Machine
end

