-- ==== Sys2Proof/Machine/SupplyOps.lean ====
section
/-! DEFINITION. The Supply Monitor (section 10): leaving RUN for a hold, OFF, cold starts, and the warm return. -/
namespace Sys2Proof.Machine

/-- Change the Supply Monitor. -/
def onSupply (f : Supply → Supply) (s : Part) : Part := { s with supply := f s.supply }

/-! ### OFF and COLD_START (R176, R177) -/

/-- What outlives the end of the state: the levels at the supply inputs, the main status and its qualification, the reset
input, and the start record. -/
def coldSupply (m : SupplyMode) (u : Supply) : Supply :=
  { mode := m, mainBroken := u.mainBroken, mainMv := u.mainMv, qualifying := u.qualifying, retentionLow := u.retentionLow
    lastOff := u.lastOff, resetAsserted := u.resetAsserted }

/-- Every block at its cold values in a mode; the levels at the unit-end inputs are the inputs' own (R177). -/
def coldPart (m : SupplyMode) (s : Part) : Part :=
  { form := { coupledRaw := s.form.coupledRaw, cab := s.form.cab }, supply := coldSupply m s.supply, out := s.out }

/-- Record an OFF reason in the start record. -/
def recordOff (r : OffReason) (s : Part) : Part := onSupply (fun u => { u with lastOff := r }) s

/-- Enter OFF with a reason (R176). -/
def enterOff (r : OffReason) (s : Part) : Part := recordOff r (coldPart .off s)

/-- Enter OFF without a reason (R176). -/
def enterOffQuietly (s : Part) : Part := coldPart .off s

/-- Enter COLD_START: the clearing counts unless the reset input is asserted, which writes RESET (R177, R184). -/
def enterColdStart (s : Part) : Part :=
  let s' := onSupply (fun u => { u with clearing := !u.resetAsserted }) (coldPart .coldStart s)
  if s'.supply.resetAsserted then recordOff .reset s' else s'

/-- START latches and one EVENT frame is arranged (R186). -/
def hostStart (s : Part) : Part :=
  onHost (fun h => arrangeEvent { h with latched := h.latched ||| EventKind.start.mask }) s

/-- The debounced COUPLED states become the raw senses, and the qualifying end follows (R68, R69). -/
def settleEnds (f : Formation) : Formation :=
  let g := { f with coupled := f.coupledRaw }
  { g with qualEnd := qualifyingEnd g }

/-- Entry into RUN from COLD_START: start cause COLD, the stabling timer started, START latched (R157, R177, R186). -/
def startCold (s : Part) : Part :=
  let s1 := onSupply (fun u => { u with mode := .run, clearing := false, settle := some 0, startCause := .cold }) s
  hostStart (restartStabling (recordAlone (onForm settleEnds s1)))

/-! ### Leaving RUN for BREAK_HOLD (R178) -/

/-- The Formation Controller stops the coupler line (R92). -/
def stopCoupler (s : Part) : Part :=
  onText (releaseAll (forwardHandles s.form.forwards)) (onForm (fun f => { endGrant f with
    queue := [], forwards := [], late := [], spacing := false, tallyPending := false, beaconLoss := none, absence := []
    debounce := { a := none, b := none }, drive := { a := false, b := false }, rollCall := none, rollAgain := false
    windowOpen := false, responses := [], waiting := false, rollFront := none, heardAnswers := 0 }) s)

/-- The Host Port stops: it discards what it receives and sends, and empties its tables (R187). -/
def stopHost (s : Part) : Part :=
  onHost (fun h => { h with receiver := .hunting, buffer := [], inFlight := [], queue := [], sending := none }) s

/-- Enter BREAK_HOLD: every block stops what runs only in RUN, and the hold time starts (R178). -/
def enterHold (s : Part) : Part :=
  stopHost (stopCoupler (onDisp abandon
    (onSupply (fun u => { u with mode := .breakHold, settle := none, hold := some s.host.params.holdLimit }) s)))

/-- A break in RUN (R178). -/
def breakInRun (s : Part) : Part :=
  if s.host.params.breakLimit != 0 && s.supply.breakCount == s.host.params.breakLimit then enterOff .limit s
  else if s.supply.retentionLow then enterOff .retention s
  else enterHold s

/-- A break, by mode: in COLD_START only a LOW retention status makes it more than a change of the main status (R175, R177). -/
def handleBreak (s : Part) : Part :=
  match s.supply.mode with
  | .run => breakInRun s
  | .coldStart => if s.supply.retentionLow then enterOffQuietly s else s
  | _ => s

/-! ### The warm return (R181) -/

/-- Step 1: the record after a return from EXTENDED_HOLD (R49). -/
def staleProgress (s : Part) : Part :=
  if underWay s.route.prog.state then
    latch .progressStale (setProg { s.route.prog with
      stale := true, d := none, state := if s.route.prog.state == .approaching then .departed else s.route.prog.state } s)
  else s

/-- A debounce time starts at an end whose raw sense differs from the debounced state (R68). -/
def restartDebounce (ms : Nat) (f : Formation) : Formation :=
  let t (e : UnitEnd) : Option Nat := if f.coupledRaw.get e != f.coupled.get e then some ms else none
  { f with debounce := { a := t .a, b := t .b } }

/-- Step 6 after BREAK_HOLD: the role resumes (R92). -/
def resumeRole (s : Part) : Part :=
  let s1 := evalQualEnd s
  match s1.form.role with
  | .leading => if s1.form.qualEnd.isSome then startAbsence s1 else yieldLead s1
  | .following => restartLoss s1
  | .formingLeader => if s1.form.qualEnd.isSome then startRollCall s1 else yieldLead s1
  | .formingFollower => restartLoss s1
  | .isolated => restartLoss s1
  | .standalone => s1

/-- Step 6 after EXTENDED_HOLD: the part goes STANDALONE (R93). -/
def returnAlone (s : Part) : Part := separate (onForm (fun f => { f with qualEnd := qualifyingEnd f }) s)

/-- The warm return (R181); `extended` tells a return from EXTENDED_HOLD. -/
def warmReturn (extended : Bool) (s : Part) : Part :=
  let s0 := onSupply (fun u => { u with
    mode := .run, hold := none, extHold := none, settle := some 0, breakCount := min 15 (u.breakCount + 1)
    startCause := if extended then .warmExtended else .warm }) s
  let s0' := onDisp warmDisplay { s0 with unit := { s0.unit with staging := none } }
  let s1 := if extended then staleProgress s0' else s0'
  let s2 := estRecompute s1
  let s3 := mapSensors (fun _ => {}) s2
  let s5 := refreshSeats s3
  let s5' := onForm (restartDebounce (debounceMs s5.host.params.debounce)) s5
  let s6 := if extended then returnAlone s5' else resumeRole s5'
  hostStart (composer { all := true } s6)

/-- A return of the main supply, by mode; `mv` is the level at the retention monitor, read when the part leaves OFF (R175,
R176, R179, R180). -/
def handleReturn (mv : Nat) (s : Part) : Part :=
  match s.supply.mode with
  | .breakHold => warmReturn false s
  | .extendedHold => warmReturn true s
  | .off => enterColdStart (onSupply (fun u => { u with retentionLow := decide (mv < Config.retentionOkMv) }) s)
  | _ => s

/-! ### Retention, reset and restart (R175, R184, R185) -/

/-- The retention status becomes LOW, by mode (R175). -/
def retentionFails (s : Part) : Part :=
  let s' := onSupply (fun u => { u with retentionLow := true }) s
  match s.supply.mode with
  | .breakHold => enterOff .retention s'
  | .extendedHold => enterOff .retention s'
  | .coldStart => if s.supply.mainBroken then enterOffQuietly s' else s'
  | .run => s'
  | .off => s

/-- The reset input is asserted, by mode (R184). -/
def assertReset (s : Part) : Part :=
  let s' := onSupply (fun u => { u with resetAsserted := true }) s
  match s.supply.mode with
  | .off => s'
  | _ => enterColdStart s'

/-- The reset input is released: a held clearing counts from now (R177, R184). -/
def releaseReset (s : Part) : Part :=
  onSupply (fun u => { u with resetAsserted := false
                              clearing := u.clearing || (u.resetAsserted && u.mode == .coldStart) }) s

/-- RESTART's reply was sent: RESET is recorded and the part starts cold (R185). -/
def restartPart (s : Part) : Part := recordOff .reset (enterColdStart s)

end Sys2Proof.Machine
end

