-- ==== Sys2Proof/Machine/HostRequests.lean ====
section
/-! DEFINITION. The requests the Host Port and the Supply Monitor own: CONFIG-SET, CONFIG-GET, STATUS-QUERY, EVENT-CLEAR
(R199 to R202) and RESTART (R185). -/
namespace Sys2Proof.Machine

/-! ### CONFIG-SET and CONFIG-GET (R201, R202) -/

/-- A debounce in progress restarts with the new time (R68). -/
def redebounce (ms : Nat) (f : Formation) : Formation :=
  { f with debounce := { a := f.debounce.a.map fun _ => ms, b := f.debounce.b.map fun _ => ms } }

/-- A change of the night flag (R156). -/
def nightChanged (s : Part) : Part := restartStabling (lightAndCompose {} s)

/-- A change of the settle limit acts on the running settle time at once (R183). -/
def settleLimitChanged (s : Part) : Part :=
  match s.supply.settle with
  | some t => if s.host.params.settleLimit ≤ t then onSupply (fun u => { u with breakCount := 0, settle := none }) s else s
  | none => s

/-- A break limit below the count sets the count to it (R182). -/
def breakLimitChanged (s : Part) : Part :=
  let l := s.host.params.breakLimit
  if l != 0 && decide (l < s.supply.breakCount) then onSupply (fun u => { u with breakCount := l }) s else s

/-- An EVENT frame is arranged where the reported set gained a member over `old` (R197). -/
def enableChanged (old : BitVec 14) (s : Part) : Part :=
  if reported s.host &&& ~~~old != 0#14 then onHost arrangeEvent s else s

/-- What the owner of a parameter does at its change (R201). -/
def configEffect (old : BitVec 14) (id : Nat) (s : Part) : Part :=
  match id with
  | 1 => onForm (redebounce (debounceMs s.host.params.debounce)) s
  | 3 => composer {} (estRecompute s)
  | 5 => mapSensors (fun x => { x with run := 0 }) s
  | 6 => mapSensors (fun x => { x with run := 0 }) s
  | 7 => mapSensors (fun x => { x with run := 0 }) s
  | 10 => nightChanged s
  | 13 => settleLimitChanged s
  | 14 => breakLimitChanged s
  | 15 => enableChanged old s
  | _ => s

/-- Store a parameter and hand the change to its owner, where it is one (R201). -/
def setParam (id v : Nat) (s : Part) : Part :=
  if s.host.params.get id == some v then s
  else configEffect (reported s.host) id (onHost (fun h => { h with params := h.params.put id v }) s)

/-- CONFIG-SET at its owner. -/
def ownConfigSet (x : Nat × Nat) (s : Part) : Part × Reply :=
  match s.host.params.admitted x.1 x.2 with
  | none => refused .badField s
  | some v => takenWith (e1 x.1 ++ e2 v) (setParam x.1 v s)

/-- CONFIG-SET (R201). -/
def execConfigSet (tag : Byte) (body : List Byte) (s : State) : Host.Outcome State Fault Refusal :=
  carry (hostRequest 0x01#8 tag (readConfigSet body) ownConfigSet) s

/-- The detail of one parameter. -/
def paramDetail (q : Params) (id : Nat) : List Byte := e1 id ++ e2 ((q.get id).getD 0)

/-- CONFIG-GET at its owner. -/
def ownConfigGet (id : Nat) (s : Part) : Part × Reply :=
  if id = 0 then takenWith ((List.range 15).map fun i => paramDetail s.host.params (i + 1)).flatten s
  else if id ≤ 15 then takenWith (paramDetail s.host.params id) s
  else refused .badField s

/-- CONFIG-GET (R202). -/
def execConfigGet (tag : Byte) (body : List Byte) (s : State) : Host.Outcome State Fault Refusal :=
  carry (hostRequest 0x02#8 tag (readOne body) ownConfigGet) s

/-! ### STATUS-QUERY (R200) -/

/-- The seven bytes of an estimate entry, each field marked absent where there is none (R66, R195). -/
def estDetail (e : Option EstEntry) : List Byte :=
  match e with
  | some x => e1 x.stop ++ eDelay x.delay ++ eMinutes x.minutes ++ eb x.shown
  | none => o1 none ++ eDelay none ++ eMinutes none ++ o1 none

/-- The estimate entry of p while STANDING. -/
def estOfP (s : Part) : Option EstEntry :=
  if s.route.prog.state == .standing then s.route.prog.p.bind (estOf s.est) else none

/-- The 70 bytes of the status detail (R200). -/
def statusDetail (s : Part) : List Byte :=
  let g := s.route.prog
  let r := inForce s
  e1 s.supply.startCause.code ++ e1 s.supply.lastOff.code ++ e1 s.supply.breakCount ++ eb (!s.supply.retentionLow) ++
  o2 s.supply.settle ++
  e2 s.host.latched.toNat ++ e2 s.host.params.enable.toNat ++
  e2 s.res.releaseCount ++ e2 s.res.orphanCount ++ e2 (absentCount s.disp) ++
  e2 s.unit.unitId ++ e1 s.unit.coaches.length ++ e1 s.unit.portionTag ++
  e3 s.route.clock ++ eb s.route.clockSet ++
  e2 (routeInForce s.route) ++ e1 s.route.stops.length ++
  e1 (pstateCode g.state) ++ o1 g.p ++ o1 g.n ++ o1 g.halt ++
  o3 g.d ++ o3 g.arr ++ o3 g.dep ++
  eb g.stale ++ e1 (if g.source == .own then 0 else 1) ++
  e1 (if s.est.valid then 0 else 1) ++
  estDetail (estOfP s) ++ estDetail (g.n.bind (estOf s.est)) ++
  e1 s.form.role.code ++ e1 r.epoch ++ e1 r.units.length ++ e1 r.ownIndex ++ e1 (orientationCode (ownOrientation s)) ++
  eb (numberClash r.units) ++ e1 (balance s.form) ++ eb (linkWait s.form) ++
  e2 s.text.free.length ++ e1 (freeRemoteCount s.text) ++
  e2 (freeLegs s.res)

/-- STATUS-QUERY at its owner. -/
def ownStatusQuery (_ : Unit) (s : Part) : Part × Reply := takenWith (statusDetail s) s

/-- STATUS-QUERY (R200). -/
def execStatusQuery (tag : Byte) (body : List Byte) (s : State) : Host.Outcome State Fault Refusal :=
  carry (hostRequest 0x19#8 tag (readNone body) ownStatusQuery) s

/-! ### EVENT-CLEAR (R199) -/

/-- The kinds of a mask leave the latch set, and the counts of LEG_RELEASED and LEG_ORPHANED with them (R112, R199). -/
def clearEvents (m : BitVec 14) (s : Part) : Part :=
  { s with
    host := { s.host with latched := s.host.latched &&& ~~~m }
    res := { s.res with releaseCount := if inSet .legReleased m then 0 else s.res.releaseCount
                        orphanCount := if inSet .legOrphaned m then 0 else s.res.orphanCount } }

/-- EVENT-CLEAR at its owner. -/
def ownEventClear (m : Nat) (s : Part) : Part × Reply :=
  if 0x4000 ≤ m then refused .badField s
  else
    let s' := clearEvents (BitVec.ofNat 14 m) s
    takenWith (e2 s'.host.latched.toNat) s'

/-- EVENT-CLEAR (R199). -/
def execEventClear (tag : Byte) (body : List Byte) (s : State) : Host.Outcome State Fault Refusal :=
  carry (hostRequest 0x1B#8 tag (readTwo body) ownEventClear) s

/-! ### RESTART (R185) -/

/-- RESTART at its owner: it is answered OK, and acts when that reply has been sent. -/
def ownRestart (_ : Unit) (s : Part) : Part × Reply := taken s

/-- RESTART (R185); `execFrameSent` takes the part to COLD_START. -/
def execRestart (tag : Byte) (body : List Byte) (s : State) : Host.Outcome State Fault Refusal :=
  carry (hostRequest 0x1C#8 tag (readNone body) ownRestart) s

end Sys2Proof.Machine
end

