-- ==== Sys2Proof/Machine/UnitRequests.lean ====
section
/-! DEFINITION. The requests of the Unit Description: UNIT-SETUP, COACH-NUMBERS and PORTION-SET (section 1). -/
namespace Sys2Proof.Machine

/-! ### UNIT-SETUP (R5 to R7) -/

/-- The role bars UNIT-SETUP (R5, check 2). -/
def roleBars (r : Role) : Bool := !aloneRole r

/-- A field of a segment is out of range or inconsistent (R5, check 3). -/
def segmentBad (x : SegmentReq) : Bool :=
  x.unitId == 0 || x.coachCount == 0 || decide (8 < x.coachCount) || decide (x.coachCount ≤ x.coachIndex) || x.booked == 0 ||
    decide (99 < x.booked) || decide (96 < x.seatCount) || decide (15 < x.panels) || x.seats.length != x.seatCount ||
    x.seats.any fun y => y.1 == 0 || decide (999 < y.1) || decide (3 < y.2) || y.2 == 2

/-- A segment does not fit the staging record (R5, check 4). -/
def segmentMisfit (u : UnitDesc) (x : SegmentReq) : Bool :=
  x.coachIndex != 0 &&
    match u.staging with
    | some g => g.coaches.length != x.coachIndex || g.unitId != x.unitId || g.coachCount != x.coachCount
    | none => true

/-- The coach record of a segment. -/
def coachOf (x : SegmentReq) : CoachRec :=
  { booked := x.booked
    seats := x.seats.map fun y => { label := y.1, unitFitted := y.2 % 2 == 1, sensorFitted := y.2 / 2 == 1 }
    interiorA := x.panels.testBit 0, interiorB := x.panels.testBit 1
    exterior1 := x.panels.testBit 2, exterior2 := x.panels.testBit 3 }

/-- The staging record after a segment that passed (R5). -/
def stage (u : UnitDesc) (x : SegmentReq) : Staging :=
  let before := if x.coachIndex = 0 then [] else (u.staging.map (·.coaches)).getD []
  { unitId := x.unitId, coachCount := x.coachCount, coaches := before ++ [coachOf x] }

/-- The staging record becomes absent. -/
def dropStaging (s : Part) : Part := { s with unit := { s.unit with staging := none } }

/-- A description is taken, with the hand-offs of R7 (R6, R82). -/
def takeDescription (g : Staging) (s : Part) : Part :=
  let s1 := { s with
    unit := { unitId := g.unitId, coaches := g.coaches, portionTag := s.unit.portionTag, staging := none }
    disp := newTable g.coaches
    res := { s.res with views := g.coaches.map fun c => c.seats.map fun _ => {} }
    seat := { s.seat with sensors := freshSensors g.coaches } }
  let s2 := rebuildTally s1
  let s3 := { s2 with panel := reevaluate s2 }
  formationChanged (ownOrientation s) (recordAlone s3)

/-- A refused segment: the staging record becomes absent (R5). -/
def refuseSegment (r : Result) (s : Part) : Part × Reply := (dropStaging s, .now r [])

/-- A segment that passed the checks is collected; the last one commits the description (R5, R6). -/
def collectSegment (x : SegmentReq) (s : Part) : Part × Reply :=
  let g := stage s.unit x
  if x.coachIndex + 1 = x.coachCount then
    if hasDup (g.coaches.map (·.booked)) then refuseSegment .conflict s else taken (takeDescription g s)
  else taken { s with unit := { s.unit with staging := some g } }

/-- The checks of R5 in order. -/
def segmentChecks (x : SegmentReq) (s : Part) : List (Bool × Result) :=
  [(s.route.prog.state != .idle, .wrongState), (roleBars s.form.role, .wrongState), (segmentBad x, .badField),
   (segmentMisfit s.unit x, .badField), (hasDup (x.seats.map (·.1)), .conflict)]

/-- UNIT-SETUP at its owner. -/
def ownUnitSetup (x : SegmentReq) (s : Part) : Part × Reply :=
  match (segmentChecks x s).find? (·.1) with
  | some c => refuseSegment c.2 s
  | none => collectSegment x s

/-- UNIT-SETUP (R5, R6). -/
def execUnitSetup (tag : Byte) (body : List Byte) (s : State) : Host.Outcome State Fault Refusal :=
  carry (hostRequest 0x03#8 tag (readUnitSetup body) ownUnitSetup) s

/-! ### COACH-NUMBERS (R8, R9) -/

/-- Coach records with new booked numbers. -/
def renumber : List CoachRec → List Nat → List CoachRec
  | c :: cs, n :: ns => { c with booked := n } :: renumber cs ns
  | cs, _ => cs

/-- Coach indices whose booked number changes. -/
def changedCoaches (i : Nat) : List CoachRec → List Nat → List Nat
  | c :: cs, n :: ns => (if c.booked == n then [] else [i]) ++ changedCoaches (i + 1) cs ns
  | _, _ => []

/-- New booked numbers are taken, with the hand-offs of R9 where a number changed: the Panel Composer first, then the own formation
entry. R9 names the two without an order, and this is the model's choice (log entry 88). -/
def takeNumbers (ns : List Nat) (s : Part) : Part :=
  let changed := changedCoaches 0 s.unit.coaches ns
  if changed.isEmpty then s
  else
    let s1 := composer { coaches := changed } { s with unit := { s.unit with coaches := renumber s.unit.coaches ns } }
    ownEntryChanged (withNumbers s1) s1

/-- COACH-NUMBERS at its owner. -/
def ownCoachNumbers (ns : List Nat) (s : Part) : Part × Reply :=
  checked [(s.unit.coaches.isEmpty, .wrongState),
           (ns.length != s.unit.coaches.length || ns.any (fun n => n == 0 || decide (99 < n)), .badField),
           (hasDup ns, .conflict)]
    (fun s => taken (takeNumbers ns s)) s

/-- COACH-NUMBERS (R8, R9). -/
def execCoachNumbers (tag : Byte) (body : List Byte) (s : State) : Host.Outcome State Fault Refusal :=
  carry (hostRequest 0x04#8 tag (readList body) ownCoachNumbers) s

/-! ### PORTION-SET (R10, R48) -/

/-- The position placed against a new calling sequence (R48). -/
def placeAgain (c : List Nat) (g : Progress) : Option Placed :=
  match g.state with
  | .halted => g.halt.bind (placeStanding c)
  | .departed => g.p.bind (placeLeft c)
  | .approaching => g.p.bind (placeLeft c)
  | _ => g.p.bind (placeStanding c)

/-- The record restated against a new calling sequence; LOADING where the position cannot be placed (R48). -/
def restated (g : Progress) (y : Option Placed) : Progress :=
  match y with
  | none => { state := .loading, stale := g.stale, source := g.source }
  | some y =>
    let kept := running y.state && y.n == g.n
    { state := if kept then g.state else y.state
      p := some y.p, n := y.n, halt := y.halt, d := if kept then g.d else none
      arr := if g.p == some y.p then g.arr else none, dep := if g.p == some y.p then g.dep else none
      stale := g.stale, source := g.source }

/-- The notifications of a restatement: a re-derived sequence, and a termination where the train is now at its last stop
(log entry 34). -/
def restateNotes (old new : PState) : List Note :=
  [.rederived] ++ if new == .terminated && old != .terminated then [.termination] else []

/-- What a substitution code gives in a part, for the codes that depend on the own portion: the text it names, or its
characters (R23). -/
def fieldValue (s : Part) (code : Nat) : Option Nat × List Byte :=
  (substHandle s.route code, substitute s 0 (panelArrow s 1) 0 code)

/-- The substitution codes whose values differ between a part and the same part on another calling sequence (R10, R154). -/
def changedFields (s t : Part) : List Nat :=
  let t' := setEstimates { t with panel := { t.panel with standing := (standingSide t).1 } }
  [2, 3, 4, 5, 7].filter fun c => fieldValue s c != fieldValue t' c

/-- Step 1 of R10 with the hand-off it holds (R48): with a route the record is restated; without one steps 2 to 5 find no
sequence. -/
def restatePortion (s : Part) : Part :=
  if hasRoute s.route.prog.state then
    let c := callSeq s.route.stops s.unit.portionTag
    let y := placeAgain c s.route.prog
    let g := restated s.route.prog y
    let s' := { s with route := { s.route with ownSeq := if y.isSome then c else [], prog := g } }
    handOff (restateNotes s.route.prog.state g.state) { exterior := true, fields := changedFields s s' } s'
  else composer { exterior := true } (estRecompute (tallyUpdate (recomputeSeats s)))

/-- A new portion tag, with the six steps of R10. That it counts as a change of the own tallies is reported at step 6, also
where the rebuild of step 3 has reported changed counts (log entry 69). The seat summary is derived for the new tag at step 6, after
the own entry is rewritten; R130 gives no moment, and this is the model's choice (log entry 77). Where the position could not be
placed the route id in force is 0 from then on, and is written with the tag (log entry 87). -/
def takePortion (tag : Nat) (s : Part) : Part :=
  let s1 := restatePortion { s with unit := { s.unit with portionTag := tag } }
  ownEntryChanged (fun u => withRoute (routeInForce s.route) s1 (withTag s1 u)) s1

/-- PORTION-SET at its owner. -/
def ownPortionSet (tag : Nat) (s : Part) : Part × Reply :=
  if 2 < tag then refused .badField s
  else if tag = s.unit.portionTag then taken s
  else taken (takePortion tag s)

/-- PORTION-SET (R10). -/
def execPortionSet (tag : Byte) (body : List Byte) (s : State) : Host.Outcome State Fault Refusal :=
  carry (hostRequest 0x05#8 tag (readOne body) ownPortionSet) s

end Sys2Proof.Machine
end

