-- ==== Sys2Proof/Machine/TextRequests.lean ====
section
/-! DEFINITION. The requests of the Text Store: TEXT-PUT and TEXT-DROP (R15, R16, R19). -/
namespace Sys2Proof.Machine

/-- A handle the host may not write. -/
def notHostHandle (h : Nat) : Bool := h == 0 || decide (192 ≤ h)

/-- The record a seat's display names has the handle as its name or short name (R116). The name counts also where the short name
is shown in its place: R116 says so of "short name or name", against R16, and taking R116's words is the model's choice (log
entry 72). -/
def namesHandle (s : Part) (h : Nat) (a : EpAddr) : Bool :=
  match ((viewAt s.res a.coach a.number).bind (·.stop)).bind fun i => s.route.stops[i]? with
  | some r => r.name == h || r.short == some h
  | none => false

/-- A changed handle is named to the Panel Composer, which raises its panels, and then to the Reservation Store, which raises
its seat units (R16; the order of the two is the model's choice, log entry 62). -/
def nameHandle (h : Nat) (s : Part) : Part :=
  let s' := composer { handles := [h] } s
  onDisp (raiseAll ((seatAddrs s'.unit).filter (namesHandle s' h))) s'

/-- A TEXT-PUT that passed its checks (R16). -/
def takeText (h slot : Nat) (codes : List Byte) (s : Part) : Part := nameHandle h (onText (putVariant h slot codes) s)

/-- TEXT-PUT at its owner: the seven checks of R15. -/
def ownTextPut (x : Nat × Nat × List Byte) (s : Part) : Part × Reply :=
  checked [(x.1 == 0, .badField), (decide (192 ≤ x.1), .badField), (decide (2 < x.2.1), .badField),
           (x.2.2.isEmpty || decide (Config.maxVariant < x.2.2.length), .badField),
           (!x.2.2.all admitted, .badField),
           (x.2.1 != 0 && !textKnown s.text x.1, .notFound),
           (decide (s.text.free.length < blocksNeeded x.2.2.length), .full)]
    (fun s => taken (takeText x.1 x.2.1 x.2.2 s)) s

/-- TEXT-PUT (R15, R16). -/
def execTextPut (tag : Byte) (body : List Byte) (s : State) : Host.Outcome State Fault Refusal :=
  carry (hostRequest 0x06#8 tag (readTextPut body) ownTextPut) s

/-- The reference count of a handle. -/
def refCount (t : TextStore) (h : Nat) : Nat := ((textAt t h).map (·.refs)).getD 0

/-- TEXT-DROP at its owner (R19). -/
def ownTextDrop (h : Nat) (s : Part) : Part × Reply :=
  checked [(notHostHandle h, .badField), (!textKnown s.text h, .notFound), (decide (0 < refCount s.text h), .inUse)]
    (fun s => taken (onText (dropEntry h) s)) s

/-- TEXT-DROP (R19). -/
def execTextDrop (tag : Byte) (body : List Byte) (s : State) : Host.Outcome State Fault Refusal :=
  carry (hostRequest 0x07#8 tag (readOne body) ownTextDrop) s

end Sys2Proof.Machine
end

