-- ==== Sys2Proof/Machine/RouteRequests.lean ====
section
/-! DEFINITION. The requests of Route and Progress: the route table (R30 to R36), TIME (R38), and the progress messages
(R41 to R44). -/
namespace Sys2Proof.Machine

/-- Change Route and Progress. -/
def onRoute (f : Route → Route) (s : Part) : Part := { s with route := f s.route }

/-- A text handle that is optional in its field. -/
def optHandle (h : Nat) : Option Nat := if h = 0 then none else some h

/-! ### ROUTE-OPEN and ROUTE-CLEAR (R30, R34) -/

/-- An empty table in a state, with a route id and a train number; clock and source stand. -/
def emptyRoute (g : PState) (id : Nat) (train : Option Nat) (r : Route) : Route :=
  { r with id := id, train := train, stops := [], ownSeq := [], prog := { state := g, source := r.prog.source } }

/-- The table is replaced by an empty one: new handles counted, old ones released, the change handed on (R30, R34, R40). The hand-off
of R40 comes before that of the changed route id in force (R83), as at ROUTE-CLOSE (log entry 73). -/
def replaceRoute (g : PState) (id : Nat) (train : Option Nat) (s : Part) : Part :=
  let before := routeInForce s.route
  let s1 := onText (fun t => releaseAll (routeHandles s.route) (retainAll train.toList t)) s
  routeIdChanged before true (handOff [.opened] { exterior := true } (onRoute (emptyRoute g id train) s1))

/-- ROUTE-OPEN at its owner (R30). -/
def ownRouteOpen (x : Nat × Nat) (s : Part) : Part × Reply :=
  checked [(s.route.prog.state != .idle && s.route.prog.state != .terminated, .wrongState),
           (x.1 == 0 || decide (192 ≤ x.2), .badField),
           (x.2 != 0 && !textKnown s.text x.2, .notFound)]
    (fun s => taken (replaceRoute .loading x.1 (optHandle x.2) s)) s

/-- ROUTE-OPEN (R30). -/
def execRouteOpen (tag : Byte) (body : List Byte) (s : State) : Host.Outcome State Fault Refusal :=
  carry (hostRequest 0x08#8 tag (readRouteOpen body) ownRouteOpen) s

/-- ROUTE-CLEAR at its owner (R34). -/
def ownRouteClear (_ : Unit) (s : Part) : Part × Reply :=
  checked [(!s.res.legs.isEmpty, .inUse)] (fun s => taken (replaceRoute .idle 0 none s)) s

/-- ROUTE-CLEAR (R34). -/
def execRouteClear (tag : Byte) (body : List Byte) (s : State) : Host.Outcome State Fault Refusal :=
  carry (hostRequest 0x0B#8 tag (readNone body) ownRouteClear) s

/-! ### STOP-PUT (R31) -/

/-- A number is a non-empty mask of portions. -/
def maskOk (m : Nat) : Bool := 1 ≤ m && m ≤ 7

/-- A presence bit of a STOP-PUT. -/
def present (x : StopReq) (k : Nat) : Bool := x.presence.testBit k

/-- An inbound entry is out of range, or its mask leaves the record's mask (R31, check 2). -/
def inboundBad (m : Nat) (e : Nat × Nat × Nat) : Bool :=
  !maskOk e.1 || e.1 &&& m != e.1 || e.2.1 == 0 || decide (900 < e.2.2)

/-- A field of a STOP-PUT is out of range or inconsistent (R31, check 2). -/
def stopBad (count : Nat) (x : StopReq) : Bool :=
  decide (63 < x.index) || decide (count < x.index) || x.name == 0 || decide (192 ≤ x.name) || decide (192 ≤ x.short) ||
    !maskOk x.mask || decide (15 < x.presence) ||
    (present x 2 && decide (600 < x.dwell)) || (present x 3 && x.approach == 0) ||
    decide (3 < x.side) || decide (15 < x.flags) || decide (3 < x.inbound.length) || x.inbound.any (inboundBad x.mask) ||
    (present x 0 && decide (1 < x.arr.day)) || (present x 1 && decide (1 < x.dep.day)) ||
    (x.flags.testBit 3 && x.flags % 8 != 0)

/-- A present time of a STOP-PUT is malformed (R31, check 3). -/
def stopTimeBad (x : StopReq) : Bool := (present x 0 && !x.arr.ok) || (present x 1 && !x.dep.ok)

/-- The side a code names (R28). -/
def sideOfCode (n : Nat) : Side :=
  match n with
  | 0 => .left
  | 1 => .right
  | 2 => .both
  | _ => .none

/-- The record of a STOP-PUT, with the values R28 gives where dwell or approach distance are omitted. -/
def recordOf (x : StopReq) : StopRec :=
  { name := x.name, short := optHandle x.short, mask := BitVec.ofNat 3 x.mask
    arr := if present x 0 then some x.arr else none
    dep := if present x 1 then some x.dep else none
    dwell := if present x 2 then x.dwell else 30
    approach := if present x 3 then x.approach else 200
    side := sideOfCode x.side
    inbound := x.inbound.map fun e => { mask := BitVec.ofNat 3 e.1, length := e.2.1, recovery := e.2.2 }
    divide := x.flags.testBit 0, join := x.flags.testBit 1, reverse := x.flags.testBit 2, cancelled := x.flags.testBit 3 }

/-- The table with a record written at an index, or appended (R31). -/
def putStop (i : Nat) (r : StopRec) (stops : List StopRec) : List StopRec :=
  if i < stops.length then stops.set i r else stops ++ [r]

/-- A STOP-PUT that passed its checks: new handles are counted before those of a replaced record are released (R17, R31). -/
def takeStop (x : StopReq) (s : Part) : Part :=
  let r := recordOf x
  let old := ((s.route.stops[x.index]?).map recHandles).getD []
  onRoute (fun t => { t with stops := putStop x.index r t.stops })
    (onText (fun t => releaseAll old (retainAll (recHandles r) t)) s)

/-- STOP-PUT at its owner (R31). -/
def ownStopPut (x : StopReq) (s : Part) : Part × Reply :=
  checked [(s.route.prog.state != .loading, .wrongState), (stopBad s.route.stops.length x, .badField),
           (stopTimeBad x, .badTime),
           (!textKnown s.text x.name || (x.short != 0 && !textKnown s.text x.short), .notFound)]
    (fun s => taken (takeStop x s)) s

/-- STOP-PUT (R31). -/
def execStopPut (tag : Byte) (body : List Byte) (s : State) : Host.Outcome State Fault Refusal :=
  carry (hostRequest 0x09#8 tag (readStopPut body) ownStopPut) s

/-! ### ROUTE-CLOSE (R32, R33) -/

/-- The record placed at the first own calling stop (R33). -/
def placedAtStart (c : List Nat) : Progress :=
  { state := .standing, p := c.head?, n := c.head?.bind (firstAfter c) }

/-- A ROUTE-CLOSE that passed its checks (R33). The whole hand-off of R40 is made first, then the own formation entry is rewritten
with the new route id in force and handed on (R70, R83): the rules give the two no order, and this is the model's choice (log
entry 73). -/
def takeClose (s : Part) : Part :=
  let c := callSeq s.route.stops s.unit.portionTag
  routeIdChanged 0 false (handOff [.rederived, .placement (c.head?.getD 0)] { exterior := true }
    (onRoute (fun r => { r with ownSeq := c, prog := placedAtStart c }) s))

/-- ROUTE-CLOSE at its owner: a failed check is reported with the route index at which it failed (R32). -/
def ownRouteClose (_ : Unit) (s : Part) : Part × Reply :=
  if s.route.prog.state != .loading then refused .wrongState s
  else match closeFault s.route.stops s.unit.portionTag with
    | some (r, i) => (s, .now r (e1 i))
    | none => taken (takeClose s)

/-- ROUTE-CLOSE (R32, R33). -/
def execRouteClose (tag : Byte) (body : List Byte) (s : State) : Host.Outcome State Fault Refusal :=
  carry (hostRequest 0x0A#8 tag (readNone body) ownRouteClose) s

/-! ### STOP-AMEND (R35, R36) -/

/-- A change bit of a STOP-AMEND. -/
def changes (x : AmendReq) (k : Nat) : Bool := x.changes.testBit k

/-- The position index x of R35: the halt index while HALTED, p otherwise. -/
def positionIndex (g : Progress) : Nat := (if g.state == .halted then g.halt else g.p).getD 0

/-- A field of a STOP-AMEND is out of range, or a time is given that the record does not hold (R35, check 2). -/
def amendBad (stops : List StopRec) (x : AmendReq) : Bool :=
  x.changes == 0 || decide (63 < x.changes) || (changes x 0 && changes x 1) || (changes x 2 && decide (3 < x.side)) ||
    (changes x 3 && decide (1 < x.arr.day)) || (changes x 4 && decide (1 < x.dep.day)) ||
    (changes x 5 && decide (600 < x.dwell)) ||
    match stops[x.index]? with
    | some r => (changes x 3 && r.arr.isNone) || (changes x 4 && r.dep.isNone)
    | none => true

/-- A new time of a STOP-AMEND is malformed (R35, check 3). -/
def amendTimeBad (x : AmendReq) : Bool := (changes x 3 && !x.arr.ok) || (changes x 4 && !x.dep.ok)

/-- A record with the changes of a STOP-AMEND. -/
def amend (x : AmendReq) (r : StopRec) : StopRec :=
  { r with
    cancelled := if changes x 0 then true else if changes x 1 then false else r.cancelled
    side := if changes x 2 then sideOfCode x.side else r.side
    arr := if changes x 3 then some x.arr else r.arr
    dep := if changes x 4 then some x.dep else r.dep
    dwell := if changes x 5 then x.dwell else r.dwell }

/-- The table as amended. -/
def amended (x : AmendReq) (stops : List StopRec) : List StopRec := modifyAt x.index (amend x) stops

/-- CANCELLED is set on a record that must be called at, or no own calling stop stays ahead (R35, check 5). -/
def cancelBad (s : Part) (x : AmendReq) : Bool :=
  (changes x 0 && ((s.route.stops[x.index]?).map fun r => r.divide || r.join || r.reverse).getD false) ||
    (firstAfter (callSeq (amended x s.route.stops) s.unit.portionTag) (positionIndex s.route.prog)).isNone

/-- The record restated against an amended calling sequence (R36). -/
def restatedAhead (c : List Nat) (g : Progress) : Progress :=
  let n := firstAfter c (positionIndex g)
  if running g.state && n != g.n then { g with state := .departed, n := n, d := none } else { g with n := n }

/-- A STOP-AMEND that passed its checks (R36). A changed platform side is a cause for the arrow where the record is n as it was
before the amendment (R146, log entry 70). -/
def takeAmend (x : AmendReq) (s : Part) : Part :=
  let stops := amended x s.route.stops
  let c := callSeq stops s.unit.portionTag
  let flip := ((s.route.stops[x.index]?).map (·.cancelled)) != ((stops[x.index]?).map (·.cancelled))
  let turned := sideOf s.route x.index != sideOf { s.route with stops := stops } x.index
  let g := if flip then restatedAhead c s.route.prog else s.route.prog
  handOff (if flip then [.rederived] else [])
    { exterior := c.getLast? != s.route.ownSeq.getLast?, arrow := turned && s.route.prog.n == some x.index }
    (onRoute (fun r => { r with stops := stops, ownSeq := if flip then c else r.ownSeq, prog := g }) s)

/-- STOP-AMEND at its owner (R35). -/
def ownStopAmend (x : AmendReq) (s : Part) : Part × Reply :=
  checked [(!underWay s.route.prog.state, .wrongState), (amendBad s.route.stops x, .badField), (amendTimeBad x, .badTime),
           (decide (x.index ≤ positionIndex s.route.prog), .wrongState), (cancelBad s x, .badField),
           ((timeFault (amended x s.route.stops)).isSome, .badTime)]
    (fun s => taken (takeAmend x s)) s

/-- STOP-AMEND (R35, R36). -/
def execStopAmend (tag : Byte) (body : List Byte) (s : State) : Host.Outcome State Fault Refusal :=
  carry (hostRequest 0x0C#8 tag (readStopAmend body) ownStopAmend) s

/-! ### TIME (R38) -/

/-- TIME at its owner; the day flag is checked before the time (log entry 66). -/
def ownTime (t : ClockTime) (s : Part) : Part × Reply :=
  checked [(decide (1 < t.day), .badField), (!t.ok, .badTime)] (fun s => taken (writeClock t.seconds s)) s

/-- TIME (R38). -/
def execTime (tag : Byte) (body : List Byte) (s : State) : Host.Outcome State Fault Refusal :=
  carry (hostRequest 0x0D#8 tag (readTime body) ownTime) s

/-! ### Progress messages (R41 to R44) -/

/-- The first two steps of R41 for a message with a route index and a time; index and day flag are checked before the time (log
entry 66). -/
def messageChecks (k : Nat) (t : ClockTime) (s : Part) : List (Bool × Result) :=
  [(decide (63 < k) || decide (1 < t.day), .badField), (!t.ok, .badTime), (s.route.prog.source == .beacon, .following)]

/-- The route index at which a DEPARTED is taken (R42). -/
def departsFrom (g : Progress) : Option Nat := stoodAt g

/-- A DEPARTED that passed its checks (R42). -/
def takeDeparted (t : Nat) (s : Part) : Part :=
  let g := s.route.prog
  handOff [.departure t (g.state == .standing)] {}
    (setProg { g with state := .departed, halt := none, dep := some t, d := none, stale := false } s)

/-- DEPARTED at its owner. -/
def ownDeparted (x : Nat × ClockTime) (s : Part) : Part × Reply :=
  checked (messageChecks x.1 x.2 s ++ [(departsFrom s.route.prog != some x.1, .wrongState)])
    (fun s => taken (takeDeparted x.2.seconds s)) s

/-- DEPARTED (R42). -/
def execDeparted (tag : Byte) (body : List Byte) (s : State) : Host.Outcome State Fault Refusal :=
  carry (hostRequest 0x0E#8 tag (readIndexTime body) ownDeparted) s

/-- The record after a POSITION (R43). -/
def positioned (s : Part) (d : Nat) : Progress :=
  let g := s.route.prog
  let n := g.n.getD 0
  let d' := min d (lEff s.route.stops s.unit.portionTag (g.p.getD 0) n)
  { g with state := runningState g.state (approachOf s.route.stops n) s.host.params.hysteresis d', d := some d', stale := false }

/-- A POSITION that passed its checks (R43). -/
def takePosition (d : Nat) (s : Part) : Part := handOff [] {} (setProg (positioned s d) s)

/-- POSITION at its owner. -/
def ownPositionReport (d : Int) (s : Part) : Part × Reply :=
  checked [(decide (d < 0), .badField), (s.route.prog.source == .beacon, .following),
           (!running s.route.prog.state, .wrongState)]
    (fun s => taken (takePosition d.toNat s)) s

/-- POSITION (R43). -/
def execPosition (tag : Byte) (body : List Byte) (s : State) : Host.Outcome State Fault Refusal :=
  carry (hostRequest 0x10#8 tag (readPosition body) ownPositionReport) s

/-- The route index of an ARRIVED names no place the train can have reached (R44). -/
def arrivalBad (r : Route) (k : Nat) : Bool :=
  decide (r.stops.length ≤ k) || decide (k ≤ r.prog.p.getD 0) ||
    (decide (r.ownSeq.getLast?.getD 0 < k) && !r.ownSeq.contains k)

/-- The record after an arrival at an own calling stop (R44). -/
def arrivedAt (r : Route) (k t : Nat) : Progress :=
  let n := firstAfter r.ownSeq k
  { r.prog with state := if n.isSome then .standing else .terminated
                p := some k, n := n, halt := none, d := none, arr := some t, dep := none, stale := false }

/-- The record after a halt at a record that is no own calling stop (R44). -/
def haltedAt (r : Route) (k : Nat) : Progress :=
  let q := ((r.ownSeq.filter fun i => r.prog.p.getD 0 < i && i < k).getLast?)
  { r.prog with state := .halted, halt := some k, n := firstAfter r.ownSeq k, d := none, stale := false
                p := match q with
                  | some i => some i
                  | none => r.prog.p
                arr := if q.isSome then none else r.prog.arr
                dep := if q.isSome then none else r.prog.dep }

/-- An ARRIVED that passed its checks (R44). -/
def takeArrived (k t : Nat) (s : Part) : Part :=
  if s.route.ownSeq.contains k then
    let g := arrivedAt s.route k t
    handOff ([.arrival k] ++ if g.state == .terminated then [.termination] else []) {} (setProg g s)
  else handOff [.halt] {} (setProg (haltedAt s.route k) s)

/-- ARRIVED at its owner. -/
def ownArrived (x : Nat × ClockTime) (s : Part) : Part × Reply :=
  checked (messageChecks x.1 x.2 s ++ [(!running s.route.prog.state, .wrongState), (arrivalBad s.route x.1, .badField)])
    (fun s => taken (takeArrived x.1 x.2.seconds s)) s

/-- ARRIVED (R44). -/
def execArrived (tag : Byte) (body : List Byte) (s : State) : Host.Outcome State Fault Refusal :=
  carry (hostRequest 0x0F#8 tag (readIndexTime body) ownArrived) s

end Sys2Proof.Machine
end

