-- ==== Sys2Proof/Machine/LegRequests.lean ====
section
/-! DEFINITION. The requests of the Reservation Store and of Seat Sense and Tally: LEG-ADD, LEG-CANCEL, LEG-RESTORE,
SEAT-QUERY and TALLY-QUERY (R97 to R101, R131). -/
namespace Sys2Proof.Machine

/-- Change the Reservation Store. -/
def onRes (f : Reservations → Reservations) (s : Part) : Part := { s with res := f s.res }

/-- The allocated leg of an id. -/
def legOf (r : Reservations) (i : Nat) : Option Leg := r.legs.find? fun l => l.id == i

/-! ### LEG-ADD (R97, R98) -/

/-- The phase a new leg begins in (R98). -/
def newPhase (u : UnitDesc) (g : Progress) (l : Leg) : Phase :=
  if g.p.getD 0 < l.frm then .ahead
  else if g.state == .standing then openedPhase u l
  else .done

/-- The leg a LEG-ADD asks for, BOOKED. -/
def newLeg (s : Part) (x : LegReq) : Leg :=
  let l : Leg := { id := x.id, coach := x.coach, seat := x.seat, frm := x.frm, till := x.till
                   noRelease := x.flags == 1, state := .booked, phase := .done }
  { l with phase := newPhase s.unit s.route.prog l }

/-- The checks of R97 in order. -/
def legChecks (x : LegReq) (s : Part) : List (Bool × Result) :=
  [(!seatExists s.unit x.coach x.seat, .notFound),
   (x.id == 0 || decide (1 < x.flags) || decide (x.till ≤ x.frm) || decide (s.route.stops.length ≤ x.till), .badField),
   (s.route.prog.state == .loading, .wrongState),
   (!stopsCall s.route.ownSeq (newLeg s x), .offRoute),
   (decide (x.frm < s.route.prog.p.getD 0) || decide (x.till ≤ s.route.prog.p.getD 0), .wrongState),
   ((legOf s.res x.id).isSome || meetsActive (newLeg s x) s.res.legs, .conflict),
   (freeLegs s.res == 0, .full)]

/-- A LEG-ADD that passed its checks: the record joins its place in the pool (R96, R98). -/
def takeLeg (x : LegReq) (s : Part) : Part :=
  refreshSeats (onRes (fun r => { r with legs := insertBy Leg.before (newLeg s x) r.legs }) s)

/-- LEG-ADD at its owner. -/
def ownLegAdd (x : LegReq) (s : Part) : Part × Reply := checked (legChecks x s) (fun s => taken (takeLeg x s)) s

/-- LEG-ADD (R97, R98). -/
def execLegAdd (tag : Byte) (body : List Byte) (s : State) : Host.Outcome State Fault Refusal :=
  carry (hostRequest 0x11#8 tag (readLegAdd body) ownLegAdd) s

/-! ### LEG-CANCEL and LEG-RESTORE (R99, R100) -/

/-- The leg's record returns to the pool (R99). -/
def cancelLeg (i : Nat) (s : Part) : Part := refreshSeats (freeWhere (fun l => l.id == i) s)

/-- LEG-CANCEL at its owner. -/
def ownLegCancel (i : Nat) (s : Part) : Part × Reply :=
  checked [(i == 0, .badField), ((legOf s.res i).isNone, .notFound)] (fun s => taken (cancelLeg i s)) s

/-- LEG-CANCEL (R99). -/
def execLegCancel (tag : Byte) (body : List Byte) (s : State) : Host.Outcome State Fault Refusal :=
  carry (hostRequest 0x12#8 tag (readTwo body) ownLegCancel) s

/-- The leg becomes BOOKED with phase DONE (R100). -/
def restoreLeg (i : Nat) (s : Part) : Part :=
  refreshSeats (mapLegs (fun l => if l.id == i then { l with state := .booked, phase := .done } else l) s)

/-- A test on the leg an id names. -/
def legTest (s : Part) (i : Nat) (f : Leg → Bool) : Bool := ((legOf s.res i).map f).getD false

/-- LEG-RESTORE at its owner. -/
def ownLegRestore (i : Nat) (s : Part) : Part × Reply :=
  checked [(i == 0, .badField), ((legOf s.res i).isNone, .notFound),
           (legTest s i fun l => l.state != .released, .wrongState),
           (legTest s i fun l => !stopsCall s.route.ownSeq l, .offRoute),
           (legTest s i fun l => meetsActive l s.res.legs, .conflict)]
    (fun s => taken (restoreLeg i s)) s

/-- LEG-RESTORE (R100). -/
def execLegRestore (tag : Byte) (body : List Byte) (s : State) : Host.Outcome State Fault Refusal :=
  carry (hostRequest 0x13#8 tag (readTwo body) ownLegRestore) s

/-! ### SEAT-QUERY (R101) -/

/-- Position of a leg state in R94. -/
def legStateCode : LegState → Nat
  | .booked => 0
  | .claimed => 1
  | .released => 2
  | .orphaned => 3

/-- Position of a claim phase in R94. -/
def phaseCode : Phase → Nat
  | .ahead => 0
  | .opened => 1
  | .timed _ => 2
  | .deferred _ => 3
  | .done => 4

/-- Position of a display state in R115. -/
def displayCode : SeatDisplay → Nat
  | .noService => 0
  | .reserved => 1
  | .freeUntil => 2
  | .free => 3

/-- The claim deadline of a phase. -/
def deadlineOf : Phase → Option Nat
  | .timed d => some d
  | _ => none

/-- The polls seen of a phase. -/
def pollsOf : Phase → Option Nat
  | .deferred n => some n
  | _ => none

/-- One leg of a SEAT-QUERY reply (log entry 14). Outside TIMED the deadline stands as 0xFFFFFF, outside DEFERRED the polls seen as
0xFF: R101 gives each in its phase alone and can also mean that they are left out, and this is the model's choice (log entry 83). -/
def legDetail (l : Leg) : List Byte :=
  e2 l.id ++ e1 l.frm ++ e1 l.till ++ eb l.noRelease ++ e1 (legStateCode l.state) ++ e1 (phaseCode l.phase) ++
    o3 (deadlineOf l.phase) ++ o1 (pollsOf l.phase)

/-- The detail of a SEAT-QUERY; the two fitted flags are one byte, bit 0 the seat unit and bit 1 the sensor (R101; log entry
14). -/
def seatDetail (s : Part) (c p : Nat) (x : SeatRec) : List Byte :=
  let v := (viewAt s.res c p).getD {}
  let legs := s.res.legs.filter fun l => l.onSeat c p
  e2 x.label ++ e1 ((if x.unitFitted then 1 else 0) + (if x.sensorFitted then 2 else 0)) ++
    eb (seatOccupied s.seat c p) ++ e1 (if evidenceFresh s.seat c p then 0 else 1) ++
    e1 (displayCode v.display) ++ o1 v.horizon ++ e2 legs.length ++ eList legDetail (legs.take 64)

/-- SEAT-QUERY at its owner. -/
def ownSeatQuery (x : Nat × Nat) (s : Part) : Part × Reply :=
  match seatAt s.unit x.1 x.2 with
  | some r => takenWith (seatDetail s x.1 x.2 r) s
  | none => refused .notFound s

/-- SEAT-QUERY (R101). -/
def execSeatQuery (tag : Byte) (body : List Byte) (s : State) : Host.Outcome State Fault Refusal :=
  carry (hostRequest 0x14#8 tag (readPair body) ownSeatQuery) s

/-! ### TALLY-QUERY (R131) -/

/-- One own coach of a TALLY-QUERY reply; the entries of its row take one byte each, the two counts of the coach two (log
entry 15). -/
def coachDetail (s : Part) (i : Nat) (c : CoachRec) : List Byte :=
  let k := (s.seat.counts[i]?).getD (0, 0)
  e1 i ++ e1 c.booked ++ o1 (ownPosition s i) ++ e1 c.seats.length ++ eList e1 ((s.seat.rows[i]?).getD []) ++ e2 k.1 ++ e2 k.2

/-- The number of sensor records a test names. -/
def sensorCount (q : SeatSense) (f : Sensor → Bool) : Nat := ((q.sensors.map fun r => (r.filter f).length)).sum

/-- One entry of the train tally table. -/
def tallyDetail (e : TallyEntry) : List Byte :=
  e1 e.position ++ e1 e.booked ++ e2 e.unitId ++ e2 e.freeEnd ++ e2 e.freeDivide ++ e1 e.epoch

/-- One entry of the seat summary. -/
def summaryDetail (e : SummaryEntry) : List Byte := e1 e.position ++ e1 e.booked ++ e2 e.freeEnd ++ e2 e.freeDivide

/-- The detail of a TALLY-QUERY (R131; log entry 15). -/
def tallyQueryDetail (s : Part) : List Byte :=
  e1 (pstateCode s.route.prog.state) ++ o1 s.route.prog.p ++ eList e1 s.seat.columns ++
    e1 s.unit.coaches.length ++ (mapFrom (coachDetail s) 0 s.unit.coaches).flatten ++
    e2 (sensorCount s.seat (·.occupied)) ++ e2 (sensorCount s.seat (·.age.isNone)) ++
    eList tallyDetail s.form.trainTally ++ eList summaryDetail s.seat.summary

/-- TALLY-QUERY at its owner. -/
def ownTallyQuery (_ : Unit) (s : Part) : Part × Reply := takenWith (tallyQueryDetail s) s

/-- TALLY-QUERY (R131). -/
def execTallyQuery (tag : Byte) (body : List Byte) (s : State) : Host.Outcome State Fault Refusal :=
  carry (hostRequest 0x15#8 tag (readNone body) ownTallyQuery) s

end Sys2Proof.Machine
end

