-- ==== Sys2Proof/Machine/PanelRequests.lean ====
section
/-! DEFINITION. The requests of the Panel Composer and the Display Line Driver: NOTICE-RAISE, NOTICE-CLEAR, LEVEL-QUERY and
ENDPOINT-QUERY (R148, R149, R153, R170). -/
namespace Sys2Proof.Machine

/-! ### NOTICE-RAISE (R148) -/

/-- The targets of a NOTICE-RAISE (R195); none where kind and count do not go together. -/
def targetsOf (x : RaiseReq) : Option Targets :=
  match x.kind with
  | 0 => if x.numbers.isEmpty then some .all else none
  | 1 => if x.numbers.isEmpty then some .unit else none
  | 2 => if 1 ≤ x.numbers.length && x.numbers.length ≤ 4 && x.numbers.all (fun n => 1 ≤ n && n ≤ 99) then
           some (.coaches x.numbers) else none
  | _ => none

/-- The level of a NOTICE-RAISE. -/
def levelOf (n : Nat) : Option NoticeLevel :=
  match n with
  | 0 => some .staff
  | 1 => some .service
  | _ => none

/-- A field of a NOTICE-RAISE is out of range (R148, check 1). -/
def raiseBad (x : RaiseReq) : Bool :=
  x.noticeId == 0 || decide (1 < x.level) || (targetsOf x).isNone || decide (3 < x.subPriority) || decide (3600 < x.duration) ||
    notHostHandle x.handle

/-- The level a NOTICE-RAISE names, once its fields are good. -/
def raiseLevel (x : RaiseReq) : NoticeLevel := (levelOf x.level).getD .service

/-- The targets a NOTICE-RAISE names, once its fields are good. -/
def raiseTargets (x : RaiseReq) : Targets := (targetsOf x).getD .all

/-- The notice takes the lowest empty slot of its level (R148, steps 1 and 2). -/
def placeLocal (x : RaiseReq) (s : Part) : Part :=
  let l := raiseLevel x
  match firstEmpty (slotsOf s.panel l) with
  | some i =>
    afterSlots (stablingCondition s) (some (l, i))
      (fillSlot l i none x.noticeId x.subPriority (raiseTargets x) x.handle x.duration s)
  | none => s

/-- A reply, or none while a forward runs. -/
def forwardReply (x : Part × Option Result) : Part × Reply :=
  match x.2 with
  | some r => (x.1, .now r [])
  | none => (x.1, .wait)

/-- A NOTICE-RAISE that passed its checks: the slot, then the forward where other units hold a targeted coach (R148). -/
def takeRaise (tag : Byte) (x : RaiseReq) (s : Part) : Part × Reply :=
  let s' := placeLocal x s
  match destinations s' (raiseTargets x) with
  | [] => taken s'
  | ds => forwardReply (makeForward tag x.noticeId
      (some { handle := x.handle, level := raiseLevel x, subPriority := x.subPriority, targets := raiseTargets x
              duration := x.duration }) ds s')

/-- NOTICE-RAISE at its owner. -/
def ownNoticeRaise (tag : Byte) (x : RaiseReq) (s : Part) : Part × Reply :=
  checked [(raiseBad x, .badField), (s.unit.coaches.isEmpty, .wrongState), (!textKnown s.text x.handle, .notFound),
           ((findNotice s.panel none x.noticeId).isSome, .conflict),
           ((firstEmpty (slotsOf s.panel (raiseLevel x))).isNone, .full)]
    (takeRaise tag x) s

/-- NOTICE-RAISE (R148). -/
def execNoticeRaise (tag : Byte) (body : List Byte) (s : State) : Host.Outcome State Fault Refusal :=
  carry (hostRequest 0x16#8 tag (readNoticeRaise body) (ownNoticeRaise tag)) s

/-! ### NOTICE-CLEAR (R149) -/

/-- The slot of a local notice is emptied, where one holds it. -/
def clearLocal (id : Nat) (s : Part) : Part :=
  match findNotice s.panel none id with
  | some (l, i) => emptySlot l i s
  | none => s

/-- NOTICE-CLEAR at its owner. -/
def ownNoticeClear (tag : Byte) (id : Nat) (s : Part) : Part × Reply :=
  let ds := clearDestinations s
  if id = 0 then refused .badField s
  else if (findNotice s.panel none id).isNone && ds.isEmpty then refused .notFound s
  else
    let s' := clearLocal id s
    if ds.isEmpty then taken s' else forwardReply (makeForward tag id none ds s')

/-- NOTICE-CLEAR (R149). -/
def execNoticeClear (tag : Byte) (body : List Byte) (s : State) : Host.Outcome State Fault Refusal :=
  carry (hostRequest 0x17#8 tag (readTwo body) (ownNoticeClear tag)) s

/-! ### LEVEL-QUERY (R153) -/

/-- The number of a content level (R134). -/
def levelCode : Level → Nat
  | .idle => 0
  | .journey => 1
  | .service => 2
  | .approach => 3
  | .standing => 4
  | .staff => 5

/-- Position of a brightness (R156). -/
def brightnessCode : Brightness → Nat
  | .bright => 0
  | .dim => 1
  | .dark => 2

/-- Position of a targets kind, with its list (R195). -/
def targetsDetail : Targets → List Byte
  | .all => e1 0 ++ e1 0
  | .unit => e1 1 ++ e1 0
  | .coaches ns => e1 2 ++ eList e1 ns

/-- Page count, page index and language index of a rotation. -/
def rotationDetail (x : Context) : List Byte := e1 x.pages.length ++ e1 x.index ++ e1 x.lang

/-- The selected slot of a coach whose shown level is a notice level. -/
def shownSlot (q : Panels) (c : CoachShow) : Option Slot :=
  match c.shown with
  | .staff => c.staff.bind (slotAt q .staff)
  | .service => c.service.bind (slotAt q .service)
  | _ => none

/-- One own coach of a LEVEL-QUERY reply; origin LOCAL is sent as 0 (log entry 16). Where the shown level is no notice level, origin
and notice id stand as 0xFFFF each: R153 can also mean that they are left out, and this is the model's choice (log entry 79). -/
def showDetail (s : Part) (i : Nat) (c : CoachRec) : List Byte :=
  let v := (s.panel.coaches[i]?).getD {}
  let x := shownSlot s.panel v
  e1 i ++ e1 c.booked ++ e1 (levelCode v.shown) ++ o2 (x.map fun y => y.origin.getD 0) ++ o2 (x.map (·.noticeId))

/-- One slot of a LEVEL-QUERY reply (log entry 16). -/
def slotDetail : Option Slot → List Byte
  | none => e1 0
  | some x =>
    e1 1 ++ e2 (x.origin.getD 0) ++ e2 x.noticeId ++ e1 x.subPriority ++ targetsDetail x.targets ++ e1 x.handle ++
      e2 x.duration ++ o2 x.remaining ++ rotationDetail x.rotation

/-- The detail of a LEVEL-QUERY (R153; log entry 16). -/
def levelDetail (s : Part) : List Byte :=
  e1 (brightnessCode s.panel.brightness) ++ eb s.panel.stabling.isSome ++ o2 s.panel.stabling ++
    e1 s.unit.coaches.length ++ (mapFrom (showDetail s) 0 s.unit.coaches).flatten ++
    rotationDetail s.panel.idleCtx ++ rotationDetail s.panel.journeyCtx ++ rotationDetail s.panel.approachCtx ++
    rotationDetail s.panel.standingCtx ++ ((s.panel.staff ++ s.panel.service).map slotDetail).flatten

/-- LEVEL-QUERY at its owner. -/
def ownLevelQuery (_ : Unit) (s : Part) : Part × Reply := takenWith (levelDetail s) s

/-- LEVEL-QUERY (R153). -/
def execLevelQuery (tag : Byte) (body : List Byte) (s : State) : Host.Outcome State Fault Refusal :=
  carry (hostRequest 0x18#8 tag (readNone body) ownLevelQuery) s

/-! ### ENDPOINT-QUERY (R170) -/

/-- Position of an operation kind (R158). -/
def opCode : LineOp → Nat
  | .transfer _ => 0
  | .poll => 1
  | .probe => 2

/-- The last status of an endpoint as its two bytes (R195). -/
def epStatusCode : EpStatus → Nat
  | .level raw => raw
  | .ok => 0
  | .fault => 1

/-- One entry of an ENDPOINT-QUERY reply. -/
def entryDetail (d : Display) (e : EpEntry) : List Byte :=
  eAddr e.addr ++ e1 (if e.present then 0 else 1) ++ e1 e.content ++ o2 e.shown ++ e1 e.miss ++ eb (d.queue.contains e.addr) ++
    o2 e.probeTime ++ o2 (e.status.map epStatusCode)

/-- The entries reported: from a start index, by the selection, up to a maximum, each with its index. -/
def pickEntries (absentOnly : Bool) (start max : Nat) (d : Display) : List (Nat × EpEntry) :=
  (((mapFrom (fun i e => (i, e)) 0 d.table).drop start).filter fun x => !absentOnly || !x.2.present).take max

/-- The index after the last entry reported, none where the table's end was reached. -/
def nextIndex (start max : Nat) (d : Display) (l : List (Nat × EpEntry)) : Option Nat :=
  let i := ((l.getLast?).map fun x => x.1 + 1).getD start
  if l.length < max then none else if i < d.table.length then some i else none

/-- The detail of an ENDPOINT-QUERY (R170; log entry 18). With no operation in flight its kind stands as 0xFF and its address as
0xFFFFFF, and an absent rotation mark as 0xFFFFFF (log entry 84); the mark that the table's end was reached is 0xFFFF in place of
the next index (log entry 85). R170 gives no bytes for these, and they are the model's choice. -/
def endpointDetail (x : Nat × Nat × Nat) (d : Display) : List Byte :=
  let l := pickEntries (x.2.1 == 1) x.1 x.2.2 d
  e2 d.table.length ++ e2 (d.table.length - absentCount d) ++ e2 (absentCount d) ++ e2 d.queue.length ++
    o1 (d.inFlight.map fun y => opCode y.1) ++ oAddr (d.inFlight.map (·.2)) ++
    e1 (if d.lastTransfer then 0 else 1) ++ oAddr d.mark ++
    eList (fun y => entryDetail d y.2) l ++ o2 (nextIndex x.1 x.2.2 d l)

/-- ENDPOINT-QUERY at its owner. -/
def ownEndpointQuery (x : Nat × Nat × Nat) (s : Part) : Part × Reply :=
  let n := s.disp.table.length
  checked [(decide (1 < x.2.1) || x.2.2 == 0 || decide (64 < x.2.2) || decide (799 < x.1), .badField),
           (decide (n ≤ x.1) && !(n == 0 && x.1 == 0), .badField)]
    (fun s => takenWith (endpointDetail x s.disp) s) s

/-- ENDPOINT-QUERY (R170). -/
def execEndpointQuery (tag : Byte) (body : List Byte) (s : State) : Host.Outcome State Fault Refusal :=
  carry (hostRequest 0x1A#8 tag (readEndpointQuery body) ownEndpointQuery) s

end Sys2Proof.Machine
end

