-- ==== Sys2Proof/Machine/HostLine.lean ====
section
/-! DEFINITION. The host line: frames of no known kind, frames sent, and the receiver (R189 to R191). -/
namespace Sys2Proof.Machine

/-- A frame of an unknown kind meets the request stage: BUSY and CONFLICT before UNKNOWN_KIND (R191). -/
def unknownKind (kind tag : Byte) (s : Part) : Part :=
  if isRun s then
    let s0 := frameEnd s
    onHost (refuse tag kind ((stageFault s0.host tag).getD .unknownKind)) s0
  else s

/-- UNKNOWN-KIND frame (R191, R192): nothing of its body is read. -/
def execUnknownKindFrame (kind tag : Byte) (_body : List Byte) (s : State) : Host.Outcome State Fault Refusal :=
  carry (unknownKind kind tag) s

/-- The receiver leaves a frame it was collecting (R189). -/
def dropFrame (s : Part) : Part := if isRun s && s.host.receiver == .inFrame then frameEnd s else s

/-- A gap of more than 5 ms (R189). -/
def execFrameGapTimeout (s : State) : Host.Outcome State Fault Refusal := carry dropFrame s

/-- The body length field of some received bytes that begin at a start byte (R188). -/
def lengthField (bs : List Byte) : Nat := 256 * ((bs[1]?.getD 0#8).toNat) + (bs[2]?.getD 0#8).toNat

/-- Received bytes that end no frame: the length field is not complete, or it can stand and a byte is still to come (R189). -/
def unfinished (bs : List Byte) : Bool :=
  bs.length < 3 || (lengthField bs ≤ Config.maxBody && bs.length < lengthField bs + 7)

/-- The receiver in a frame collects bytes. The byte that ends the frame, its last one or a length field that reads too much,
is not among them: it belongs to the command that the end of the frame is (log entry 21). -/
def collectBytes : List Byte → List Byte → List Byte
  | buf, [] => buf
  | buf, c :: t => if unfinished (buf ++ [c]) then collectBytes (buf ++ [c]) t else buf

/-- A 0xA5 begins a frame while the receiver hunts; inside a frame it is data like any other byte. The bytes that follow are
collected (R189). -/
def beginFrame (rest : List Byte) (s : Part) : Part :=
  if isRun s then
    onHost (fun h =>
      match h.receiver with
      | .hunting => { h with receiver := .inFrame, buffer := collectBytes [0xA5#8] rest }
      | .inFrame => { h with buffer := collectBytes h.buffer (0xA5#8 :: rest) }) s
  else s

/-- A start byte, with the bytes of the frame that follow it (R189). -/
def execFrameStartByte (s : State) (rest : List Byte := []) : Host.Outcome State Fault Refusal := carry (beginFrame rest) s

/-- The length field of a frame reads above 1,024 (R189). -/
def lengthError (length : Nat) (s : Part) : Part := if Config.maxBody < length then dropFrame s else s

/-- A length error (R189). -/
def execFrameLengthError (length : Nat) (s : State) : Host.Outcome State Fault Refusal := carry (lengthError length) s

/-- A frame with a CRC that is not its own is discarded; with its own CRC it is no CRC error, and the frame is the command of
its kind (R189). -/
def crcError (kind tag : Byte) (body : List Byte) (crc : BitVec 16) (s : Part) : Part :=
  if crc == crc16 (coveredBytes kind tag body) then s else if isRun s then frameEnd s else s

/-- A CRC error (R189). -/
def execFrameCrcError (kind tag : Byte) (body : List Byte) (crc : BitVec 16) (s : State) : Host.Outcome State Fault Refusal :=
  carry (crcError kind tag body crc) s

/-- The frame sent answered a RESTART that was taken (R185). -/
def restartSent (x : SentFrame) : Bool := x.kind == 0x9C#8 && x.entry.isSome

/-- The entry of a sent reply leaves the in-flight table (R190). -/
def entryDone (x : SentFrame) (h : HostPort) : HostPort :=
  { h with sending := none
           inFlight := match x.entry with
             | some tag => h.inFlight.filter fun e => e.tag != tag
             | none => h.inFlight }

/-- The frame on the line was sent in full (R190, R185). -/
def frameSent (s : Part) : Part :=
  if isRun s then
    match s.host.sending with
    | some x => if restartSent x then restartPart s else onHost (entryDone x) s
    | none => s
  else s

/-- FRAME-SENT (R190). -/
def execFrameSent (s : State) : Host.Outcome State Fault Refusal := carry frameSent s

end Sys2Proof.Machine
end

