-- ==== Sys2Proof/Machine/SupplySteps.lean ====
section
/-! DEFINITION. The events of the supply inputs and of the Supply Monitor's times (R174 to R184). -/
namespace Sys2Proof.Machine

/-- The level falls: a break qualification starts, or a return qualification is abandoned (R174). -/
def levelFalls (mv : Nat) (u : Supply) : Supply :=
  if u.mainBroken then { u with mainMv := mv, qualifying := u.qualifying && decide (Config.restoreMv < mv) }
  else { u with mainMv := mv, qualifying := u.qualifying || decide (mv < Config.dropMv) }

/-- MAIN-LEVEL-FALL (R174). -/
def execMainLevelFall (mv : Nat) (s : State) : Host.Outcome State Fault Refusal := carry (onSupply (levelFalls mv)) s

/-- The level rises: a break qualification is abandoned, or a return qualification starts (R174). -/
def levelRises (mv : Nat) (u : Supply) : Supply :=
  if u.mainBroken then { u with mainMv := mv, qualifying := u.qualifying || decide (Config.restoreMv < mv) }
  else { u with mainMv := mv, qualifying := u.qualifying && decide (mv < Config.dropMv) }

/-- MAIN-LEVEL-RISE (R174). -/
def execMainLevelRise (mv : Nat) (s : State) : Host.Outcome State Fault Refusal := carry (onSupply (levelRises mv)) s

/-- The break qualification completes (R174, R178). -/
def mainBreak (s : Part) : Part :=
  if !s.supply.mainBroken && s.supply.qualifying then
    handleBreak (onSupply (fun u => { u with mainBroken := true, qualifying := false }) s)
  else s

/-- MAIN-BREAK (R178). -/
def execMainBreak (s : State) : Host.Outcome State Fault Refusal := carry mainBreak s

/-- The return qualification completes (R174, R181). -/
def mainReturn (mv : Nat) (s : Part) : Part :=
  if s.supply.mainBroken && s.supply.qualifying then
    handleReturn mv (onSupply (fun u => { u with mainBroken := false, qualifying := false }) s)
  else s

/-- MAIN-RETURN (R174). -/
def execMainReturn (mv : Nat) (s : State) : Host.Outcome State Fault Refusal := carry (mainReturn mv) s

/-- RETENTION-LOW (R175). -/
def execRetentionLow (s : State) : Host.Outcome State Fault Refusal := carry retentionFails s

/-- The retention status becomes OK; in OFF its input is not watched (R175, R176). -/
def retentionRecovers (s : Part) : Part :=
  if s.supply.mode == .off then s else onSupply (fun u => { u with retentionLow := false }) s

/-- RETENTION-OK (R175). -/
def execRetentionOk (s : State) : Host.Outcome State Fault Refusal := carry retentionRecovers s

/-- The hold time expires: EXTENDED_HOLD, with its own time started (R179). -/
def holdExpires (s : Part) : Part :=
  if s.supply.mode == .breakHold && s.supply.hold.isSome then
    onSupply (fun u => { u with mode := .extendedHold, hold := none, extHold := some (60 * s.host.params.extHoldLimit) }) s
  else s

/-- HOLD-TIME-EXPIRY (R179). -/
def execHoldTimeExpiry (s : State) : Host.Outcome State Fault Refusal := carry holdExpires s

/-- The extended hold time expires (R180). -/
def extendedExpires (s : Part) : Part :=
  if s.supply.mode == .extendedHold && s.supply.extHold.isSome then enterOff .expired s else s

/-- EXTENDED-HOLD-EXPIRY (R180). -/
def execExtendedHoldExpiry (s : State) : Host.Outcome State Fault Refusal := carry extendedExpires s

/-- The clearing ends: RUN with main supply, OFF without (R177). -/
def clearingEnds (s : Part) : Part :=
  if s.supply.mode == .coldStart && s.supply.clearing then
    if s.supply.mainBroken then enterOffQuietly s else startCold s
  else s

/-- CLEARING-END (R177). -/
def execClearingEnd (s : State) : Host.Outcome State Fault Refusal := carry clearingEnds s

/-- RESET-ASSERT (R184). -/
def execResetAssert (s : State) : Host.Outcome State Fault Refusal := carry assertReset s

/-- RESET-RELEASE (R184). -/
def execResetRelease (s : State) : Host.Outcome State Fault Refusal := carry releaseReset s

/-- The settle time reaches its limit (R183). -/
def settled (s : Part) : Part :=
  if isRun s && s.supply.settle.isSome then onSupply (fun u => { u with breakCount := 0, settle := none }) s else s

/-- SETTLE-LIMIT-REACHED (R183). -/
def execSettleLimitReached (s : State) : Host.Outcome State Fault Refusal := carry settled s

end Sys2Proof.Machine
end

