-- ==== Sys2Proof/Machine/TimeSteps.lean ====
section
/-! DEFINITION. The second of the service clock (R37), claim deadlines (R107), and the times of seats and panels (R123, R137,
R152, R156, R168). -/
namespace Sys2Proof.Machine

/-! ### CLOCK-TICK (R37; log entry 6) -/

/-- The clock runs in RUN and in both holds (R37). -/
def clockRuns (s : Part) : Bool := isRun s || isHold s

/-- The clock advances, or the advance is withheld at the top and CLOCK_RANGE latches at the first such second (R37). -/
def advanceClock (s : Part) : Part :=
  if s.route.clock < Config.clockTop then { s with route := { s.route with clock := s.route.clock + 1 } }
  else if s.route.rangeLatched then s
  else latch .clockRange { s with route := { s.route with rangeLatched := true } }

/-- A remaining time one second on. -/
def countDown (t : Option Nat) : Option Nat := t.map fun n => n - 1

/-- A rotation in use counts down (R137). -/
def beatContext (x : Context) : Context := if x.inUse then { x with dwell := x.dwell - 1 } else x

/-- The rotations count down, in RUN and out of DARK (R137). -/
def beatRotations (q : Panels) : Panels :=
  if q.brightness == .dark then q
  else
    let f (l : List (Option Slot)) := l.map fun x => x.map fun y => { y with rotation := beatContext y.rotation }
    { q with idleCtx := beatContext q.idleCtx, journeyCtx := beatContext q.journeyCtx, approachCtx := beatContext q.approachCtx
             standingCtx := beatContext q.standingCtx, staff := f q.staff, service := f q.service }

/-- The remaining times of notices count down (R152). -/
def beatNotices (q : Panels) : Panels :=
  let f (l : List (Option Slot)) := l.map fun x => x.map fun y => { y with remaining := countDown y.remaining }
  { q with staff := f q.staff, service := f q.service }

/-- Probe times count down (R168). -/
def beatProbes (d : Display) : Display :=
  { d with table := d.table.map fun e => if e.probeDue then e else { e with probeTime := countDown e.probeTime } }

/-- Evidence ages count up (R123). -/
def beatEvidence (x : Sensor) : Sensor := { x with age := x.age.map fun n => min Config.evidenceSeconds (n + 1) }

/-- The times that count in a mode, one second on (section 10.8). -/
def beat (s : Part) : Part :=
  match s.supply.mode with
  | .run =>
    let s1 := onSupply (fun u => { u with settle := u.settle.map fun n => min s.host.params.settleLimit (n + 1) }) s
    let s2 := onDisp beatProbes (mapSensors beatEvidence s1)
    { s2 with panel := { beatNotices (beatRotations s2.panel) with stabling := countDown s2.panel.stabling } }
  | .breakHold =>
    let s1 := onSupply (fun u => { u with hold := countDown u.hold }) s
    { s1 with panel := beatNotices s1.panel }
  | .extendedHold => onSupply (fun u => { u with extHold := countDown u.extHold }) s
  | _ => s

/-- One second: the times, the clock, the deadlines it reaches, and the minute (R37, R107, R109). The legs released by one clock
value change the tally together (log entry 65). That the deadlines are decided and the seats refreshed before the minute is handed
on is the model's choice: R38 orders the two for a write alone (log entry 74). -/
def clockTick (s : Part) : Part :=
  if clockRuns s then minuteAdvanced (minuteOf s.route) (refreshSeats (decideDeadlines (advanceClock (beat s)))) else s

/-- CLOCK-TICK (R37). -/
def execClockTick (s : State) : Host.Outcome State Fault Refusal := carry clockTick s

/-! ### CLAIM-DEADLINE (R107) -/

/-- The reached deadline of one leg is decided. -/
def claimDeadline (i : Nat) (s : Part) : Part :=
  refreshSeats (mapReleasing (fun l => if l.id == i && deadlineReached s.route.clock l then decideLeg s l else l) s)

/-- CLAIM-DEADLINE (R107). -/
def execClaimDeadline (legId : Nat) (s : State) : Host.Outcome State Fault Refusal := carry (claimDeadline legId) s

/-! ### Times of seats and panels -/

/-- The evidence of a seat becomes STALE; state and run are kept (R123). -/
def evidenceExpires (c p : Nat) (s : Part) : Part :=
  if isRun s then sensorUpdate c p (fun x => { x with age := none }) s else s

/-- EVIDENCE-AGE-EXPIRY (R123). -/
def execEvidenceAgeExpiry (coach seat : Nat) (s : State) : Host.Outcome State Fault Refusal := carry (evidenceExpires coach seat) s

/-- The rotation of a context id. -/
def rotationAt (q : Panels) : ContextId → Option Context
  | .level l => some (contextOf q l)
  | .slot l i => (slotAt q l i).map (·.rotation)

/-- The Composer with a rotation replaced. -/
def setRotation (q : Panels) (x : Context) : ContextId → Panels
  | .level l => setContext q l x
  | .slot l i => setSlots q l (modifyAt i (fun y => y.map fun z => { z with rotation := x }) (slotsOf q l))

/-- A coach shows a rotation. -/
def showsRotation (c : CoachShow) : ContextId → Bool
  | .level l => c.shown == progLevel l
  | .slot .staff i => c.shown == .staff && c.staff == some i
  | .slot .service i => c.shown == .service && c.service == some i

/-- The interior panels of the coaches that show a rotation. -/
def rotationPanels (s : Part) (x : ContextId) : List EpAddr :=
  panelsWhere s fun a => a.kind == .interior && ((s.panel.coaches[a.coach]?).map fun c => showsRotation c x).getD false

/-- A dwell ends: the rotation in use advances and the panels that show it are rendered anew (R137). -/
def dwellEnds (x : ContextId) (s : Part) : Part :=
  match rotationAt s.panel x with
  | some r =>
    if isRun s && s.panel.brightness != .dark && r.inUse then
      let s' := { s with panel := setRotation s.panel (advance s r) x }
      renderPanels (rotationPanels s' x) s'
    else s
  | none => s

/-- DWELL-EXPIRY (R137). -/
def execDwellExpiry (ctx : ContextId) (s : State) : Host.Outcome State Fault Refusal := carry (dwellEnds ctx) s

/-- The remaining times of notices run (R152). -/
def noticesRun (s : Part) : Bool := isRun s || s.supply.mode == .breakHold

/-- A notice expires: its slot empties and NOTICE_EXPIRED latches (R152). -/
def noticeExpires (l : NoticeLevel) (i : Nat) (s : Part) : Part :=
  if noticesRun s && ((slotAt s.panel l i).bind (·.remaining)).isSome then latch .noticeExpired (emptySlot l i s) else s

/-- NOTICE-EXPIRY (R152). -/
def execNoticeExpiry (level : NoticeLevel) (slot : Nat) (s : State) : Host.Outcome State Fault Refusal :=
  carry (noticeExpires level slot) s

/-- The stabling timer expires: DARK, and every panel rendered anew at the change (R154, R156). -/
def stablingEnds (s : Part) : Part :=
  if isRun s && s.panel.stabling.isSome then
    composer { all := s.panel.brightness != .dark } { s with panel := { s.panel with stabling := none, brightness := .dark } }
  else s

/-- STABLING-EXPIRY (R156). -/
def execStablingExpiry (s : State) : Host.Outcome State Fault Refusal := carry stablingEnds s

end Sys2Proof.Machine
end

