-- ==== Sys2Proof/Machine/CouplerSteps.lean ====
section
/-! DEFINITION. The unit-end inputs, the frames and times of the coupler line (section 5). Outside RUN the line is stopped:
frames and times do nothing, and a sense keeps its level for the return (R68, R92). -/
namespace Sys2Proof.Machine

/-- An effect of the coupler line, in RUN. -/
def inRun (f : Part → Part) (s : Part) : Part := if isRun s then f s else s

/-! ### Unit-end inputs (R68, R69) -/

/-- A raw COUPLED sense changes: a debounce time starts or is abandoned (R68). -/
def senseChanges (e : UnitEnd) (c : Bool) (s : Part) : Part :=
  if s.form.coupledRaw.get e == c then s
  else
    let t := if isRun s && s.form.coupled.get e != c then some (debounceMs s.host.params.debounce) else none
    onForm (fun f => { f with coupledRaw := f.coupledRaw.set e c, debounce := f.debounce.set e t }) s

/-- COUPLED-SENSE-CHANGE (R68). -/
def execCoupledSenseChange (e : UnitEnd) (coupled : Bool) (s : State) : Host.Outcome State Fault Refusal :=
  carry (senseChanges e coupled) s

/-- Both ends are UNCOUPLED. -/
def uncoupled (f : Formation) : Bool := !f.coupled.a && !f.coupled.b

/-- What a coupling event does by role (R78). -/
def couplingByRole (s : Part) : Part :=
  match s.form.role with
  | .leading => onForm (fun f => { f with rollPending := true }) s
  | .formingLeader => onForm (fun f => { f with rollAgain := true }) s
  | .following => if uncoupled s.form then separate s else onForm (queueItem .formationReq) s
  | .formingFollower => if uncoupled s.form then separate s else s
  | .isolated => if uncoupled s.form then separate s else s
  | .standalone => s

/-- The debounce time ends: the debounced state follows, the qualifying cab is evaluated, and the role acts (R68, R72, R78). -/
def couplingEvent (e : UnitEnd) (s : Part) : Part :=
  if isRun s && (s.form.debounce.get e).isSome then
    couplingByRole (evalQualEnd (onForm (fun f =>
      { f with coupled := f.coupled.set e (f.coupledRaw.get e), debounce := f.debounce.set e none }) s))
  else s

/-- COUPLING-EVENT (R68). -/
def execCouplingEvent (e : UnitEnd) (s : State) : Host.Outcome State Fault Refusal := carry (couplingEvent e) s

/-- A CAB-ACTIVE sense changes (R69). -/
def cabChanges (e : UnitEnd) (active : Bool) (s : Part) : Part :=
  inRun evalQualEnd (onForm (fun f => { f with cab := f.cab.set e active }) s)

/-- CAB-ACTIVE-CHANGE (R69). -/
def execCabActiveChange (e : UnitEnd) (active : Bool) (s : State) : Host.Outcome State Fault Refusal :=
  carry (cabChanges e active) s

/-! ### Roll calls (R79 to R81) -/

/-- The ROLL_ANSWER of the part with a front end (R80). -/
def ownAnswer (e : UnitEnd) (s : Part) : RollAnswerFrame :=
  { position := 2 + s.form.heardAnswers, unitId := s.unit.unitId, booked := bookedNumbers s.unit, portion := s.unit.portionTag
    route := routeInForce s.route, front := e }

/-- A waiting part senses ROLL: it answers, and drives ROLL out of its other end where that is COUPLED (R80). -/
def rollSensed (e : UnitEnd) (s : Part) : Part :=
  if s.form.role == .formingFollower && s.form.waiting then
    let drive : Ends Bool := Ends.set { a := false, b := false } e.other (s.form.coupled.get e.other)
    sendLine (.rollAnswer (ownAnswer e s)) (onForm (fun f => { f with waiting := false, rollFront := some e, drive := drive }) s)
  else s

/-- ROLL-SENSED (R80). -/
def execRollSensed (e : UnitEnd) (s : State) : Host.Outcome State Fault Refusal := carry (inRun (rollSensed e)) s

/-- The part may claim leadership (R71). -/
def mayClaim (f : Formation) : Bool := !leads f.role && f.qualEnd.isSome

/-- The claim: one BEACON at the current epoch, which ends the grant in force as any beacon does, then a roll call (R71, R76). -/
def claimLead (s : Part) : Part :=
  if mayClaim s.form then startRollCall (sendBeacon (changeRole .formingLeader s)) else s

/-- CLAIM (R71). -/
def execClaim (s : State) : Host.Outcome State Fault Refusal := carry (inRun claimLead) s

/-- A ROLL_CALL is heard: the part waits for ROLL (R80), after R73 where it leads. -/
def awaitRoll (s : Part) : Part :=
  restartLoss (onForm (fun f => { f with waiting := true, rollFront := none, heardAnswers := 0
                                         drive := { a := false, b := false } }) (changeRole .formingFollower s))

/-- A ROLL_CALL by role (R73, R80). -/
def hearRollCall (u : Nat) (s : Part) : Part :=
  if leads s.form.role then
    let s' := leaderConflict u s
    if s'.form.role == .formingFollower then awaitRoll s' else s'
  else awaitRoll s

/-- ROLL-CALL (R80). -/
def execRollCall (unitId _epoch : Nat) (s : State) : Host.Outcome State Fault Refusal := carry (inRun (hearRollCall unitId)) s

/-- A ROLL_ANSWER: collected by the leader, which closes at the second one; counted by a follower (R79, R80). -/
def hearAnswer (x : RollAnswerFrame) (s : Part) : Part :=
  match s.form.role, s.form.rollCall with
  | .formingLeader, some l =>
    let l' := collect x l
    if 2 ≤ l'.length then closeRollCall l' s else onForm (fun f => { f with rollCall := some l' }) s
  | .formingFollower, _ => onForm (fun f => { f with heardAnswers := f.heardAnswers + 1 }) s
  | _, _ => s

/-- ROLL-ANSWER (R79). -/
def execRollAnswer (f : RollAnswerFrame) (s : State) : Host.Outcome State Fault Refusal := carry (inRun (hearAnswer f)) s

/-- 50 ms without an answer close the roll call (R79). -/
def rollSilence (s : Part) : Part :=
  match s.form.role, s.form.rollCall with
  | .formingLeader, some l => closeRollCall l s
  | _, _ => s

/-- ROLL-ANSWER-SILENCE (R79). -/
def execRollAnswerSilence (s : State) : Host.Outcome State Fault Refusal := carry (inRun rollSilence) s

/-- The list index, from 1, at which a unit list names a unit. Where it names the unit twice the first entry counts: R81 speaks of
one entry, and this is the model's choice (log entry 75). -/
def indexOf (u : Nat) (units : List UnitEntry) : Option Nat := (units.findIdx? fun x => x.unitId == u).map (· + 1)

/-- A follower-side FORMING part acts on a FORMATION (R81). -/
def takeFormation (epoch : Nat) (units : List UnitEntry) (s : Part) : Part :=
  let s1 := onForm (fun f => { f with waiting := false, rollFront := none, heardAnswers := 0, drive := { a := false, b := false } }) s
  match indexOf s.unit.unitId units with
  | some i => restartLoss (takeRecord { epoch := epoch, units := units, ownIndex := i } .following s1)
  | none => latch .detached (separate s1)

/-- A FORMATION by role (R73, R81). -/
def hearFormation (leader epoch : Nat) (units : List UnitEntry) (s : Part) : Part :=
  if leads s.form.role then leaderConflict leader s
  else if s.form.role == .formingFollower then takeFormation epoch units s
  else s

/-- FORMATION (R81). -/
def execFormation (leader epoch : Nat) (units : List UnitEntry) (s : State) : Host.Outcome State Fault Refusal :=
  carry (inRun (hearFormation leader epoch units)) s

/-! ### The line cycle (R74 to R76) -/

/-- A cycle of a LEADING part: the roll call asked for, or the beacon and the request window (R74, R75, R78). The grant of the
cycle before ends with either (R76, log entry 31). -/
def lineCycle (s : Part) : Part :=
  if s.form.role == .leading then
    let s1 := onForm (fun f => { endGrant f with windowOpen := false, responses := [] }) s
    if s.form.rollPending then startRollCall s1 else onForm (fun f => { f with windowOpen := true }) (sendBeacon s1)
  else s

/-- LINE-CYCLE (R74). -/
def execLineCycle (s : State) : Host.Outcome State Fault Refusal := carry (inRun lineCycle) s

/-- The own turn: the part is granted, sends, and its RELEASE mark ends the grant (R76). -/
def ownTurn (s : Part) : Part := onForm (fun f => endGrant (beginGrant s.unit.unitId f)) (sendGranted s)

/-- The leader grants the line, to itself or to a follower (R76). -/
def grantTo (u : Nat) (s : Part) : Part :=
  let s1 := sendLine (.grant s.unit.unitId u s.form.cycleCount) s
  if u == s.unit.unitId then ownTurn s1 else onForm (beginGrant u) s1

/-- The window ends (R76). -/
def windowEnds (s : Part) : Part :=
  if s.form.role == .leading && s.form.windowOpen then
    let s1 := onForm (fun f => { f with windowOpen := false }) s
    match arbitrate (requests s1) with
    | some (u, _) => grantTo u s1
    | none => s1
  else s

/-- REQUEST-WINDOW-END (R76). -/
def execRequestWindowEnd (s : State) : Host.Outcome State Fault Refusal := carry (inRun windowEnds) s

/-- BEACON (R74). -/
def execBeacon (f : BeaconFrame) (s : State) : Host.Outcome State Fault Refusal := carry (inRun (hearBeacon f)) s

/-- A response of a listed unit in the open window, naming the cycle (R75). -/
def hearResponse (u cycle level : Nat) (s : Part) : Part :=
  if s.form.role == .leading && s.form.windowOpen && cycle == s.form.cycleCount && (listed s.form.record).contains u then
    heardUnit u (onForm (fun f => { f with responses := assocSet u level f.responses }) s)
  else s

/-- WINDOW-RESPONSE (R75). -/
def execWindowResponse (unitId cycle level : Nat) (s : State) : Host.Outcome State Fault Refusal :=
  carry (inRun (hearResponse unitId cycle level)) s

/-- A mark in the open slot asks the leader for a roll call (R75, R78). -/
def hearMark (s : Part) : Part :=
  if s.form.role == .leading && s.form.windowOpen then onForm (fun f => { f with rollPending := true }) s else s

/-- OPEN-SLOT-MARK (R75). -/
def execOpenSlotMark (s : State) : Host.Outcome State Fault Refusal := carry (inRun hearMark) s

/-- The own leader grants another unit: that unit's frames are taken from now on (R76). -/
def noteGrant (leader u : Nat) (s : Part) : Part :=
  if leader == leaderId s.form.record && u != s.unit.unitId then onForm (beginGrant u) s else s

/-- A GRANT of the own leader: the part's own turn, where it names the cycle of the last beacon heard (log entry 67), or
another's (R76). -/
def followGrant (leader u cycle : Nat) (s : Part) : Part :=
  if leader == leaderId s.form.record && u == s.unit.unitId && s.form.heardCycle == some cycle then ownTurn s
  else noteGrant leader u s

/-- A GRANT by role (R73, R76, R84). Every part but a STANDALONE one keeps account of the grants of its record's leader, a leading
part that yields or stands by R73 too; only a FOLLOWING one takes a turn (log entry 31). -/
def hearGrant (leader u cycle : Nat) (s : Part) : Part :=
  match s.form.role with
  | .following => followGrant leader u cycle s
  | .formingFollower => restartLoss (noteGrant leader u s)
  | .leading => leaderConflict leader (noteGrant leader u s)
  | .formingLeader => leaderConflict leader (noteGrant leader u s)
  | .standalone => s
  | .isolated => noteGrant leader u s

/-- GRANT (R76). -/
def execGrant (leader unitId cycle : Nat) (s : State) : Host.Outcome State Fault Refusal :=
  carry (inRun (hearGrant leader unitId cycle)) s

/-- RELEASE-MARK: the grant ends (R76). -/
def execReleaseMark (s : State) : Host.Outcome State Fault Refusal := carry (inRun (onForm endGrant)) s

/-! ### Data frames (R78, R88 to R90) -/

/-- A FORMATION_REQ of a listed follower (R78). -/
def hearFormationReq (u epoch : Nat) (s : Part) : Part :=
  if s.form.role == .leading && frameTaken s u epoch && (listed s.form.record).contains u then
    heardUnit u (onForm (fun f => { f with rollPending := true }) s)
  else s

/-- FORMATION-REQ (R78). -/
def execFormationReq (unitId epoch : Nat) (s : State) : Host.Outcome State Fault Refusal :=
  carry (inRun (hearFormationReq unitId epoch)) s

/-- The NOTICE_FWD is for this part: its role, and its unit id among the destinations (R88). -/
def fwdForUs (f : NoticeFwdFrame) (s : Part) : Bool :=
  (s.form.role == .following || s.form.role == .leading) && f.dests.contains s.unit.unitId

/-- A NOTICE_FWD: the notice is placed or cleared, and the answer queued (R88). -/
def hearNoticeFwd (f : NoticeFwdFrame) (s : Part) : Part :=
  if frameTaken s f.origin f.epoch then
    let s0 := heardUnit f.origin s
    if fwdForUs f s0 then
      let r := receiveNotice f s0
      onForm (queueItem (.noticeAns f.origin f.noticeId f.number (!r.2))) r.1
    else s0
  else s

/-- NOTICE-FWD (R88). -/
def execNoticeFwd (f : NoticeFwdFrame) (s : State) : Host.Outcome State Fault Refusal := carry (inRun (hearNoticeFwd f)) s

/-- An answer matches a SENT entry (R89). -/
def matchesForward (f : NoticeAnsFrame) (e : Forward) : Bool := e.number == some f.number && e.awaited.contains f.unitId

/-- The entry after an answer; the full set, which R89 gives no order, keeps its units as their answers arrived (log entry
71). -/
def answered (f : NoticeAnsFrame) (e : Forward) : Forward :=
  { e with awaited := e.awaited.erase f.unitId, full := if f.full then e.full ++ [f.unitId] else e.full }

/-- The detail of a PARTIAL (R192); the order of its unit ids is log entry 71. -/
def fullDetail (units : List Nat) : List Byte := eList e2 units

/-- An entry whose last answer arrived ends: OK, or PARTIAL naming the full units (R89). -/
def completeForward (e : Forward) (s : Part) : Part :=
  if e.full.isEmpty then endForward e.tag .ok [] s else endForward e.tag .part (fullDetail e.full) s

/-- A NOTICE_ANS addressed to the own unit (R89). Where it matches a SENT entry and a pair of the late-answer set as well, after a
wrap of the forward number, it serves the entry and the pair stands: R89 does not say which, and this is the model's choice (log
entry 82). -/
def matchAnswer (f : NoticeAnsFrame) (s : Part) : Part :=
  match s.form.forwards.find? (matchesForward f) with
  | some e =>
    let e' := answered f e
    let s' := onForm (fun g => { g with forwards := g.forwards.map fun x => if x.tag == e.tag then e' else x }) s
    if e'.awaited.isEmpty then completeForward e' s' else s'
  | none => onForm (fun g => { g with late := g.late.filter fun x => x != (f.number, f.unitId) }) s

/-- A NOTICE_ANS heard (R89). -/
def hearNoticeAns (f : NoticeAnsFrame) (s : Part) : Part :=
  if frameTaken s f.unitId f.epoch then
    let s0 := heardUnit f.unitId s
    if f.origin == s0.unit.unitId then matchAnswer f s0 else s0
  else s

/-- NOTICE-ANS (R89). -/
def execNoticeAns (f : NoticeAnsFrame) (s : State) : Host.Outcome State Fault Refusal := carry (inRun (hearNoticeAns f)) s

/-- A TALLY frame of a unit listed in the formation in force (R90). -/
def hearTally (f : TallyFrame) (s : Part) : Part :=
  if frameTaken s f.unitId f.epoch then
    let s0 := heardUnit f.unitId s
    if (otherUnits s0).any fun u => u.unitId == f.unitId then takeTally f s0 else s0
  else s

/-- TALLY (R90). -/
def execTally (f : TallyFrame) (s : State) : Host.Outcome State Fault Refusal := carry (inRun (hearTally f)) s

/-! ### Times of the coupler line (R77, R84, R85, R89, R91) -/

/-- The beacon loss time expires (R84). -/
def lossExpires (s : Part) : Part :=
  if s.form.beaconLoss.isSome then
    if s.form.role == .following || s.form.role == .formingFollower then isolate s
    else onForm (fun f => { f with beaconLoss := none }) s
  else s

/-- BEACON-LOSS (R84). -/
def execBeaconLoss (s : State) : Host.Outcome State Fault Refusal := carry (inRun lossExpires) s

/-- A listed unit's absence time expires: the leader starts a roll call at the end of the cycle (R78, R85). -/
def absenceExpires (u : Nat) (s : Part) : Part :=
  if s.form.role == .leading && s.form.absence.any fun x => x.1 == u then
    onForm (fun f => { f with rollPending := true, absence := f.absence.filter fun x => x.1 != u }) s
  else s

/-- ABSENCE-TIME-EXPIRY (R85). -/
def execAbsenceTimeExpiry (unitId : Nat) (s : State) : Host.Outcome State Fault Refusal := carry (inRun (absenceExpires unitId)) s

/-- The pairs still awaited join the late-answer set (R89). -/
def lateAfter (n : Nat) (awaited : List Nat) (late : List (Nat × Nat)) : List (Nat × Nat) :=
  awaited.foldl (fun l u => addLate l (n, u)) late

/-- A forward's answer time expires (R89). -/
def answerExpires (n : Nat) (s : Part) : Part :=
  match s.form.forwards.find? fun e => e.number == some n with
  | some e =>
    latch .linkTimeout (onForm (fun f => { f with late := lateAfter n e.awaited f.late }) (endForward e.tag .linkFailed [] s))
  | none => s

/-- ANSWER-TIME-EXPIRY (R89). -/
def execAnswerTimeExpiry (number : Nat) (s : State) : Host.Outcome State Fault Refusal := carry (inRun (answerExpires number)) s

/-- A TALLY is queued, where none is (R77, R91; log entry 59). -/
def queueTally (f : Formation) : Formation := if f.queue.contains .tally then f else queueItem .tally f

/-- The spacing time ends: a pending change queues its TALLY, and the time starts again (R91). -/
def spacingExpires (s : Part) : Part :=
  if s.form.spacing then
    if s.form.tallyPending then onForm (fun f => { queueTally f with spacing := true, tallyPending := false }) s
    else onForm (fun f => { f with spacing := false }) s
  else s

/-- SPACING-TIME-EXPIRY (R91). -/
def execSpacingTimeExpiry (s : State) : Host.Outcome State Fault Refusal := carry (inRun spacingExpires) s

/-- The oldest item of the line queue is withdrawn (R77). -/
def withdraw (s : Part) : Part :=
  match s.form.queue with
  | [] => s
  | .noticeFwd tag :: t => latch .arbTimeout (endForward tag .linkFailed [] (onForm (fun f => { f with queue := t }) s))
  | _ :: t => latch .arbTimeout (onForm (fun f => { f with queue := t }) s)

/-- LINE-QUEUE-WITHDRAWAL (R77). -/
def execLineQueueWithdrawal (s : State) : Host.Outcome State Fault Refusal := carry (inRun withdraw) s

end Sys2Proof.Machine
end

