-- ==== Sys2Proof/Machine/DisplaySteps.lean ====
section
/-! DEFINITION. What arrives on the display line, and its times (R158, R163, R165, R168). -/
namespace Sys2Proof.Machine

/-- An ACK ends the transfer in flight to its address; any other is discarded (R158, R163). -/
def ackArrives (a : EpAddr) (w : Nat) (s : Part) : Part :=
  match s.disp.inFlight with
  | some (.transfer v, b) => if a == b then ackTransfer a v w s else s
  | _ => s

/-- ACK (R163). -/
def execAck (addr : EpAddr) (version : Nat) (s : State) : Host.Outcome State Fault Refusal :=
  carry (inRun (ackArrives addr version)) s

/-- A POLL_REPLY ends the poll or probe in flight to its address; any other is discarded (R158, R165, R168). -/
def replyArrives (a : EpAddr) (held : Option Nat) (x : PollStatus) (s : Part) : Part :=
  match s.disp.inFlight with
  | some (.poll, b) => if a == b then pollAnswered a held x s else s
  | some (.probe, b) => if a == b then probeAnswered a x s else s
  | _ => s

/-- POLL-REPLY (R165). -/
def execPollReply (addr : EpAddr) (held : Option Nat) (status : PollStatus) (s : State) : Host.Outcome State Fault Refusal :=
  carry (inRun (replyArrives addr held status)) s

/-- REPLY-WINDOW-EXPIRY (R158). -/
def execReplyWindowExpiry (s : State) : Host.Outcome State Fault Refusal := carry (inRun windowExpired) s

/-- The entry's probe time runs. -/
def probeRuns (e : EpEntry) : Bool := !e.present && e.probeTime.isSome && !e.probeDue

/-- The endpoints that fall due with one whose probe time ends: with a time that has counted down to 0, all whose times have,
in address order; else the one alone (R168, log entry 60). -/
def dueWith (d : Display) (x : EpEntry) : List EpAddr :=
  if x.probeTime == some 0 then ((d.table.filter fun e => probeRuns e && e.probeTime == some 0).map (·.addr)) else [x.addr]

/-- An entry whose probe falls due. -/
def probeDueEntry (e : EpEntry) : EpEntry := { e with probeDue := true, probeTime := some 0 }

/-- Endpoints fall due: they join the tail of the probe list (R168). -/
def fallDue (l : List EpAddr) (d : Display) : Display :=
  { d with table := d.table.map fun e => if l.contains e.addr then probeDueEntry e else e, probes := d.probes ++ l }

/-- A probe time ends (R168). -/
def probeFallsDue (a : EpAddr) (s : Part) : Part :=
  match epAt s.disp a with
  | some x => if probeRuns x then onDisp (fallDue (dueWith s.disp x)) s else s
  | none => s

/-- PROBE-TIME-EXPIRY (R168). -/
def execProbeTimeExpiry (addr : EpAddr) (s : State) : Host.Outcome State Fault Refusal := carry (inRun (probeFallsDue addr)) s

end Sys2Proof.Machine
end

