-- ==== Sys2Proof/Machine/Dispatch.lean ====
section
/-! DEFINITION. The meaning of every command: one arm per constructor. -/
namespace Sys2Proof.Machine

/-- The effect of a command on everything but the queue of waiting commands. -/
def exec (i : Instr) (s : State) : Host.Outcome State Fault Refusal :=
  match i with
  | .configSet tag body => Sys2Proof.Machine.execConfigSet tag body s
  | .configGet tag body => Sys2Proof.Machine.execConfigGet tag body s
  | .unitSetup tag body => Sys2Proof.Machine.execUnitSetup tag body s
  | .coachNumbers tag body => Sys2Proof.Machine.execCoachNumbers tag body s
  | .portionSet tag body => Sys2Proof.Machine.execPortionSet tag body s
  | .textPut tag body => Sys2Proof.Machine.execTextPut tag body s
  | .textDrop tag body => Sys2Proof.Machine.execTextDrop tag body s
  | .routeOpen tag body => Sys2Proof.Machine.execRouteOpen tag body s
  | .stopPut tag body => Sys2Proof.Machine.execStopPut tag body s
  | .routeClose tag body => Sys2Proof.Machine.execRouteClose tag body s
  | .routeClear tag body => Sys2Proof.Machine.execRouteClear tag body s
  | .stopAmend tag body => Sys2Proof.Machine.execStopAmend tag body s
  | .time tag body => Sys2Proof.Machine.execTime tag body s
  | .departed tag body => Sys2Proof.Machine.execDeparted tag body s
  | .position tag body => Sys2Proof.Machine.execPosition tag body s
  | .arrived tag body => Sys2Proof.Machine.execArrived tag body s
  | .legAdd tag body => Sys2Proof.Machine.execLegAdd tag body s
  | .legCancel tag body => Sys2Proof.Machine.execLegCancel tag body s
  | .legRestore tag body => Sys2Proof.Machine.execLegRestore tag body s
  | .seatQuery tag body => Sys2Proof.Machine.execSeatQuery tag body s
  | .tallyQuery tag body => Sys2Proof.Machine.execTallyQuery tag body s
  | .noticeRaise tag body => Sys2Proof.Machine.execNoticeRaise tag body s
  | .noticeClear tag body => Sys2Proof.Machine.execNoticeClear tag body s
  | .levelQuery tag body => Sys2Proof.Machine.execLevelQuery tag body s
  | .statusQuery tag body => Sys2Proof.Machine.execStatusQuery tag body s
  | .endpointQuery tag body => Sys2Proof.Machine.execEndpointQuery tag body s
  | .eventClear tag body => Sys2Proof.Machine.execEventClear tag body s
  | .restart tag body => Sys2Proof.Machine.execRestart tag body s
  | .unknownKindFrame kind tag body => Sys2Proof.Machine.execUnknownKindFrame kind tag body s
  | .frameGapTimeout => Sys2Proof.Machine.execFrameGapTimeout s
  | .frameSent => Sys2Proof.Machine.execFrameSent s
  | .mainLevelFall mv => Sys2Proof.Machine.execMainLevelFall mv s
  | .mainLevelRise mv => Sys2Proof.Machine.execMainLevelRise mv s
  | .mainBreak => Sys2Proof.Machine.execMainBreak s
  | .mainReturn retentionMv => Sys2Proof.Machine.execMainReturn retentionMv s
  | .retentionLow => Sys2Proof.Machine.execRetentionLow s
  | .retentionOk => Sys2Proof.Machine.execRetentionOk s
  | .holdTimeExpiry => Sys2Proof.Machine.execHoldTimeExpiry s
  | .extendedHoldExpiry => Sys2Proof.Machine.execExtendedHoldExpiry s
  | .clearingEnd => Sys2Proof.Machine.execClearingEnd s
  | .resetAssert => Sys2Proof.Machine.execResetAssert s
  | .resetRelease => Sys2Proof.Machine.execResetRelease s
  | .settleLimitReached => Sys2Proof.Machine.execSettleLimitReached s
  | .clockTick => Sys2Proof.Machine.execClockTick s
  | .claimDeadline legId => Sys2Proof.Machine.execClaimDeadline legId s
  | .coupledSenseChange e coupled => Sys2Proof.Machine.execCoupledSenseChange e coupled s
  | .couplingEvent e => Sys2Proof.Machine.execCouplingEvent e s
  | .cabActiveChange e active => Sys2Proof.Machine.execCabActiveChange e active s
  | .rollSensed e => Sys2Proof.Machine.execRollSensed e s
  | .claim => Sys2Proof.Machine.execClaim s
  | .lineCycle => Sys2Proof.Machine.execLineCycle s
  | .requestWindowEnd => Sys2Proof.Machine.execRequestWindowEnd s
  | .beacon f => Sys2Proof.Machine.execBeacon f s
  | .windowResponse unitId cycle level => Sys2Proof.Machine.execWindowResponse unitId cycle level s
  | .openSlotMark => Sys2Proof.Machine.execOpenSlotMark s
  | .grant leader unitId cycle => Sys2Proof.Machine.execGrant leader unitId cycle s
  | .releaseMark => Sys2Proof.Machine.execReleaseMark s
  | .rollCall unitId epoch => Sys2Proof.Machine.execRollCall unitId epoch s
  | .rollAnswer f => Sys2Proof.Machine.execRollAnswer f s
  | .rollAnswerSilence => Sys2Proof.Machine.execRollAnswerSilence s
  | .formation leader epoch units => Sys2Proof.Machine.execFormation leader epoch units s
  | .formationReq unitId epoch => Sys2Proof.Machine.execFormationReq unitId epoch s
  | .noticeFwd f => Sys2Proof.Machine.execNoticeFwd f s
  | .noticeAns f => Sys2Proof.Machine.execNoticeAns f s
  | .tally f => Sys2Proof.Machine.execTally f s
  | .beaconLoss => Sys2Proof.Machine.execBeaconLoss s
  | .absenceTimeExpiry unitId => Sys2Proof.Machine.execAbsenceTimeExpiry unitId s
  | .answerTimeExpiry number => Sys2Proof.Machine.execAnswerTimeExpiry number s
  | .spacingTimeExpiry => Sys2Proof.Machine.execSpacingTimeExpiry s
  | .lineQueueWithdrawal => Sys2Proof.Machine.execLineQueueWithdrawal s
  | .ack addr version => Sys2Proof.Machine.execAck addr version s
  | .pollReply addr held status => Sys2Proof.Machine.execPollReply addr held status s
  | .replyWindowExpiry => Sys2Proof.Machine.execReplyWindowExpiry s
  | .probeTimeExpiry addr => Sys2Proof.Machine.execProbeTimeExpiry addr s
  | .evidenceAgeExpiry coach seat => Sys2Proof.Machine.execEvidenceAgeExpiry coach seat s
  | .dwellExpiry ctx => Sys2Proof.Machine.execDwellExpiry ctx s
  | .noticeExpiry level slot => Sys2Proof.Machine.execNoticeExpiry level slot s
  | .stablingExpiry => Sys2Proof.Machine.execStablingExpiry s
  | .frameStartByte rest => Sys2Proof.Machine.execFrameStartByte s rest
  | .frameLengthError length => Sys2Proof.Machine.execFrameLengthError length s
  | .frameCrcError kind tag body crc => Sys2Proof.Machine.execFrameCrcError kind tag body crc s

end Sys2Proof.Machine
end

