-- ==== Sys2Proof/Safety.lean ====
section
/-! DEFINITION. The terms the statements use: which requests the request stage lets through, what an answer is, which
parts of the state a command leaves alone, how the display line goes on, what a reading makes of a sensor record, and the
invariants of the part. -/
namespace Sys2Proof.Machine

/-! ### Requests and answers -/

/-- The request stage hands a request of a tag to its owner: the part is in RUN, an in-flight place is free and no entry
carries the tag (R191). -/
def Accepts (s : State) (tag : Byte) : Prop :=
  s.part.supply.mode = .run ∧ s.part.host.inFlight.length < 4 ∧ ∀ e ∈ s.part.host.inFlight, e.tag ≠ tag

/-- The request was answered by its owner: its in-flight entry is SENDING, and its reply waits in the send queue or is on
the line (R191, R192). -/
def Answered (s t : State) (kind tag : Byte) (r : Result) (detail : List Byte) : Prop :=
  t.part.host.inFlight = s.part.host.inFlight ++ [{ tag := tag, kind := kind, phase := .sending }] ∧
    (QFrame.reply tag kind r detail ∈ t.part.host.queue ∨
      t.part.host.sending = some { kind := kind + 0x80#8, tag := tag, body := [byte r.code, 1#8] ++ detail, entry := some tag })

/-- The request waits for a later event: its in-flight entry is WAITING (R191). -/
def Waits (s t : State) (kind tag : Byte) : Prop :=
  t.part.host.inFlight = s.part.host.inFlight ++ [{ tag := tag, kind := kind, phase := .waiting }]

/-- The request stage refused: no entry is made, and a refusal reply waits in the send queue or is on the line (R190, R191). -/
def RefusedAtStage (s t : State) (kind tag : Byte) (r : Result) : Prop :=
  t.part.host.inFlight = s.part.host.inFlight ∧
    (QFrame.refusal tag kind r ∈ t.part.host.queue ∨
      t.part.host.sending = some { kind := replyKind kind, tag := tag, body := [byte r.code, 0#8], entry := none })

/-- An owner answered a request that waited: the entries of its tag are SENDING, and its reply waits in the send queue or is
on the line (R89, R191). -/
def AnsweredLater (s t : State) (tag : Byte) (r : Result) (detail : List Byte) : Prop :=
  ∀ x, (s.part.host.inFlight.find? fun e => e.tag == tag) = some x →
    t.part.host.inFlight = (s.part.host.inFlight.map fun e => if e.tag = tag then { e with phase := .sending } else e) ∧
    (QFrame.reply tag x.kind r detail ∈ t.part.host.queue ∨
      t.part.host.sending = some { kind := replyKind x.kind, tag := tag, body := [byte r.code, 1#8] ++ detail
                                   entry := some tag })

/-- The kind byte, tag and body of a frame that is a request (R194). -/
def request : Instr → Option (Byte × Byte × List Byte)
  | .configSet t b => some (0x01#8, t, b)
  | .configGet t b => some (0x02#8, t, b)
  | .unitSetup t b => some (0x03#8, t, b)
  | .coachNumbers t b => some (0x04#8, t, b)
  | .portionSet t b => some (0x05#8, t, b)
  | .textPut t b => some (0x06#8, t, b)
  | .textDrop t b => some (0x07#8, t, b)
  | .routeOpen t b => some (0x08#8, t, b)
  | .stopPut t b => some (0x09#8, t, b)
  | .routeClose t b => some (0x0A#8, t, b)
  | .routeClear t b => some (0x0B#8, t, b)
  | .stopAmend t b => some (0x0C#8, t, b)
  | .time t b => some (0x0D#8, t, b)
  | .departed t b => some (0x0E#8, t, b)
  | .arrived t b => some (0x0F#8, t, b)
  | .position t b => some (0x10#8, t, b)
  | .legAdd t b => some (0x11#8, t, b)
  | .legCancel t b => some (0x12#8, t, b)
  | .legRestore t b => some (0x13#8, t, b)
  | .seatQuery t b => some (0x14#8, t, b)
  | .tallyQuery t b => some (0x15#8, t, b)
  | .noticeRaise t b => some (0x16#8, t, b)
  | .noticeClear t b => some (0x17#8, t, b)
  | .levelQuery t b => some (0x18#8, t, b)
  | .statusQuery t b => some (0x19#8, t, b)
  | .endpointQuery t b => some (0x1A#8, t, b)
  | .eventClear t b => some (0x1B#8, t, b)
  | .restart t b => some (0x1C#8, t, b)
  | .unknownKindFrame k t b => some (k, t, b)
  | _ => none

/-- The length of a body fits its kind (the table of R194, the layouts of R195): counted fields fix it by their count. -/
def fitsKind (kind : Byte) (body : List Byte) : Bool :=
  let n := body.length
  let counted (i : Nat) : Nat := ((body[i]?).map (·.toNat)).getD 0
  match kind.toNat with
  | 0x03 => 7 ≤ n && (n - 7) % 3 == 0 && n ≤ 295
  | 0x04 => n == 1 + counted 0
  | 0x06 => n == 3 + counted 2 && 3 ≤ n
  | 0x09 => n == 18 + 5 * counted 17 && 18 ≤ n
  | 0x16 => n == 9 + counted 5
  | 0x01 => n == 3
  | 0x08 => n == 3
  | 0x0C => n == 11
  | 0x0D => n == 4
  | 0x10 => n == 4
  | 0x1A => n == 4
  | 0x0E => n == 5
  | 0x0F => n == 5
  | 0x11 => n == 7
  | 0x12 => n == 2
  | 0x13 => n == 2
  | 0x14 => n == 2
  | 0x17 => n == 2
  | 0x1B => n == 2
  | 0x02 => n == 1
  | 0x05 => n == 1
  | 0x07 => n == 1
  | _ => n == 0

/-! ### Frames: what a command leaves alone -/

/-- The pieces of the state that a frame statement names. -/
inductive Block where
  /-- The Unit Description. -/
  | unit
  /-- The Text Store. -/
  | text
  /-- Route and Progress, but for the source of progress. -/
  | route
  /-- The source of progress. -/
  | source
  /-- The estimate list. -/
  | est
  /-- The Formation Controller, but for its tallies and the pacing of TALLY frames. -/
  | form
  /-- The train tally table, the TALLY items of the line queue, the spacing time and the pending mark. -/
  | tallies
  /-- The leg records with the release and orphan counts. -/
  | legs
  /-- The free horizons and display states of the seats. -/
  | views
  /-- The sensor records. -/
  | sensors
  /-- The own tally and the seat summary. -/
  | seat
  /-- The Panel Composer. -/
  | panel
  /-- The endpoint table, and the line while an operation is in flight. -/
  | disp
  /-- The Supply Monitor. -/
  | supply
  /-- Receiver and in-flight table, and the send queue while a frame is on the line. -/
  | host
  /-- The event latch set. -/
  | events
  /-- The configuration parameters. -/
  | params
  /-- Frames sent on the coupler line: none. -/
  | line
deriving DecidableEq, Repr

/-- The items of a line queue other than TALLY. -/
def otherItems (q : List LineItem) : List LineItem := q.filter (· != .tally)

/-- A piece of the state is as it was. Where a line is free, the end of a step lets it begin its next frame or operation
(log entry 10): that much `disp` and `host` allow. -/
def Block.same (x y : Part) : Block → Prop
  | .unit => y.unit = x.unit
  | .text => y.text = x.text
  | .route => y.route = { x.route with prog := { x.route.prog with source := y.route.prog.source } }
  | .source => y.route.prog.source = x.route.prog.source
  | .est => y.est = x.est
  | .form => otherItems y.form.queue = otherItems x.form.queue ∧
      y.form = { x.form with trainTally := y.form.trainTally, queue := y.form.queue, spacing := y.form.spacing
                             tallyPending := y.form.tallyPending }
  | .tallies => y.form.trainTally = x.form.trainTally ∧ y.form.spacing = x.form.spacing ∧
      y.form.tallyPending = x.form.tallyPending ∧ (LineItem.tally ∈ y.form.queue ↔ LineItem.tally ∈ x.form.queue)
  | .legs => y.res.legs = x.res.legs ∧ y.res.releaseCount = x.res.releaseCount ∧ y.res.orphanCount = x.res.orphanCount
  | .views => y.res.views = x.res.views
  | .sensors => y.seat.sensors = x.seat.sensors
  | .seat => y.seat = { x.seat with sensors := y.seat.sensors }
  | .panel => y.panel = x.panel
  | .disp => y.disp.table = x.disp.table ∧ (x.disp.inFlight.isSome → y.disp = x.disp)
  | .supply => y.supply = x.supply
  | .host => y.host.receiver = x.host.receiver ∧ y.host.buffer = x.host.buffer ∧ y.host.inFlight = x.host.inFlight ∧
      (x.host.sending.isSome → y.host.queue = x.host.queue ∧ y.host.sending = x.host.sending)
  | .events => y.host.latched = x.host.latched
  | .params => y.host.params = x.host.params
  | .line => y.out.line = []

/-- A command changes nothing but the pieces named, and no command that waits. -/
def Only (changed : List Block) (s t : State) : Prop :=
  t.pending = s.pending ∧ ∀ b, b ∉ changed → b.same s.part t.part

/-! ### The lines -/

/-- The own unit's entry of a unit list (R83), its orientation that of the qualifying end (R70). -/
def ownEntryNow (s : Part) : UnitEntry :=
  { unitId := s.unit.unitId, booked := s.unit.coaches.map (·.booked), portion := s.unit.portionTag, route := routeInForce s.route
    orientation := match s.form.qualEnd with
      | some .a => .forward
      | some .b => .reversed
      | none => .unknown }

/-- The formation record of `t` is that of `s` with the own entry rewritten by `g`, every other entry and field as it was; while
STANDALONE it is the own unit alone, as it is in `t` (R83). -/
def OwnEntryRewritten (g : UnitEntry → UnitEntry) (s t : Part) : Prop :=
  let r := s.form.record
  t.form.record =
    if s.form.role = .standalone then { epoch := r.epoch, units := [ownEntryNow t], ownIndex := 1 }
    else { r with units := r.units.zipIdx.map fun x => if x.2 = r.ownIndex - 1 then g x.1 else x.1 }

/-- A change of the route id in force from `s` to `t` is written into the own entry, and the record stands without one (R83). -/
def RouteIdWritten (s t : Part) : Prop :=
  if routeInForce s.route = routeInForce t.route then t.form.record = s.form.record
  else OwnEntryRewritten (fun u => { u with route := routeInForce t.route }) s t

/-- The beacon that a part sends with a cycle count (R74). -/
def beaconOf (s : Part) (cycle : Nat) : BeaconFrame :=
  { leader := s.unit.unitId, epoch := s.form.record.epoch, cycle := cycle, clock := s.route.clock, clockSet := s.route.clockSet
    route := routeInForce s.route
    snap := { state := s.route.prog.state, p := s.route.prog.p, n := s.route.prog.n, halt := s.route.prog.halt
              d := s.route.prog.d, arr := s.route.prog.arr, dep := s.route.prog.dep, stale := s.route.prog.stale } }

/-- A roll call closed with some answers: FORMATION sent, the next epoch's record taken, forwards and late answers ended, a
TALLY queued where another unit is listed, and the part leads, or calls again where a coupling event asked for it (R78, R79,
R81). -/
def RollCallClosed (s t : State) (answers : List RollAnswerFrame) : Prop :=
  let units := ownEntryNow s.part :: answers.map fun f =>
    { unitId := f.unitId, orientation := if f.front = .a then .forward else .reversed, booked := f.booked
      portion := f.portion, route := f.route }
  let epoch := (s.part.form.record.epoch + 1) % 256
  t.part.form.record = { epoch := epoch, units := units, ownIndex := 1 } ∧
    t.part.out.line.head? = some (.formation s.part.unit.unitId epoch units) ∧
    t.part.host.latched.getLsbD 1 = true ∧ t.part.form.forwards = [] ∧ t.part.form.late = [] ∧
    t.part.form.queue = (if answers = [] then [] else [.tally]) ∧
    (s.part.form.rollAgain = false → t.part.form.role = .leading ∧ t.part.form.rollCall = none ∧
      t.part.form.drive = { a := false, b := false } ∧
      t.part.form.absence = answers.map fun f => (f.unitId, s.part.host.params.holdLimit)) ∧
    (s.part.form.rollAgain = true → s.part.form.qualEnd ≠ none →
      t.part.form.role = .formingLeader ∧ t.part.form.rollCall = some [])

/-- The units whose grant has ended once the grant in force has ended too (R76; log entry 31). -/
def endedThen (f : Formation) : List Nat :=
  match f.grant with
  | some u => if u ∈ f.ended then f.ended else f.ended ++ [u]
  | none => f.ended

/-- What a granted part sends for some items of its line queue, with the forward number last assigned and the forwards that
result: one frame for each item in order, each NOTICE_FWD with the next forward number, its entry then SENT and awaiting its
destinations (R76, R87, R88, R91). -/
def turnSent (s : Part) : List LineItem → Nat → List Forward → List LineFrame × Nat × List Forward
  | [], n, fs => ([], n, fs)
  | .noticeFwd tag :: q, n, fs =>
    match fs.find? fun y => y.tag == tag with
    | some e =>
      let k := (n + 1) % 256
      let r := turnSent s q k (fs.map fun y => if y.tag = tag then { y with number := some k, awaited := y.dests } else y)
      (.noticeFwd {
        origin := s.unit.unitId, noticeId := e.noticeId, number := k, epoch := s.form.record.epoch, dests := e.dests
        body := match e.raise with
          | some x => .raise x.level x.subPriority x.targets x.duration (frameText s.text x.handle)
          | none => .clear } :: r.1, r.2)
    | none => turnSent s q n fs
  | .noticeAns o i k full :: q, n, fs =>
    let r := turnSent s q n fs
    (.noticeAns { origin := o, noticeId := i, number := k, epoch := s.form.record.epoch, unitId := s.unit.unitId
                  full := full } :: r.1, r.2)
  | .formationReq :: q, n, fs =>
    let r := turnSent s q n fs
    (.formationReq s.unit.unitId s.form.record.epoch :: r.1, r.2)
  | .tally :: q, n, fs =>
    let r := turnSent s q n fs
    (.tally { unitId := s.unit.unitId, epoch := s.form.record.epoch, portion := s.unit.portionTag
              route := routeInForce s.route
              coaches := s.unit.coaches.zipIdx.map fun x =>
                { position := (ownPosition s x.2).getD 0, booked := x.1.booked
                  freeEnd := ((s.seat.counts[x.2]?).getD (0, 0)).1
                  freeDivide := ((s.seat.counts[x.2]?).getD (0, 0)).2 } } :: r.1, r.2)

/-- The refresh queue `q`, from which the driver may just have taken the head (R162, R166). -/
def QueueBegun (q : List EpAddr) (t : Part) : Prop :=
  t.disp.queue = q ∨ ∃ b, q = b :: t.disp.queue ∧ ((∃ v, t.disp.inFlight = some (.transfer v, b)) ∨ epAt t.disp b = none)

/-- The arbiter's turn over a line that has become free, from the driver `d` to the driver `t`: where the refresh queue and a
poll are both ready the kind that was not served last, else the kind that is ready; a poll turn goes to the head of the probe
list, else to the first PRESENT endpoint after the mark in address order, or the first of all where none lies after it (R164,
R166, R168). -/
def LineBegun (d t : Display) : Prop :=
  let present := d.table.filter (·.present)
  (∀ a q e, d.queue = a :: q → (d.probes = [] ∧ present = []) ∨ d.lastTransfer = false → epAt d a = some e →
    t = { d with queue := q, inFlight := some (.transfer e.content, a), lastTransfer := true }) ∧
  (d.queue = [] ∨ d.lastTransfer = true →
    (∀ a q, d.probes = a :: q → t = { d with probes := q, inFlight := some (.probe, a), lastTransfer := false }) ∧
    (d.probes = [] → present ≠ [] → ∃ i e, present[i]? = some e ∧
      t = { d with mark := some e.addr, inFlight := some (.poll, e.addr), lastTransfer := false } ∧
      match d.mark with
      | none => i = 0
      | some m => (addrLt m e.addr = true ∧ ∀ x ∈ present.take i, addrLt m x.addr = false) ∨
          (i = 0 ∧ ∀ x ∈ present, addrLt m x.addr = false))) ∧
  (d.queue = [] → d.probes = [] → present = [] → t = d)

/-- The frame sent for the operation in flight, and no other (R162, R164, R168). -/
def SentFor (t : Part) : Prop :=
  match t.disp.inFlight with
  | none => t.out.disp = []
  | some (.transfer v, a) => ∀ e, epAt t.disp a = some e → t.out.disp = [.transfer a v (transferContent t e)]
  | some (_, a) => t.out.disp = [.poll a]

/-- The table of R121: a seat's record after a reading of a level, by the thresholds and the vacate hold. -/
def afterReading (q : Params) (level : Nat) (x : Sensor) : Sensor :=
  match x.occupied, decide (q.onThreshold ≤ level), decide (level ≤ q.offThreshold) with
  | false, true, _ => { occupied := decide (2 ≤ x.run + 1), run := if 2 ≤ x.run + 1 then 0 else x.run + 1
                        age := some 0, frozen := x.frozen }
  | false, false, _ => { occupied := false, run := 0, age := some 0, frozen := x.frozen }
  | true, _, true => { occupied := decide (x.run + 1 < q.vacateHold + 1), frozen := x.frozen, age := some 0
                       run := if x.run + 1 < q.vacateHold + 1 then x.run + 1 else 0 }
  | true, _, false => { occupied := true, run := 0, age := some 0, frozen := x.frozen }

/-- Received bytes that end no frame: the length field is not complete, or it is at most 1,024 and the frame of its length is
not (R188, R189). -/
def EndsNoFrame (bs : List Byte) : Prop :=
  bs.length < 3 ∨ (256 * (bs[1]?.getD 0#8).toNat + (bs[2]?.getD 0#8).toNat ≤ 1024 ∧
    bs.length < 256 * (bs[1]?.getD 0#8).toNat + (bs[2]?.getD 0#8).toNat + 7)

/-- With a frame on the line, neither the send queue nor that frame changed: nothing is answered. -/
def Unanswered (s t : State) : Prop :=
  s.part.host.sending.isSome = true → t.part.host.queue = s.part.host.queue ∧ t.part.host.sending = s.part.host.sending

/-! ### Invariants -/

/-- The clock lies in its range (R37); the commands that wait are well formed, for a beacon brings a clock. -/
def ClockInRange (s : State) : Prop := s.part.route.clock ≤ 172799 ∧ ∀ c ∈ s.pending, c.wf = true

/-- The part holds its state on retention supply (R179, R180). -/
def Holding (s : Part) : Prop := s.supply.mode = .breakHold ∨ s.supply.mode = .extendedHold

/-- The break count stays in 0..15 and never passes a break limit that is not 0; in a hold it lies below such a limit (R178,
R182). -/
def BreaksBounded (s : State) : Prop :=
  s.part.supply.breakCount ≤ 15 ∧ s.part.host.params.breakLimit ≤ 15 ∧
    (s.part.host.params.breakLimit ≠ 0 → s.part.supply.breakCount ≤ s.part.host.params.breakLimit) ∧
    (Holding s.part → s.part.host.params.breakLimit ≠ 0 → s.part.supply.breakCount < s.part.host.params.breakLimit)

/-- Route table, leg pool, counts, line queue, late-answer set, requests in flight, notice slots and portion tag keep within
their bounds, and the off-threshold lies below the on-threshold. -/
def WithinBounds (s : State) : Prop :=
  s.part.route.stops.length ≤ 64 ∧ s.part.res.legs.length ≤ 2048 ∧ s.part.res.releaseCount ≤ 65535 ∧
    s.part.res.orphanCount ≤ 65535 ∧ s.part.form.queue.length ≤ 16 ∧ s.part.form.late.length ≤ 8 ∧
    s.part.host.inFlight.length ≤ 4 ∧ (s.part.host.inFlight.map (·.tag)).Nodup ∧
    s.part.panel.staff.length = 4 ∧ s.part.panel.service.length = 4 ∧ s.part.unit.portionTag ≤ 2 ∧
    s.part.host.params.offThreshold < s.part.host.params.onThreshold

/-- The stores of the formation and the tallies keep within their bounds: 8 own coaches, 3 units of 8 coaches each, a roll
call with at most one answer collected, 24 tallies with a position each, 6 lines of the seat summary, 8 late answers with each
pair once. The commands that wait are well formed, for frames bring units and tallies. -/
def FormationBounds (s : State) : Prop :=
  (∀ c ∈ s.pending, c.wf = true) ∧ s.part.unit.coaches.length ≤ 8 ∧
    s.part.form.record.units.length ≤ 3 ∧ (∀ u ∈ s.part.form.record.units, u.booked.length ≤ 8) ∧
    (∀ l, s.part.form.rollCall = some l → l.length ≤ 1 ∧ ∀ f ∈ l, f.booked.length ≤ 8) ∧
    s.part.form.trainTally.length ≤ 24 ∧ (s.part.form.trainTally.map (·.position)).Nodup ∧
    (∀ e ∈ s.part.form.trainTally, 1 ≤ e.position ∧ e.position ≤ 24) ∧ s.part.seat.summary.length ≤ 6 ∧
    s.part.form.late.Nodup ∧ s.part.form.late.length ≤ 8

/-- The tags of the replies that wait in the send queue or are on the line. -/
def replyTags (h : HostPort) : List Byte :=
  (h.sending.bind (·.entry)).toList ++ h.queue.filterMap fun x => match x with
    | .reply tag _ _ _ => some tag
    | _ => none

/-- The law of requests in flight: at most four, their tags distinct, none left with its owner; each reply answers a SENDING
entry, one reply each; at most three refusals and one EVENT frame wait, eight frames in all; each forward has a WAITING entry
of its own, so that there are at most four; a NOTICE_FWD item of the line queue names a forward (R86, R190, R191). -/
def PortLaw (s : Part) : Prop :=
  s.host.inFlight.length ≤ 4 ∧ (s.host.inFlight.map (·.tag)).Nodup ∧ (∀ e ∈ s.host.inFlight, e.phase ≠ .handed) ∧
    (replyTags s.host).Nodup ∧ (∀ tag ∈ replyTags s.host, ∃ e ∈ s.host.inFlight, e.tag = tag ∧ e.phase = .sending) ∧
    (s.host.queue.filter fun x => match x with
      | .refusal _ _ _ => true
      | _ => false).length ≤ 3 ∧ (s.host.queue.filter (· == .event)).length ≤ 1 ∧ s.host.queue.length ≤ 8 ∧
    (s.form.forwards.map (·.tag)).Nodup ∧ s.form.forwards.length ≤ 4 ∧
    (∀ f ∈ s.form.forwards, ∃ e ∈ s.host.inFlight, e.tag = f.tag ∧ e.phase = .waiting) ∧
    (∀ tag, LineItem.noticeFwd tag ∈ s.form.queue → ∃ f ∈ s.form.forwards, f.tag = tag)

/-- The law of legs: ids are distinct and the pool is in its order; a leg that is not BOOKED has no window; every leg runs
forward; an active leg names two own calling stops, and no two active legs of one seat cover a common stop range (R94, R96). -/
def LegLaw (s : Part) : Prop :=
  (s.res.legs.map (·.id)).Nodup ∧ s.res.legs.Pairwise (fun a b => a.before b = true) ∧
    (∀ l ∈ s.res.legs, l.state ≠ .booked → l.phase = .done) ∧ (∀ l ∈ s.res.legs, l.frm < l.till) ∧
    (∀ l ∈ s.res.legs, l.active = true → l.frm ∈ s.route.ownSeq ∧ l.till ∈ s.route.ownSeq) ∧
    (∀ a ∈ s.res.legs, ∀ b ∈ s.res.legs, a.id ≠ b.id → a.active = true → b.active = true → a.coach = b.coach →
      a.seat = b.seat → a.till ≤ b.frm ∨ b.till ≤ a.frm)

/-- The places that name text handles: stop records, the train number, occupied notice slots and forwards (R17). -/
def namedHandles (s : Part) : List Nat :=
  routeHandles s.route ++ ((s.panel.staff ++ s.panel.service).filterMap fun x => x.map (·.handle)) ++
    forwardHandles s.form.forwards

/-- The law of reference counts: an entry's count is the number of places that name its handle, and no place names a handle
without an entry (R17, R18). -/
def RefLaw (s : Part) : Prop := ∀ h, (namedHandles s).count h = ((textAt s.text h).map (·.refs)).getD 0

/-- The keys of an association list strictly rise. -/
def KeysRise {α : Type} (l : List (Nat × α)) : Prop := (l.map (·.1)).Pairwise (· < ·)

/-- The blocks that the chains of the text entries hold. -/
def heldBlocks (t : TextStore) : List Nat := (t.entries.map fun e => e.2.blocks).flatten

/-- The law of the block pool: each of the 1,024 blocks stands in exactly one chain or once on the free list (R14). -/
def PoolLaw (t : TextStore) : Prop :=
  KeysRise t.entries ∧ (heldBlocks t ++ t.free).Perm (List.range 1024)

/-- An address has an entry in the endpoint table, PRESENT or not as `b` says. -/
def listedAs (d : Display) (a : EpAddr) (b : Bool) : Prop := ∃ e ∈ d.table, e.addr = a ∧ e.present = b

/-- An address has an ABSENT entry whose probe is due. -/
def awaitsProbe (d : Display) (a : EpAddr) : Prop := ∃ e ∈ d.table, e.addr = a ∧ e.present = false ∧ e.probeDue = true

/-- The laws of the display line: addresses are distinct; the refresh queue names PRESENT endpoints, each once, and never
the one a transfer is under way to; a PRESENT endpoint whose content version is not its shown version is in the queue or has
a transfer under way; the probe list names ABSENT endpoints whose probe is due, each once; the operation in
flight goes to a PRESENT endpoint, a probe to an ABSENT one (R158 to R161, R166 to R168). -/
def LineLaw (d : Display) : Prop :=
  (d.table.map (·.addr)).Nodup ∧ d.queue.Nodup ∧ (∀ a ∈ d.queue, listedAs d a true) ∧
    (∀ e ∈ d.table, e.present = true → e.shown ≠ some e.content → e.addr ∈ d.queue ∨ transferTo d e.addr = true) ∧
    d.probes.Nodup ∧ (∀ a ∈ d.probes, awaitsProbe d a) ∧
    match d.inFlight with
    | some (.transfer _, a) => listedAs d a true ∧ a ∉ d.queue
    | some (.poll, a) => listedAs d a true
    | some (.probe, a) => awaitsProbe d a ∧ a ∉ d.probes
    | none => True

end Sys2Proof.Machine
end

