-- ==== Sys2Proof/Certificates/Slice0/Obligations.lean ====
section
/-! DEFINITION. The statements for the provers, in the order of OBLIGATIONS.json. -/
open Sys2Proof Sys2Proof.Machine

/-- A step carries out the command at the front of the queue. (Chapter 95_what_each_step_holds.) The queue of commands
is the model's form (log entries 3 and 44). -/
def Obligations.StepCarriesOutTheFrontCommand : Prop :=
  ∀ (c : Instr) (s : State), step { s with pending := c :: s.pending } = exec c s

/-- No command faults or is refused, and no command touches the queue. (Chapter 95_what_each_step_holds.) That a
command out of its place completes without an effect is the model's form (log entry 4). -/
def Obligations.EveryCommandIsCarriedOut : Prop :=
  ∀ (c : Instr) (s : State), ∃ t, exec c s = .next t ∧ t.pending = s.pending

/-- What the part holds right after its first cold start, and that the end of the clearing gives it. (Section 1.7,
section 2.12, section 3.10, section 4.6, section 5.10, section 6.7, section 7.8, section 8.8, section 9.9, section
10.2, section 10.7, section 11.8.) That reset lies after the first cold start is the model's choice (log entry 1); the
levels of the senses at reset are log entry 2. That no grant is in force and none has ended is no start value of the
spec: both are the model's own state (log entries 31 and 53). -/
def Obligations.ResetHoldsTheStartValues : Prop :=
  exec .clearingEnd { part := { supply := { clearing := true } }, pending := [] } = .next State.reset ∧
  State.reset.pending = [] ∧
    (State.reset.part.supply.mode = .run ∧ State.reset.part.supply.startCause = .cold ∧
      State.reset.part.supply.lastOff = .none ∧ State.reset.part.supply.breakCount = 0 ∧
      State.reset.part.supply.settle = some 0) ∧
    (State.reset.part.unit = { unitId := 0, coaches := [], portionTag := 0, staging := none }) ∧
    (State.reset.part.text.entries = [] ∧ State.reset.part.text.free = List.range 1024) ∧
    (State.reset.part.route.stops = [] ∧ State.reset.part.route.id = 0 ∧ State.reset.part.route.train = none ∧
      State.reset.part.route.ownSeq = [] ∧ State.reset.part.route.clock = 0 ∧ State.reset.part.route.clockSet = false ∧
      State.reset.part.route.mismatchEpoch = none ∧
      State.reset.part.route.prog = { state := .idle, p := none, n := none, halt := none, d := none, arr := none, dep := none,
                                      stale := false, source := .own }) ∧
    (State.reset.part.est = { valid := false, entries := [] }) ∧
    (State.reset.part.form.role = .standalone ∧ State.reset.part.form.record.epoch = 0 ∧ State.reset.part.form.queue = [] ∧
      State.reset.part.form.forwards = [] ∧ State.reset.part.form.late = [] ∧ State.reset.part.form.trainTally = [] ∧
      State.reset.part.form.cycleCount = 0 ∧ State.reset.part.form.lastNumber = 0 ∧ State.reset.part.form.spacing = false ∧
      State.reset.part.form.tallyPending = false ∧ State.reset.part.form.grant = none ∧ State.reset.part.form.ended = []) ∧
    (State.reset.part.res.legs = [] ∧ State.reset.part.res.releaseCount = 0 ∧ State.reset.part.res.orphanCount = 0) ∧
    (State.reset.part.panel.staff = [none, none, none, none] ∧ State.reset.part.panel.service = [none, none, none, none] ∧
      State.reset.part.panel.coaches = [] ∧ State.reset.part.panel.standing = none ∧
      State.reset.part.panel.brightness = .bright ∧ State.reset.part.panel.stabling = some 600) ∧
    (State.reset.part.disp = { table := [], queue := [], probes := [], inFlight := none, mark := none, lastTransfer := false }) ∧
    (State.reset.part.host.latched = EventKind.start.mask ∧ State.reset.part.host.inFlight = [] ∧
      State.reset.part.host.queue = [] ∧ State.reset.part.host.receiver = .hunting ∧
      State.reset.part.host.params = {
        debounce := 2, hysteresis := 20, threshold := 3, claimWindow := 15, onThreshold := 24, offThreshold := 12, vacateHold := 6, pageDwell := 8, stabling := 10, night := 0, holdLimit := 20
        extHoldLimit := 15, settleLimit := 600, breakLimit := 6, enable := 0x3FFF#14 })

/-- CONFIG-SET stores the value its parameter admits, and only that parameter; which values the fifteen parameters
admit. (Section 11.7.) -/
def Obligations.ConfigSetStoresTheAdmittedValue : Prop :=
  (∀ (s : State) (tag : Byte) (body : List Byte) (id v : Nat), Accepts s tag → readConfigSet body = some (id, v) →
    ∃ t, exec (.configSet tag body) s = .next t ∧
      match s.part.host.params.admitted id v with
      | some w =>
        t.part.host.params.get id = some w ∧ (∀ j, j ≠ id → t.part.host.params.get j = s.part.host.params.get j) ∧
          Answered s t 0x01#8 tag .ok [byte id, byte (w / 256), byte w] ∧
          Only [.host, .params, .form, .est, .sensors, .panel, .disp, .supply] s t
      | none => Answered s t 0x01#8 tag .badField [] ∧ Only [.host] s t) ∧
  (∀ (q : Params) (v : Nat),
    q.admitted 1 v = (if v ≤ 3 then some v else none) ∧
    q.admitted 2 v = some (min v 1000) ∧
    q.admitted 3 v = some (if v < 1 then 1 else min v 15) ∧
    q.admitted 4 v = some (min v 30) ∧
    q.admitted 5 v = (if 1 ≤ v ∧ v ≤ 63 ∧ q.offThreshold < v then some v else none) ∧
    q.admitted 6 v = (if v ≤ 62 ∧ v < q.onThreshold then some v else none) ∧
    q.admitted 7 v = some (min v 31) ∧
    q.admitted 8 v = some (if v < 2 then 2 else min v 30) ∧
    q.admitted 9 v = some (if v < 1 then 1 else min v 60) ∧
    q.admitted 10 v = (if v ≤ 1 then some v else none) ∧
    q.admitted 11 v = some (if v < 2 then 2 else min v 60) ∧
    q.admitted 12 v = some (if v < 1 then 1 else min v 120) ∧
    q.admitted 13 v = some (if v < 60 then 60 else min v 3600) ∧
    q.admitted 14 v = some (min v 15) ∧
    q.admitted 15 v = some (v % 2 ^ 14) ∧
    ∀ id, id = 0 ∨ 15 < id → q.admitted id v = none)

/-- CONFIG-GET answers one parameter or all fifteen, and changes nothing. (Rule R202.) -/
def Obligations.ConfigGetReportsTheValueInForce : Prop :=
  ∀ (s : State) (tag id : Byte), Accepts s tag →
    ∃ t, exec (.configGet tag [id]) s = .next t ∧ Only [.host] s t ∧
      (1 ≤ id.toNat → id.toNat ≤ 15 → ∃ v, s.part.host.params.get id.toNat = some v ∧
        Answered s t 0x02#8 tag .ok [id, byte (v / 256), byte v]) ∧
      (id = 0 → ∃ d, d.length = 45 ∧ Answered s t 0x02#8 tag .ok d ∧
        ∀ k, k < 15 → ∃ v, s.part.host.params.get (k + 1) = some v ∧
          (d.drop (3 * k)).take 3 = [byte (k + 1), byte (v / 256), byte v]) ∧
      (15 < id.toNat → Answered s t 0x02#8 tag .badField [])

/-- SEAT-QUERY, TALLY-QUERY, LEVEL-QUERY, STATUS-QUERY and ENDPOINT-QUERY answer and change nothing. (Section 6.2,
section 7.7, section 8.5, section 9.8, section 11.4, section 11.6.) How the details lay out what the spec gives no
bytes for is the model's choice (log entries 14 to 18). What stands for a field that a rule gives in some cases alone,
and for the end of the table, is log entries 79 and 83 to 85. -/
def Obligations.QueriesAnswerAndChangeNothing : Prop :=
  (∀ (s : State) (tag : Byte) (body : List Byte) (c p : Nat), Accepts s tag → readPair body = some (c, p) →
    ∃ t, exec (.seatQuery tag body) s = .next t ∧ Only [.host] s t ∧
      match seatAt s.part.unit c p with
      | some r =>
        let two := fun n : Nat => [byte (n / 256), byte n]
        let legs := s.part.res.legs.filter fun l => l.coach == c && l.seat == p
        let v := (viewAt s.part.res c p).getD { horizon := none, display := .noService, stop := none }
        Answered s t 0x14#8 tag .ok
          (two r.label ++ [byte ((if r.unitFitted then 1 else 0) + (if r.sensorFitted then 2 else 0)),
            if seatOccupied s.part.seat c p then 1#8 else 0#8, if evidenceFresh s.part.seat c p then 0#8 else 1#8,
            match v.display with
              | .noService => 0#8
              | .reserved => 1#8
              | .freeUntil => 2#8
              | .free => 3#8,
            byte (v.horizon.getD 255)] ++ two legs.length ++ [byte (min 64 legs.length)] ++
          ((legs.take 64).map fun l => two l.id ++ [byte l.frm, byte l.till, if l.noRelease then 1#8 else 0#8,
            match l.state with
              | .booked => 0#8
              | .claimed => 1#8
              | .released => 2#8
              | .orphaned => 3#8] ++
            match l.phase with
              | .ahead => [0#8, 255#8, 255#8, 255#8, 255#8]
              | .opened => [1#8, 255#8, 255#8, 255#8, 255#8]
              | .timed d => [2#8, byte (d / 65536), byte (d / 256), byte d, 255#8]
              | .deferred n => [3#8, 255#8, 255#8, 255#8, byte n]
              | .done => [4#8, 255#8, 255#8, 255#8, 255#8]).flatten)
      | none => Answered s t 0x14#8 tag .notFound []) ∧
  (∀ (s : State) (tag : Byte), Accepts s tag → ∃ t, exec (.tallyQuery tag []) s = .next t ∧ Only [.host] s t ∧
    let two := fun n : Nat => [byte (n / 256), byte n]
    let q := s.part.seat
    Answered s t 0x15#8 tag .ok
      ([match s.part.route.prog.state with
            | .idle => 0#8
            | .loading => 1#8
            | .standing => 2#8
            | .departed => 3#8
            | .approaching => 4#8
            | .halted => 5#8
            | .terminated => 6#8,
          byte (s.part.route.prog.p.getD 255), byte q.columns.length] ++ q.columns.map byte ++
        [byte s.part.unit.coaches.length] ++
        (s.part.unit.coaches.zipIdx.map fun x =>
          let row := (q.rows[x.2]?).getD []
          let k := (q.counts[x.2]?).getD (0, 0)
          [byte x.2, byte x.1.booked, byte ((ownPosition s.part x.2).getD 255), byte x.1.seats.length, byte row.length] ++
            row.map byte ++ two k.1 ++ two k.2).flatten ++
        two (q.sensors.flatten.filter fun x => x.occupied).length ++ two (q.sensors.flatten.filter fun x => x.age.isNone).length ++
        [byte s.part.form.trainTally.length] ++
        (s.part.form.trainTally.map fun e => [byte e.position, byte e.booked] ++ two e.unitId ++ two e.freeEnd ++
          two e.freeDivide ++ [byte e.epoch]).flatten ++
        [byte q.summary.length] ++
        (q.summary.map fun e => [byte e.position, byte e.booked] ++ two e.freeEnd ++ two e.freeDivide).flatten)) ∧
  (∀ (s : State) (tag : Byte), Accepts s tag → ∃ t, exec (.levelQuery tag []) s = .next t ∧ Only [.host] s t ∧
    let two := fun n : Nat => [byte (n / 256), byte n]
    let q := s.part.panel
    let rotation := fun x : Context => [byte x.pages.length, byte x.index, byte x.lang]
    Answered s t 0x18#8 tag .ok
      ([match q.brightness with
            | .bright => 0#8
            | .dim => 1#8
            | .dark => 2#8,
          if q.stabling.isSome then 1#8 else 0#8] ++ two (q.stabling.getD 65535) ++ [byte s.part.unit.coaches.length] ++
        (s.part.unit.coaches.zipIdx.map fun x =>
          let w := (q.coaches[x.2]?).getD { shown := .idle, staff := none, service := none }
          let chosen := match w.shown with
            | .staff => w.staff.bind fun j => (q.staff[j]?).join
            | .service => w.service.bind fun j => (q.service[j]?).join
            | _ => none
          [byte x.2, byte x.1.booked, match w.shown with
              | .idle => 0#8
              | .journey => 1#8
              | .service => 2#8
              | .approach => 3#8
              | .standing => 4#8
              | .staff => 5#8] ++
            two ((chosen.map fun y => y.origin.getD 0).getD 65535) ++ two ((chosen.map fun y => y.noticeId).getD 65535)).flatten ++
        rotation q.idleCtx ++ rotation q.journeyCtx ++ rotation q.approachCtx ++ rotation q.standingCtx ++
        ((q.staff ++ q.service).map fun o => match o with
          | none => [0#8]
          | some x => [1#8] ++ two (x.origin.getD 0) ++ two x.noticeId ++ [byte x.subPriority] ++
            (match x.targets with
              | .all => [0#8, 0#8]
              | .unit => [1#8, 0#8]
              | .coaches ns => [2#8, byte ns.length] ++ ns.map byte) ++
            [byte x.handle] ++ two x.duration ++ two (x.remaining.getD 65535) ++ rotation x.rotation).flatten)) ∧
  (∀ (s : State) (tag : Byte), Accepts s tag → ∃ t, exec (.statusQuery tag []) s = .next t ∧ Only [.host] s t ∧
    let two := fun n : Nat => [byte (n / 256), byte n]
    let three := fun n : Nat => [byte (n / 65536), byte (n / 256), byte n]
    let flag := fun b : Bool => if b then 1#8 else 0#8
    let g := s.part.route.prog
    let r := inForce s.part
    let waited := (s.part.form.forwards.map fun e => e.awaited.length).sum + s.part.form.late.length
    let entry := fun x : Option EstEntry => match x with
      | some e =>
        [byte e.stop] ++
          (match e.delay with
            | some d => three (d % 16777216).toNat
            | none => [0x80#8, 0#8, 0#8]) ++
          (match e.minutes with
            | some m => two (m % 65536).toNat
            | none => [0x80#8, 0#8]) ++ [flag e.shown]
      | none => [0xFF#8, 0x80#8, 0#8, 0#8, 0x80#8, 0#8, 0xFF#8]
    let listed := fun i : Option Nat => i.bind fun k => s.part.est.entries.find? fun e => e.stop == k
    let d :=
      [match s.part.supply.startCause with
            | .cold => 0#8
            | .warm => 1#8
            | .warmExtended => 2#8,
          match s.part.supply.lastOff with
            | .none => 0#8
            | .limit => 1#8
            | .expired => 2#8
            | .retention => 3#8
            | .reset => 4#8,
          byte s.part.supply.breakCount, if s.part.supply.retentionLow then 0#8 else 1#8] ++
        two (s.part.supply.settle.getD 65535) ++ two s.part.host.latched.toNat ++ two s.part.host.params.enable.toNat ++
        two s.part.res.releaseCount ++ two s.part.res.orphanCount ++
        two (s.part.disp.table.filter fun e => !e.present).length ++
        two s.part.unit.unitId ++ [byte s.part.unit.coaches.length, byte s.part.unit.portionTag] ++
        three s.part.route.clock ++ [flag s.part.route.clockSet] ++
        two (routeInForce s.part.route) ++ [byte s.part.route.stops.length] ++
        [match g.state with
            | .idle => 0#8
            | .loading => 1#8
            | .standing => 2#8
            | .departed => 3#8
            | .approaching => 4#8
            | .halted => 5#8
            | .terminated => 6#8,
          byte (g.p.getD 255), byte (g.n.getD 255), byte (g.halt.getD 255)] ++
        three (g.d.getD 16777215) ++ three (g.arr.getD 16777215) ++ three (g.dep.getD 16777215) ++
        [flag g.stale, if g.source = .beacon then 1#8 else 0#8, if s.part.est.valid then 0#8 else 1#8] ++
        entry (if g.state = .standing then listed g.p else none) ++ entry (listed g.n) ++
        [match s.part.form.role with
            | .standalone => 0#8
            | .leading => 1#8
            | .following => 2#8
            | .formingLeader => 3#8
            | .formingFollower => 3#8
            | .isolated => 4#8,
          byte r.epoch, byte r.units.length, byte r.ownIndex,
          match ownOrientation s.part with
            | .forward => 0#8
            | .reversed => 1#8
            | .unknown => 2#8,
          flag (numberClash r.units), byte waited, flag (decide (0 < waited))] ++
        two s.part.text.free.length ++ [byte (freeRemoteCount s.part.text)] ++ two (2048 - s.part.res.legs.length)
    d.length = 70 ∧ Answered s t 0x19#8 tag .ok d) ∧
  (∀ (s : State) (tag : Byte) (body : List Byte) (start sel max : Nat), Accepts s tag →
    readEndpointQuery body = some (start, sel, max) → sel ≤ 1 → 1 ≤ max → max ≤ 64 →
    start < s.part.disp.table.length ∨ (s.part.disp.table = [] ∧ start = 0) → start ≤ 799 →
    ∃ t, exec (.endpointQuery tag body) s = .next t ∧ Only [.host] s t ∧
      let two := fun n : Nat => [byte (n / 256), byte n]
      let d := s.part.disp
      let place := fun o : Option EpAddr => match o with
        | some a => [byte a.coach, (match a.kind with
              | .seat => 0#8
              | .interior => 1#8
              | .exterior => 2#8), byte a.number]
        | none => [255#8, 255#8, 255#8]
      let picked := ((d.table.zipIdx.drop start).filter fun x => sel == 0 || !x.1.present).take max
      Answered s t 0x1A#8 tag .ok
        (two d.table.length ++ two (d.table.filter fun e => e.present).length ++
          two (d.table.filter fun e => !e.present).length ++ two d.queue.length ++
          [match d.inFlight with
              | some (.transfer _, _) => 0#8
              | some (.poll, _) => 1#8
              | some (.probe, _) => 2#8
              | none => 255#8] ++ place (d.inFlight.map fun y => y.2) ++
          [if d.lastTransfer then 0#8 else 1#8] ++ place d.mark ++ [byte picked.length] ++
          (picked.map fun x => place (some x.1.addr) ++ [if x.1.present then 0#8 else 1#8, byte x.1.content] ++
            two (x.1.shown.getD 65535) ++ [byte x.1.miss, if x.1.addr ∈ d.queue then 1#8 else 0#8] ++
            two (x.1.probeTime.getD 65535) ++
            two (match x.1.status with
              | none => 65535
              | some (.level raw) => raw
              | some .ok => 0
              | some .fault => 1)).flatten ++
          two (match picked.getLast? with
            | some x => if picked.length = max ∧ x.2 + 1 < d.table.length then x.2 + 1 else 65535
            | none => 65535))) ∧
  (∀ (s : State) (tag : Byte) (body : List Byte) (start sel max : Nat), Accepts s tag →
    readEndpointQuery body = some (start, sel, max) →
    1 < sel ∨ max = 0 ∨ 64 < max ∨ 799 < start ∨
      (s.part.disp.table.length ≤ start ∧ ¬ (s.part.disp.table = [] ∧ start = 0)) →
    ∃ t, exec (.endpointQuery tag body) s = .next t ∧ Answered s t 0x1A#8 tag .badField [] ∧ Only [.host] s t)

/-- UNIT-SETUP segments join the staging record, the last one puts the description in force, and COACH-NUMBERS
renumbers its coaches. (Section 1.4, section 1.5.) That the own entry takes the whole list of numbers is the model's
choice (log entry 86). -/
def Obligations.TheDescriptionIsCollectedCommittedAndRenumbered : Prop :=
  (∀ (s : State) (tag : Byte) (body : List Byte) (x : SegmentReq), Accepts s tag → readUnitSetup body = some x →
    (((segmentChecks x s.part).all fun c => !c.1) = true → x.coachIndex + 1 ≠ x.coachCount →
      ∃ t, exec (.unitSetup tag body) s = .next t ∧ Answered s t 0x03#8 tag .ok [] ∧ Only [.host, .unit] s t ∧
        t.part.unit = { s.part.unit with
          staging := some { unitId := x.unitId, coachCount := x.coachCount,
                            coaches := (if x.coachIndex = 0 then [] else (s.part.unit.staging.map (·.coaches)).getD []) ++
                              [coachOf x] } }) ∧
    (∀ c, (segmentChecks x s.part).find? (·.1) = some c →
      ∃ t, exec (.unitSetup tag body) s = .next t ∧ Answered s t 0x03#8 tag c.2 [] ∧ Only [.host, .unit] s t ∧
        t.part.unit = { s.part.unit with staging := none })) ∧
  (∀ (s : State) (tag : Byte) (body : List Byte) (x : SegmentReq), Accepts s tag → readUnitSetup body = some x →
    ((segmentChecks x s.part).all fun c => !c.1) = true → x.coachIndex + 1 = x.coachCount →
    let coaches := (if x.coachIndex = 0 then [] else (s.part.unit.staging.map (·.coaches)).getD []) ++ [coachOf x]
    ∃ t, exec (.unitSetup tag body) s = .next t ∧
      if hasDup (coaches.map (·.booked)) then
        Answered s t 0x03#8 tag .conflict [] ∧ t.part.unit = { s.part.unit with staging := none } ∧ Only [.host, .unit] s t
      else
        Answered s t 0x03#8 tag .ok [] ∧
          t.part.unit = { unitId := x.unitId, coaches := coaches, portionTag := s.part.unit.portionTag, staging := none } ∧
          t.part.disp.table.map (·.addr) = endpointList coaches ∧
          (∀ e ∈ t.part.disp.table, e.present = true ∧ e.miss = 0 ∧ e.shown = none) ∧
          t.part.seat.sensors = coaches.map (fun c => c.seats.map fun _ => { occupied := false, run := 0, age := none, frozen := false }) ∧
          Only [.host, .unit, .source, .form, .tallies, .views, .sensors, .seat, .panel, .disp] s t) ∧
  (∀ (s : State) (tag : Byte) (body : List Byte) (ns : List Nat), Accepts s tag → readList body = some ns →
    ∃ t, exec (.coachNumbers tag body) s = .next t ∧
      if s.part.unit.coaches = [] then Answered s t 0x04#8 tag .wrongState [] ∧ Only [.host] s t
      else if ns.length ≠ s.part.unit.coaches.length ∨ ∃ n ∈ ns, n < 1 ∨ 99 < n then
        Answered s t 0x04#8 tag .badField [] ∧ Only [.host] s t
      else if ¬ ns.Nodup then Answered s t 0x04#8 tag .conflict [] ∧ Only [.host] s t
      else Answered s t 0x04#8 tag .ok [] ∧
        t.part.unit = { s.part.unit with coaches := List.zipWith (fun c n => { c with booked := n }) s.part.unit.coaches ns } ∧
        (if s.part.unit.coaches.map (·.booked) = ns then Only [.host] s t
          else OwnEntryRewritten (fun u => { u with booked := ns }) s.part t.part) ∧
        Only [.host, .unit, .source, .form, .tallies, .seat, .panel, .disp] s t)

/-- PORTION-SET takes a tag 0..2 and places the progress record anew. (Section 1.6, section 3.8.) That an unplaced
record keeps its stale flag is the model's choice (log entry 52). That a changed route id in force is written with the
tag is log entry 87. -/
def Obligations.PortionSetTakesTheTag : Prop :=
  ∀ (s : State) (tag p : Byte), Accepts s tag →
    ∃ t, exec (.portionSet tag [p]) s = .next t ∧
      if 2 < p.toNat then Answered s t 0x05#8 tag .badField [] ∧ Only [.host] s t
      else if p.toNat = s.part.unit.portionTag then Answered s t 0x05#8 tag .ok [] ∧ Only [.host] s t
      else Answered s t 0x05#8 tag .ok [] ∧ t.part.unit = { s.part.unit with portionTag := p.toNat } ∧
        Only [.host, .unit, .route, .source, .est, .form, .tallies, .legs, .views, .seat, .panel, .disp, .events] s t ∧
        OwnEntryRewritten (fun u =>
          { u with portion := p.toNat
                   route := if routeInForce s.part.route = routeInForce t.part.route then u.route else routeInForce t.part.route })
          s.part t.part ∧
        t.part.route.stops = s.part.route.stops ∧ t.part.route.clock = s.part.route.clock ∧
        (s.part.route.prog.state = .idle ∨ s.part.route.prog.state = .loading →
          t.part.route.prog = { s.part.route.prog with source := t.part.route.prog.source } ∧
          t.part.route.ownSeq = s.part.route.ownSeq) ∧
        (hasRoute s.part.route.prog.state = true →
          let g := s.part.route.prog
          match placeAgain (callSeq s.part.route.stops p.toNat) g with
          | some y =>
            let kept := (y.state = .departed ∨ y.state = .approaching) ∧ y.n = g.n
            t.part.route.ownSeq = callSeq s.part.route.stops p.toNat ∧
              t.part.route.prog = {
                state := if kept then g.state else y.state, p := some y.p, n := y.n, halt := y.halt
                d := if kept then g.d else none
                arr := if g.p = some y.p then g.arr else none, dep := if g.p = some y.p then g.dep else none
                stale := g.stale, source := t.part.route.prog.source }
          | none => t.part.route.ownSeq = [] ∧
              t.part.route.prog = { state := .loading, p := none, n := none, halt := none, d := none, arr := none, dep := none
                                    stale := g.stale, source := t.part.route.prog.source })

/-- TEXT-PUT writes one variant in blocks from the head of the free list or refuses in order; TEXT-DROP removes an
entry that nothing names. (Section 2.2, section 2.3, section 2.5, section 11.3.) -/
def Obligations.TextPutAndDropKeepTheirBlocks : Prop :=
  ((∀ (s : State) (tag : Byte) (body : List Byte) (h slot : Nat) (codes : List Byte), Accepts s tag →
    readTextPut body = some (h, slot, codes) → 1 ≤ h → h ≤ 191 → slot ≤ 2 → 1 ≤ codes.length → codes.length ≤ 64 →
    (∀ c ∈ codes, admitted c = true) → (slot ≠ 0 → textKnown s.part.text h = true) →
    (codes.length + 15) / 16 ≤ s.part.text.free.length →
    ∃ t e, exec (.textPut tag body) s = .next t ∧ Answered s t 0x06#8 tag .ok [] ∧
      Only [.host, .text, .panel, .disp] s t ∧ textAt t.part.text h = some e ∧
      e.variant slot = some { codes := codes, chain := s.part.text.free.take ((codes.length + 15) / 16) } ∧
      (∀ h', h' ≠ h → textAt t.part.text h' = textAt s.part.text h') ∧
      match textAt s.part.text h with
      | some old => e.refs = old.refs ∧ (∀ j, j ≠ slot → e.variant j = old.variant j) ∧
          t.part.text.free = s.part.text.free.drop ((codes.length + 15) / 16) ++ old.chain slot
      | none => e.refs = 0 ∧ (∀ j, j ≠ slot → e.variant j = none) ∧
          t.part.text.free = s.part.text.free.drop ((codes.length + 15) / 16)) ∧
  (∀ (s : State) (tag : Byte) (body : List Byte) (h slot : Nat) (codes : List Byte), Accepts s tag →
    readTextPut body = some (h, slot, codes) →
    (h = 0 ∨ 192 ≤ h ∨ 2 < slot ∨ codes = [] ∨ 64 < codes.length ∨ (∃ c ∈ codes, admitted c = false) →
      ∃ t, exec (.textPut tag body) s = .next t ∧ Answered s t 0x06#8 tag .badField [] ∧ Only [.host] s t) ∧
    (1 ≤ h → h ≤ 191 → slot ≤ 2 → 1 ≤ codes.length → codes.length ≤ 64 → (∀ c ∈ codes, admitted c = true) →
      (slot ≠ 0 → textKnown s.part.text h = false →
        ∃ t, exec (.textPut tag body) s = .next t ∧ Answered s t 0x06#8 tag .notFound [] ∧ Only [.host] s t) ∧
      ((slot ≠ 0 → textKnown s.part.text h = true) → s.part.text.free.length < (codes.length + 15) / 16 →
        ∃ t, exec (.textPut tag body) s = .next t ∧ Answered s t 0x06#8 tag .full [] ∧ Only [.host] s t)))) ∧
  (∀ (s : State) (tag h : Byte), Accepts s tag →
    ∃ t, exec (.textDrop tag [h]) s = .next t ∧
      if h.toNat = 0 ∨ 192 ≤ h.toNat then Answered s t 0x07#8 tag .badField [] ∧ Only [.host] s t
      else match textAt s.part.text h.toNat with
        | none => Answered s t 0x07#8 tag .notFound [] ∧ Only [.host] s t
        | some e =>
          if 0 < e.refs then Answered s t 0x07#8 tag .inUse [] ∧ Only [.host] s t
          else Answered s t 0x07#8 tag .ok [] ∧ Only [.host, .text] s t ∧ textAt t.part.text h.toNat = none ∧
            (∀ k, k ≠ h.toNat → textAt t.part.text k = textAt s.part.text k) ∧
            t.part.text.free = s.part.text.free ++ (e.chain 0 ++ e.chain 1 ++ e.chain 2))

/-- ROUTE-OPEN starts a new table in LOADING or is refused in order, ROUTE-CLEAR leaves none. (Section 3.2, section
6.3.) -/
def Obligations.RouteOpenAndClearEmptyTheTable : Prop :=
  (∀ (s : State) (tag : Byte) (body : List Byte) (id h : Nat), Accepts s tag → readRouteOpen body = some (id, h) →
    s.part.route.prog.state = .idle ∨ s.part.route.prog.state = .terminated → id ≠ 0 → h ≤ 191 →
    (h ≠ 0 → textKnown s.part.text h = true) →
    ∃ t, exec (.routeOpen tag body) s = .next t ∧ Answered s t 0x08#8 tag .ok [] ∧
      t.part.route = { s.part.route with
        id := id, train := if h = 0 then none else some h, stops := [], ownSeq := []
        prog := { state := .loading, p := none, n := none, halt := none, d := none, arr := none, dep := none, stale := false
                  source := t.part.route.prog.source } } ∧
      t.part.res.legs = [] ∧ RouteIdWritten s.part t.part ∧
      Only [.host, .text, .route, .source, .est, .form, .tallies, .legs, .views, .seat, .panel, .disp] s t) ∧
  (∀ (s : State) (tag : Byte) (body : List Byte) (id h : Nat), Accepts s tag → readRouteOpen body = some (id, h) →
    let free := s.part.route.prog.state = .idle ∨ s.part.route.prog.state = .terminated
    (¬ free → ∃ t, exec (.routeOpen tag body) s = .next t ∧ Answered s t 0x08#8 tag .wrongState [] ∧ Only [.host] s t) ∧
    (free → id = 0 ∨ 192 ≤ h →
      ∃ t, exec (.routeOpen tag body) s = .next t ∧ Answered s t 0x08#8 tag .badField [] ∧ Only [.host] s t) ∧
    (free → id ≠ 0 → h ≤ 191 → h ≠ 0 → textKnown s.part.text h = false →
      ∃ t, exec (.routeOpen tag body) s = .next t ∧ Answered s t 0x08#8 tag .notFound [] ∧ Only [.host] s t)) ∧
  (∀ (s : State) (tag : Byte), Accepts s tag →
    ∃ t, exec (.routeClear tag []) s = .next t ∧
      if s.part.res.legs = [] then
        Answered s t 0x0B#8 tag .ok [] ∧
        t.part.route = { s.part.route with
          id := 0, train := none, stops := [], ownSeq := []
          prog := { state := .idle, p := none, n := none, halt := none, d := none, arr := none, dep := none, stale := false
                    source := t.part.route.prog.source } } ∧
        RouteIdWritten s.part t.part ∧
        Only [.host, .text, .route, .source, .est, .form, .tallies, .legs, .views, .seat, .panel, .disp] s t
      else Answered s t 0x0B#8 tag .inUse [] ∧ Only [.host] s t)

/-- STOP-PUT writes a record at its index while the route is LOADING, or is refused at the first check that fails.
(Section 2.4, section 3.1, section 3.2, section 11.4.) Where more than three inbound entries are refused is log entry
43. -/
def Obligations.StopPutWritesARecord : Prop :=
  ∀ (s : State) (tag : Byte) (body : List Byte) (x : StopReq), Accepts s tag → readStopPut body = some x →
    ∃ t, exec (.stopPut tag body) s = .next t ∧
      (s.part.route.prog.state ≠ .loading → Answered s t 0x09#8 tag .wrongState [] ∧ Only [.host] s t) ∧
      (s.part.route.prog.state = .loading → stopBad s.part.route.stops.length x = true →
        Answered s t 0x09#8 tag .badField [] ∧ Only [.host] s t) ∧
      (s.part.route.prog.state = .loading → stopBad s.part.route.stops.length x = false → stopTimeBad x = true →
        Answered s t 0x09#8 tag .badTime [] ∧ Only [.host] s t) ∧
      (s.part.route.prog.state = .loading → stopBad s.part.route.stops.length x = false → stopTimeBad x = false →
        ¬ (textKnown s.part.text x.name = true ∧ (x.short ≠ 0 → textKnown s.part.text x.short = true)) →
        Answered s t 0x09#8 tag .notFound [] ∧ Only [.host] s t) ∧
      (s.part.route.prog.state = .loading → stopBad s.part.route.stops.length x = false → stopTimeBad x = false →
        textKnown s.part.text x.name = true → (x.short ≠ 0 → textKnown s.part.text x.short = true) →
        let old := ((s.part.route.stops[x.index]?).map recHandles).getD []
        (∀ h ∈ old, h ≤ 191) →
        Answered s t 0x09#8 tag .ok [] ∧ Only [.host, .text, .route] s t ∧ x.index ≤ s.part.route.stops.length ∧
          t.part.route = { s.part.route with stops := t.part.route.stops } ∧
          t.part.route.stops[x.index]? = some (recordOf x) ∧
          (∀ i, i ≠ x.index → t.part.route.stops[i]? = s.part.route.stops[i]?) ∧
          t.part.text.free = s.part.text.free ∧
          ∀ h, textAt t.part.text h = (textAt s.part.text h).map fun e =>
            { e with refs := e.refs + (recHandles (recordOf x)).count h - old.count h })

/-- ROUTE-CLOSE puts the train at the first own calling stop, or reports the record at which a check fails. (Section
3.2, section 3.7, section 6.3.) Which REVERSE records check 5 refuses is the model's reading (log entry 33). -/
def Obligations.RouteCloseStartsTheJourney : Prop :=
  ∀ (s : State) (tag : Byte), Accepts s tag → s.part.route.prog.state = .loading →
    ∃ t, exec (.routeClose tag []) s = .next t ∧
      match closeFault s.part.route.stops s.part.unit.portionTag with
      | some (r, i) => Answered s t 0x0A#8 tag r [byte i] ∧ Only [.host] s t
      | none =>
        let q := callSeq s.part.route.stops s.part.unit.portionTag
        2 ≤ q.length ∧ Answered s t 0x0A#8 tag .ok [] ∧
          t.part.route = { s.part.route with
            ownSeq := q
            prog := { state := .standing, p := q[0]?, n := q[1]?, halt := none, d := none, arr := none, dep := none
                      stale := false, source := .own } } ∧
          (∀ l ∈ t.part.res.legs, l.state = .booked → l.phase = .ahead → ∀ p ∈ t.part.route.prog.p, p < l.frm) ∧
          RouteIdWritten s.part t.part ∧
          Only [.host, .route, .source, .est, .form, .tallies, .legs, .views, .seat, .panel, .disp, .events] s t

/-- STOP-AMEND changes one record ahead of the train, or is refused at the first check that fails. (Section 3.3.) -/
def Obligations.StopAmendChangesARecordAhead : Prop :=
  (∀ (s : State) (tag : Byte) (body : List Byte) (x : AmendReq), Accepts s tag → readStopAmend body = some x →
    underWay s.part.route.prog.state = true → amendBad s.part.route.stops x = false → amendTimeBad x = false →
    positionIndex s.part.route.prog < x.index → cancelBad s.part x = false →
    timeFault (amended x s.part.route.stops) = none →
    ∃ t r, exec (.stopAmend tag body) s = .next t ∧ Answered s t 0x0C#8 tag .ok [] ∧
      Only [.host, .route, .est, .tallies, .legs, .views, .seat, .panel, .disp, .events] s t ∧
      s.part.route.stops[x.index]? = some r ∧ t.part.route.stops[x.index]? = some (amend x r) ∧
      (∀ i, i ≠ x.index → t.part.route.stops[i]? = s.part.route.stops[i]?) ∧
      t.part.route.clock = s.part.route.clock ∧
      if (amend x r).cancelled = r.cancelled then
        t.part.route.ownSeq = s.part.route.ownSeq ∧ t.part.route.prog = s.part.route.prog
      else
        t.part.route.ownSeq = callSeq t.part.route.stops s.part.unit.portionTag ∧
          t.part.route.prog.n = firstAfter t.part.route.ownSeq (positionIndex s.part.route.prog) ∧
          t.part.route.prog.p = s.part.route.prog.p ∧ t.part.route.prog.halt = s.part.route.prog.halt ∧
          t.part.route.prog.arr = s.part.route.prog.arr ∧ t.part.route.prog.dep = s.part.route.prog.dep ∧
          t.part.route.prog.stale = s.part.route.prog.stale ∧
          if (s.part.route.prog.state = .departed ∨ s.part.route.prog.state = .approaching) ∧
              t.part.route.prog.n ≠ s.part.route.prog.n then
            t.part.route.prog.state = .departed ∧ t.part.route.prog.d = none
          else t.part.route.prog.state = s.part.route.prog.state ∧ t.part.route.prog.d = s.part.route.prog.d) ∧
  (∀ (s : State) (tag : Byte) (body : List Byte) (x : AmendReq), Accepts s tag → readStopAmend body = some x →
    let way := underWay s.part.route.prog.state = true
    let good := amendBad s.part.route.stops x = false
    let timed := amendTimeBad x = false
    let ahead := positionIndex s.part.route.prog < x.index
    let refused := fun r : Result =>
      ∃ t, exec (.stopAmend tag body) s = .next t ∧ Answered s t 0x0C#8 tag r [] ∧ Only [.host] s t
    (¬ way → refused .wrongState) ∧ (way → ¬ good → refused .badField) ∧ (way → good → ¬ timed → refused .badTime) ∧
    (way → good → timed → ¬ ahead → refused .wrongState) ∧
    (way → good → timed → ahead → cancelBad s.part x = true → refused .badField) ∧
    (way → good → timed → ahead → cancelBad s.part x = false → timeFault (amended x s.part.route.stops) ≠ none →
      refused .badTime))

/-- TIME sets the service clock; CLOCK-TICK advances it by one in RUN and in the holds, and holds it at 172,799.
(Section 3.4, section 10.8.) That one command is the second of every second-timer is the model's choice (log entry 6).
That BAD_FIELD stands before BAD_TIME where a message fails both field checks is the model's choice (log entry 66). -/
def Obligations.TheServiceClockIsSetAndAdvances : Prop :=
  (∀ (s : State) (tag : Byte) (body : List Byte) (x : ClockTime), Accepts s tag → readTime body = some x →
    ∃ t, exec (.time tag body) s = .next t ∧
      if 1 < x.day then Answered s t 0x0D#8 tag .badField [] ∧ Only [.host] s t
      else if x.ok = false then Answered s t 0x0D#8 tag .badTime [] ∧ Only [.host] s t
      else Answered s t 0x0D#8 tag .ok [] ∧
        (let v := 3600 * bcd x.hh + 60 * bcd x.mm + bcd x.ss + 86400 * x.day
         v ≤ 172799 ∧ t.part.route = { s.part.route with clock := v, clockSet := true, rangeLatched := false }) ∧
        Only [.host, .route, .est, .tallies, .legs, .views, .seat, .panel, .disp, .events] s t) ∧
  (∀ s : State, ∃ t, exec .clockTick s = .next t ∧
    Only [.route, .est, .tallies, .legs, .views, .sensors, .seat, .panel, .disp, .events, .host, .supply] s t ∧
    if s.part.supply.mode = .off ∨ s.part.supply.mode = .coldStart then Only [] s t
    else
      (if s.part.route.clock < 172799 then t.part.route = { s.part.route with clock := s.part.route.clock + 1 }
       else t.part.route = { s.part.route with rangeLatched := true } ∧
         (s.part.route.rangeLatched = false → t.part.host.latched.getLsbD 8 = true)) ∧
      (s.part.supply.mode = .breakHold →
        t.part.supply = { s.part.supply with hold := s.part.supply.hold.map fun n => n - 1 }) ∧
      (s.part.supply.mode = .extendedHold →
        t.part.supply = { s.part.supply with extHold := s.part.supply.extHold.map fun n => n - 1 }) ∧
      (s.part.supply.mode = .run →
        t.part.supply = { s.part.supply with
          settle := s.part.supply.settle.map fun n => min s.part.host.params.settleLimit (n + 1) }))

/-- DEPARTED takes the train from the stop or halt at which it stands or is refused; while the source is BEACON
progress messages are answered FOLLOWING. (Section 3.5, section 3.6.) That BAD_FIELD stands before BAD_TIME where a
message fails both field checks is the model's choice (log entry 66). -/
def Obligations.DepartedLeavesTheStopUnlessItFollows : Prop :=
  (∀ (s : State) (tag : Byte) (body : List Byte) (k : Nat) (x : ClockTime), Accepts s tag →
    readIndexTime body = some (k, x) → k ≤ 63 → x.day ≤ 1 → x.ok = true → s.part.route.prog.source = .own →
    ∃ t, exec (.departed tag body) s = .next t ∧
      if (s.part.route.prog.state = .standing ∧ s.part.route.prog.p = some k) ∨
          (s.part.route.prog.state = .halted ∧ s.part.route.prog.halt = some k) then
        Answered s t 0x0E#8 tag .ok [] ∧
          t.part.route = { s.part.route with
            prog := { s.part.route.prog with state := .departed, halt := none, d := none, stale := false
                                             dep := some (3600 * bcd x.hh + 60 * bcd x.mm + bcd x.ss + 86400 * x.day) } } ∧
          Only [.host, .route, .est, .tallies, .legs, .views, .seat, .panel, .disp, .events] s t
      else Answered s t 0x0E#8 tag .wrongState [] ∧ Only [.host] s t) ∧
  (∀ (s : State) (tag : Byte) (body : List Byte), Accepts s tag → s.part.route.prog.source = .beacon →
    (∀ k x, readIndexTime body = some (k, x) → k ≤ 63 → x.day ≤ 1 → x.ok = true →
      (∃ t, exec (.departed tag body) s = .next t ∧ Answered s t 0x0E#8 tag .following [] ∧ Only [.host] s t) ∧
      (∃ t, exec (.arrived tag body) s = .next t ∧ Answered s t 0x0F#8 tag .following [] ∧ Only [.host] s t)) ∧
    (∀ d : Nat, readPosition body = some (d : Int) →
      ∃ t, exec (.position tag body) s = .next t ∧ Answered s t 0x10#8 tag .following [] ∧ Only [.host] s t)) ∧
  (∀ (s : State) (tag : Byte) (body : List Byte) (k : Nat) (x : ClockTime), Accepts s tag →
    readIndexTime body = some (k, x) →
    let refused := fun r : Result =>
      ∃ t, exec (.departed tag body) s = .next t ∧ Answered s t 0x0E#8 tag r [] ∧ Only [.host] s t
    (63 < k ∨ 1 < x.day → refused .badField) ∧ (k ≤ 63 → x.day ≤ 1 → x.ok = false → refused .badTime))

/-- POSITION stores the clamped distance and moves between DEPARTED and APPROACHING with the hysteresis. (Section
3.6.) -/
def Obligations.PositionMovesBetweenDepartedAndApproaching : Prop :=
  (∀ (s : State) (tag : Byte) (body : List Byte) (d : Nat), Accepts s tag → readPosition body = some (d : Int) →
    s.part.route.prog.source = .own →
    (∀ p n, s.part.route.prog.state = .departed ∨ s.part.route.prog.state = .approaching →
      s.part.route.prog.p = some p → s.part.route.prog.n = some n →
      let e := min d (lEff s.part.route.stops s.part.unit.portionTag p n)
      let a := approachOf s.part.route.stops n
      ∃ t, exec (.position tag body) s = .next t ∧ Answered s t 0x10#8 tag .ok [] ∧
        (s.part.route.prog.state = .departed → t.part.route.prog.state = if e ≤ a then .approaching else .departed) ∧
        (s.part.route.prog.state = .approaching →
          t.part.route.prog.state = if a + s.part.host.params.hysteresis < e then .departed else .approaching) ∧
        t.part.route = { s.part.route with
          prog := { s.part.route.prog with state := t.part.route.prog.state, d := some e, stale := false } } ∧
        Only [.host, .route, .est, .tallies, .legs, .views, .seat, .panel, .disp, .events] s t) ∧
    (s.part.route.prog.state ≠ .departed → s.part.route.prog.state ≠ .approaching →
      ∃ t, exec (.position tag body) s = .next t ∧ Answered s t 0x10#8 tag .wrongState [] ∧ Only [.host] s t)) ∧
  (∀ (s : State) (tag : Byte) (body : List Byte) (d : Int), Accepts s tag → readPosition body = some d → d < 0 →
    ∃ t, exec (.position tag body) s = .next t ∧ Answered s t 0x10#8 tag .badField [] ∧ Only [.host] s t)

/-- ARRIVED brings a running train to a calling stop, or to a halt between calling stops, or is refused in order.
(Section 3.6.) That BAD_FIELD stands before BAD_TIME where a message fails both field checks is the model's choice
(log entry 66). -/
def Obligations.ArrivedBringsTheTrainToAStop : Prop :=
  (∀ (s : State) (tag : Byte) (body : List Byte) (k p : Nat) (x : ClockTime), Accepts s tag →
    readIndexTime body = some (k, x) → k ≤ 63 → x.day ≤ 1 → x.ok = true → s.part.route.prog.source = .own →
    s.part.route.prog.state = .departed ∨ s.part.route.prog.state = .approaching →
    s.part.route.prog.p = some p → p < k → k < s.part.route.stops.length →
    (∃ t, exec (.arrived tag body) s = .next t ∧
      (k ∈ s.part.route.ownSeq →
        Answered s t 0x0F#8 tag .ok [] ∧ t.part.route.prog.p = some k ∧
          t.part.route.prog.n = firstAfter s.part.route.ownSeq k ∧
          t.part.route.prog.state = (if (firstAfter s.part.route.ownSeq k).isSome then .standing else .terminated) ∧
          t.part.route.prog.arr = some (3600 * bcd x.hh + 60 * bcd x.mm + bcd x.ss + 86400 * x.day) ∧
          t.part.route.prog.dep = none ∧ t.part.route.prog.d = none ∧ t.part.route.prog.halt = none ∧
          t.part.route.prog.stale = false ∧ (t.part.route.prog.state = .terminated → t.part.res.legs = []) ∧
          (∀ l ∈ t.part.res.legs, k < l.till) ∧
          Only [.host, .route, .est, .tallies, .legs, .views, .seat, .panel, .disp, .events] s t) ∧
      (k ∉ s.part.route.ownSeq → k ≤ s.part.route.ownSeq.getLast?.getD 0 →
        let passed := s.part.route.ownSeq.filter fun i => decide (p < i) && decide (i < k)
        Answered s t 0x0F#8 tag .ok [] ∧ t.part.route.prog.state = .halted ∧ t.part.route.prog.halt = some k ∧
          t.part.route.prog.n = firstAfter s.part.route.ownSeq k ∧
          t.part.route.prog.p = some (passed.getLast?.getD p) ∧ t.part.route.prog.d = none ∧
          (passed ≠ [] → t.part.route.prog.arr = none ∧ t.part.route.prog.dep = none) ∧
          (passed = [] → t.part.route.prog.arr = s.part.route.prog.arr ∧ t.part.route.prog.dep = s.part.route.prog.dep) ∧
          Only [.host, .route, .est, .tallies, .legs, .views, .seat, .panel, .disp, .events] s t) ∧
      t.part.route.stops = s.part.route.stops ∧ t.part.route.ownSeq = s.part.route.ownSeq ∧
      t.part.route.clock = s.part.route.clock)) ∧
  (∀ (s : State) (tag : Byte) (body : List Byte) (k : Nat) (x : ClockTime), Accepts s tag →
    readIndexTime body = some (k, x) →
    let refused := fun r : Result =>
      ∃ t, exec (.arrived tag body) s = .next t ∧ Answered s t 0x0F#8 tag r [] ∧ Only [.host] s t
    (63 < k ∨ 1 < x.day → refused .badField) ∧
    (k ≤ 63 → x.day ≤ 1 → x.ok = false → refused .badTime) ∧
    (k ≤ 63 → x.day ≤ 1 → x.ok = true → s.part.route.prog.source = .own →
      (s.part.route.prog.state ≠ .departed → s.part.route.prog.state ≠ .approaching → refused .wrongState) ∧
      (∀ p, s.part.route.prog.state = .departed ∨ s.part.route.prog.state = .approaching → s.part.route.prog.p = some p →
        s.part.route.stops.length ≤ k ∨ k ≤ p ∨ (s.part.route.ownSeq.getLast?.getD 0 < k ∧ k ∉ s.part.route.ownSeq) →
        refused .badField)))

/-- LEG-ADD books a leg in the phase its position gives. (Section 6.1, section 6.2.) -/
def Obligations.LegAddBooksTheSeat : Prop :=
  ∀ (s : State) (tag : Byte) (body : List Byte) (x : LegReq), Accepts s tag → readLegAdd body = some x →
    ∃ t, exec (.legAdd tag body) s = .next t ∧
      match (legChecks x s.part).find? (·.1) with
      | some c => Answered s t 0x11#8 tag c.2 [] ∧ Only [.host] s t
      | none =>
        let l : Leg := {
          id := x.id, coach := x.coach, seat := x.seat, frm := x.frm, till := x.till, noRelease := x.flags == 1, state := .booked
          phase := if s.part.route.prog.p.getD 0 < x.frm then .ahead
                   else if s.part.route.prog.state = .standing ∧ sensorFitted s.part.unit x.coach x.seat = true then .opened
                   else .done }
        Answered s t 0x11#8 tag .ok [] ∧ t.part.res.legs.Perm (l :: s.part.res.legs) ∧
          t.part.res.releaseCount = s.part.res.releaseCount ∧ t.part.res.orphanCount = s.part.res.orphanCount ∧
          (∀ y ∈ s.part.res.legs, y.id ≠ x.id) ∧ Only [.host, .legs, .views, .tallies, .seat, .panel, .disp] s t

/-- LEG-CANCEL frees its leg, LEG-RESTORE books a released one again. (Section 6.2.) -/
def Obligations.LegCancelAndRestoreActOnTheirLeg : Prop :=
  (∀ (s : State) (tag : Byte) (body : List Byte) (i : Nat), Accepts s tag → readTwo body = some i →
    ∃ t, exec (.legCancel tag body) s = .next t ∧
      if i = 0 then Answered s t 0x12#8 tag .badField [] ∧ Only [.host] s t
      else if ∀ l ∈ s.part.res.legs, l.id ≠ i then Answered s t 0x12#8 tag .notFound [] ∧ Only [.host] s t
      else Answered s t 0x12#8 tag .ok [] ∧ t.part.res.legs = (s.part.res.legs.filter fun l => l.id != i) ∧
        t.part.res.releaseCount = s.part.res.releaseCount ∧ t.part.res.orphanCount = s.part.res.orphanCount ∧
        Only [.host, .legs, .views, .tallies, .seat, .panel, .disp] s t) ∧
  (∀ (s : State) (tag : Byte) (body : List Byte) (i : Nat) (l : Leg), Accepts s tag → readTwo body = some i → i ≠ 0 →
    legOf s.part.res i = some l →
    ∃ t, exec (.legRestore tag body) s = .next t ∧
      if l.state ≠ .released then Answered s t 0x13#8 tag .wrongState [] ∧ Only [.host] s t
      else if ¬ (l.frm ∈ s.part.route.ownSeq ∧ l.till ∈ s.part.route.ownSeq) then
        Answered s t 0x13#8 tag .offRoute [] ∧ Only [.host] s t
      else if ∃ y ∈ s.part.res.legs, y.active = true ∧ y.coach = l.coach ∧ y.seat = l.seat ∧ y.frm < l.till ∧ l.frm < y.till then
        Answered s t 0x13#8 tag .conflict [] ∧ Only [.host] s t
      else Answered s t 0x13#8 tag .ok [] ∧
        t.part.res.legs = (s.part.res.legs.map fun y => if y.id = i then { y with state := .booked, phase := .done } else y) ∧
        t.part.res.releaseCount = s.part.res.releaseCount ∧ t.part.res.orphanCount = s.part.res.orphanCount ∧
        Only [.host, .legs, .views, .tallies, .seat, .panel, .disp] s t) ∧
  (∀ (s : State) (tag : Byte) (body : List Byte) (i : Nat), Accepts s tag → readTwo body = some i →
    (i = 0 → ∃ t, exec (.legRestore tag body) s = .next t ∧ Answered s t 0x13#8 tag .badField [] ∧ Only [.host] s t) ∧
    (i ≠ 0 → (∀ l ∈ s.part.res.legs, l.id ≠ i) →
      ∃ t, exec (.legRestore tag body) s = .next t ∧ Answered s t 0x13#8 tag .notFound [] ∧ Only [.host] s t))

/-- NOTICE-RAISE fills the lowest empty slot of its level or is refused in order, NOTICE-CLEAR empties that of a local
notice; both are forwarded. (Section 8.5, section 5.8, section 5.4.) That an id which two other units carry is one
destination is the model's choice (log entry 90). -/
def Obligations.NoticesAreRaisedAndCleared : Prop :=
  (∀ (s : State) (tag : Byte) (body : List Byte) (x : RaiseReq) (i : Nat) (e : TextEntry), Accepts s tag →
    readNoticeRaise body = some x → raiseBad x = false → s.part.unit.coaches ≠ [] →
    textAt s.part.text x.handle = some e → findNotice s.part.panel none x.noticeId = none →
    firstEmpty (slotsOf s.part.panel (raiseLevel x)) = some i →
    ∃ t y, exec (.noticeRaise tag body) s = .next t ∧ slotAt t.part.panel (raiseLevel x) i = some y ∧
      (y.origin = none ∧ y.noticeId = x.noticeId ∧ y.subPriority = x.subPriority ∧ y.targets = raiseTargets x ∧
        y.handle = x.handle ∧ y.duration = x.duration ∧ y.remaining = if x.duration = 0 then none else some x.duration) ∧
      (∀ l j, (l, j) ≠ (raiseLevel x, i) → (slotAt t.part.panel l j).map (fun z => { z with rotation := {} }) =
        (slotAt s.part.panel l j).map (fun z => { z with rotation := {} })) ∧
      (∀ k, k ≠ x.handle → textAt t.part.text k = textAt s.part.text k) ∧
      let ds := destinations s.part (raiseTargets x)
      ds.Nodup ∧ (∀ u, u ∈ ds ↔ ∃ e ∈ otherUnits s.part, e.unitId = u ∧ match raiseTargets x with
        | .all => True
        | .unit => False
        | .coaches ns => ∃ b ∈ e.booked, b ∈ ns) ∧
      if ds = [] then
        Answered s t 0x16#8 tag .ok [] ∧ textAt t.part.text x.handle = some { e with refs := e.refs + 1 } ∧
          Only [.host, .text, .panel, .disp] s t
      else if s.part.form.queue.length < 16 then
        Waits s t 0x16#8 tag ∧ textAt t.part.text x.handle = some { e with refs := e.refs + 2 } ∧
          t.part.form = { s.part.form with
            queue := s.part.form.queue ++ [.noticeFwd tag]
            forwards := s.part.form.forwards ++ [{
              tag := tag, noticeId := x.noticeId
              raise := some { handle := x.handle, level := raiseLevel x, subPriority := x.subPriority
                              targets := raiseTargets x, duration := x.duration }
              dests := ds, number := none, awaited := [], full := [] }] } ∧
          Only [.host, .text, .form, .panel, .disp] s t
      else
        Answered s t 0x16#8 tag .linkFailed [] ∧ textAt t.part.text x.handle = some { e with refs := e.refs + 1 } ∧
          Only [.host, .text, .panel, .disp] s t) ∧
  (∀ (s : State) (tag : Byte) (body : List Byte) (id : Nat), Accepts s tag → readTwo body = some id →
    ∃ t, exec (.noticeClear tag body) s = .next t ∧
      let ds := clearDestinations s.part
      (ds.Nodup ∧ ∀ u, u ∈ ds ↔ ∃ e ∈ otherUnits s.part, e.unitId = u) ∧
      if id = 0 then Answered s t 0x17#8 tag .badField [] ∧ Only [.host] s t
      else if findNotice s.part.panel none id = none ∧ ds = [] then Answered s t 0x17#8 tag .notFound [] ∧ Only [.host] s t
      else
        (∀ l i, findNotice s.part.panel none id = some (l, i) → slotAt t.part.panel l i = none ∧
          ∀ x, slotAt s.part.panel l i = some x → t.part.text = release x.handle s.part.text) ∧
        (findNotice s.part.panel none id = none → t.part.panel = s.part.panel ∧ t.part.text = s.part.text) ∧
        if ds = [] then Answered s t 0x17#8 tag .ok [] ∧ Only [.host, .text, .panel, .disp] s t
        else if s.part.form.queue.length < 16 then
          Waits s t 0x17#8 tag ∧ Only [.host, .text, .form, .panel, .disp] s t ∧
            t.part.form = { s.part.form with
              queue := s.part.form.queue ++ [.noticeFwd tag]
              forwards := s.part.form.forwards ++ [{
                tag := tag, noticeId := id, raise := none, dests := ds, number := none, awaited := [], full := [] }] }
        else Answered s t 0x17#8 tag .linkFailed [] ∧ Only [.host, .text, .panel, .disp] s t) ∧
  (∀ (s : State) (tag : Byte) (body : List Byte) (x : RaiseReq), Accepts s tag → readNoticeRaise body = some x →
    let refused := fun r : Result =>
      ∃ t, exec (.noticeRaise tag body) s = .next t ∧ Answered s t 0x16#8 tag r [] ∧ Only [.host] s t
    let good := raiseBad x = false
    let known := textKnown s.part.text x.handle = true
    let new := findNotice s.part.panel none x.noticeId = none
    (¬ good → refused .badField) ∧ (good → s.part.unit.coaches = [] → refused .wrongState) ∧
    (good → s.part.unit.coaches ≠ [] → ¬ known → refused .notFound) ∧
    (good → s.part.unit.coaches ≠ [] → known → ¬ new → refused .conflict) ∧
    (good → s.part.unit.coaches ≠ [] → known → new → firstEmpty (slotsOf s.part.panel (raiseLevel x)) = none →
      refused .full))

/-- EVENT-CLEAR takes the kinds of its mask out of the latch set. (Section 11.5, section 6.5.) -/
def Obligations.EventClearUnlatchesItsKinds : Prop :=
  ∀ (s : State) (tag : Byte) (body : List Byte) (m : Nat), Accepts s tag → readTwo body = some m →
    ∃ t, exec (.eventClear tag body) s = .next t ∧
      if 2 ^ 14 ≤ m then Answered s t 0x1B#8 tag .badField [] ∧ Only [.host] s t
      else
        (∀ k, k < 14 → t.part.host.latched.getLsbD k = (s.part.host.latched.getLsbD k && !m.testBit k)) ∧
          t.part.res = { s.part.res with releaseCount := if m.testBit 9 then 0 else s.part.res.releaseCount
                                         orphanCount := if m.testBit 10 then 0 else s.part.res.orphanCount } ∧
          Answered s t 0x1B#8 tag .ok
            [byte (t.part.host.latched.toNat / 256), byte t.part.host.latched.toNat] ∧
          Only [.host, .events, .legs] s t

/-- RESTART is answered OK, and FRAME-SENT of that reply starts the part cold. (Section 10.6, section 11.1, section
11.2.) That the next frame begins in the step in which its line is free is log entry 10. -/
def Obligations.RestartIsAnsweredThenActs : Prop :=
  (∀ (s : State) (tag : Byte), Accepts s tag →
    ∃ t, exec (.restart tag []) s = .next t ∧ Answered s t 0x1C#8 tag .ok [] ∧ Only [.host] s t) ∧
  (∀ (s : State) (f : SentFrame), s.part.supply.mode = .run → s.part.host.sending = some f →
    ∃ t, exec .frameSent s = .next t ∧
      if f.kind = 0x9C#8 ∧ f.entry ≠ none then
        t.part = { form := { coupledRaw := s.part.form.coupledRaw, cab := s.part.form.cab }
                   supply := { mode := .coldStart, lastOff := .reset, clearing := !s.part.supply.resetAsserted
                               mainBroken := s.part.supply.mainBroken, mainMv := s.part.supply.mainMv
                               qualifying := s.part.supply.qualifying, retentionLow := s.part.supply.retentionLow
                               resetAsserted := s.part.supply.resetAsserted } } ∧ t.pending = s.pending
      else
        t.part.host.inFlight = (match f.entry with
          | some tag => s.part.host.inFlight.filter fun e => e.tag != tag
          | none => s.part.host.inFlight) ∧
        (s.part.host.queue = [] → t.part.host.sending = none ∧ t.part.host.queue = []) ∧
        (∀ k tag r rest, s.part.host.queue = .refusal tag k r :: rest → t.part.host.queue = rest ∧
          t.part.host.sending = some { kind := replyKind k, tag := tag, body := [byte r.code, 0#8], entry := none }) ∧
        Only [.host] s t)

/-- The request stage refuses a frame while four requests are in flight, or one carries its tag, or its kind is
unknown, or its body does not fit. (Section 11.1, section 11.2, section 11.4.) That only waiting refusals count is the
model's reading (log entry 9). That a frame begins in the step in which its line is free is log entry 10. -/
def Obligations.TheRequestStageRefusesInOrder : Prop :=
  ∀ (s : State) (c : Instr) (k tag : Byte) (body : List Byte), request c = some (k, tag, body) → s.part.supply.mode = .run →
    ∃ t, exec c s = .next t ∧
      ((s.part.host.queue.filter fun x => match x with
          | .refusal _ _ _ => true
          | _ => false).length < 3 →
        (4 ≤ s.part.host.inFlight.length → RefusedAtStage s t k tag .busy ∧ Only [.host] s t) ∧
        (s.part.host.inFlight.length < 4 → (∃ e ∈ s.part.host.inFlight, e.tag = tag) →
          RefusedAtStage s t k tag .conflict ∧ Only [.host] s t) ∧
        (Accepts s tag → c = .unknownKindFrame k tag body → RefusedAtStage s t k tag .unknownKind ∧ Only [.host] s t) ∧
        (Accepts s tag → c ≠ .unknownKindFrame k tag body → fitsKind k body = false →
          RefusedAtStage s t k tag .badField ∧ Only [.host] s t)) ∧
      (3 ≤ (s.part.host.queue.filter fun x => match x with
          | .refusal _ _ _ => true
          | _ => false).length →
        4 ≤ s.part.host.inFlight.length ∨ (∃ e ∈ s.part.host.inFlight, e.tag = tag) ∨ c = .unknownKindFrame k tag body ∨
          fitsKind k body = false →
        t.part.host.inFlight = s.part.host.inFlight ∧ Unanswered s t ∧
          (s.part.host.sending = none → ∃ k, 1 ≤ k ∧ t.part.host.queue = s.part.host.queue.drop k ∧
            t.part.host.sending = (s.part.host.queue[k - 1]?).map (sentFrame s.part)) ∧ Only [.host] s t)

/-- The receiver begins a frame at 0xA5, collects the bytes of a frame, and hunts again after a gap, a length above
1,024 or a CRC that does not fit. (Section 11.1.) That the byte that ends a frame stands in the command of that end,
and that a CRC error is taken in every receiver state, are the model's choice (log entry 21). -/
def Obligations.TheReceiverHuntsAndCollects : Prop :=

  ∀ s : State, s.part.supply.mode = .run →
    (∀ rest, s.part.host.receiver = .hunting → EndsNoFrame (0xA5#8 :: rest) →
      ∃ t, exec (.frameStartByte rest) s = .next t ∧ t.part.host.receiver = .inFrame ∧
        t.part.host.buffer = 0xA5#8 :: rest ∧ t.part.host.inFlight = s.part.host.inFlight ∧ Unanswered s t ∧
        Only [.host] s t) ∧
    (∀ rest, s.part.host.receiver = .inFrame → EndsNoFrame (s.part.host.buffer ++ 0xA5#8 :: rest) →
      ∃ t, exec (.frameStartByte rest) s = .next t ∧ t.part.host.receiver = .inFrame ∧
        t.part.host.buffer = s.part.host.buffer ++ 0xA5#8 :: rest ∧ t.part.host.inFlight = s.part.host.inFlight ∧
        Unanswered s t ∧ Only [.host] s t) ∧
    (s.part.host.receiver = .inFrame → ∃ t, exec .frameGapTimeout s = .next t ∧ t.part.host.receiver = .hunting ∧
      t.part.host.buffer = [] ∧ t.part.host.inFlight = s.part.host.inFlight ∧ Unanswered s t ∧ Only [.host] s t) ∧
    (∀ n, 1024 < n → s.part.host.receiver = .inFrame → ∃ t, exec (.frameLengthError n) s = .next t ∧
      t.part.host.receiver = .hunting ∧ t.part.host.buffer = [] ∧ t.part.host.inFlight = s.part.host.inFlight ∧
      Unanswered s t ∧ Only [.host] s t) ∧
    (∀ k tag body crc, crc ≠ crc16 ([byte (body.length / 256), byte body.length, k, tag] ++ body) →
      ∃ t, exec (.frameCrcError k tag body crc) s = .next t ∧ t.part.host.receiver = .hunting ∧ t.part.host.buffer = [] ∧
        t.part.host.inFlight = s.part.host.inFlight ∧ Unanswered s t ∧ Only [.host] s t)

/-- Main and retention supply act by mode: qualification, the status in RUN, OFF from a hold and from COLD_START, and
the return in OFF. (Section 10.1, section 10.2, section 10.6, section 10.11.) OFF at the cold values is the model's
reading (log entry 23); the levels as operands are its form (log entries 38 and 39). -/
def Obligations.SupplyInputsAct : Prop :=
  (∀ (s : State) (mv : Nat),
    (∃ t, exec (.mainLevelFall mv) s = .next t ∧ Only [.supply] s t ∧
      t.part.supply = { s.part.supply with
        mainMv := mv
        qualifying := if s.part.supply.mainBroken = true then s.part.supply.qualifying && decide (1250 < mv)
                      else s.part.supply.qualifying || decide (mv < 1100) }) ∧
    (∃ t, exec (.mainLevelRise mv) s = .next t ∧ Only [.supply] s t ∧
      t.part.supply = { s.part.supply with
        mainMv := mv
        qualifying := if s.part.supply.mainBroken = true then s.part.supply.qualifying || decide (1250 < mv)
                      else s.part.supply.qualifying && decide (mv < 1100) })) ∧
  (∀ s : State, s.part.supply.mode = .run →
    ∃ t, exec .retentionLow s = .next t ∧ Only [.supply] s t ∧ t.part.supply = { s.part.supply with retentionLow := true }) ∧
  (∀ s : State, s.part.supply.mode = .breakHold ∨ s.part.supply.mode = .extendedHold →
    ∃ t, exec .retentionLow s = .next t ∧ t.pending = s.pending ∧
      t.part = { form := { coupledRaw := s.part.form.coupledRaw, cab := s.part.form.cab }
                 supply := { mode := .off, lastOff := .retention, retentionLow := true
                             mainBroken := s.part.supply.mainBroken, mainMv := s.part.supply.mainMv
                             qualifying := s.part.supply.qualifying, resetAsserted := s.part.supply.resetAsserted } }) ∧
  (∀ s : State, s.part.supply.mode ≠ .off →
    ∃ t, exec .retentionOk s = .next t ∧ Only [.supply] s t ∧ t.part.supply = { s.part.supply with retentionLow := false }) ∧
  (∀ s : State, s.part.supply.mode = .coldStart →
    ∃ t, exec .retentionLow s = .next t ∧ t.pending = s.pending ∧
      if s.part.supply.mainBroken = true then
        t.part = { form := { coupledRaw := s.part.form.coupledRaw, cab := s.part.form.cab }
                   supply := { mode := .off, lastOff := s.part.supply.lastOff, retentionLow := true, mainBroken := true
                               mainMv := s.part.supply.mainMv, qualifying := s.part.supply.qualifying
                               resetAsserted := s.part.supply.resetAsserted } }
      else Only [.supply] s t ∧ t.part.supply = { s.part.supply with retentionLow := true }) ∧
  (∀ s : State, s.part.supply.mode = .coldStart → s.part.supply.mainBroken = false → s.part.supply.qualifying = true →
    s.part.supply.retentionLow = true →
    ∃ t, exec .mainBreak s = .next t ∧ t.pending = s.pending ∧
      t.part = { form := { coupledRaw := s.part.form.coupledRaw, cab := s.part.form.cab }
                 supply := { mode := .off, lastOff := s.part.supply.lastOff, retentionLow := true, mainBroken := true
                             mainMv := s.part.supply.mainMv, resetAsserted := s.part.supply.resetAsserted } }) ∧
  (∀ (s : State) (mv : Nat), s.part.supply.mode = .off → s.part.supply.mainBroken = true → s.part.supply.qualifying = true →
    ∃ t, exec (.mainReturn mv) s = .next t ∧ t.pending = s.pending ∧
      t.part = { form := { coupledRaw := s.part.form.coupledRaw, cab := s.part.form.cab }
                 supply := { mode := .coldStart, mainBroken := false, mainMv := s.part.supply.mainMv
                             retentionLow := decide (mv < 2900), resetAsserted := s.part.supply.resetAsserted
                             clearing := !s.part.supply.resetAsserted
                             lastOff := if s.part.supply.resetAsserted = true then .reset else s.part.supply.lastOff } }) ∧
  (∀ (s : State), s.part.supply.mode = .coldStart → s.part.supply.qualifying = true →
    (s.part.supply.mainBroken = false → s.part.supply.retentionLow = false →
      ∃ t, exec .mainBreak s = .next t ∧ Only [.supply] s t ∧
        t.part.supply = { s.part.supply with mainBroken := true, qualifying := false }) ∧
    (∀ mv, s.part.supply.mainBroken = true →
      ∃ t, exec (.mainReturn mv) s = .next t ∧ Only [.supply] s t ∧
        t.part.supply = { s.part.supply with mainBroken := false, qualifying := false }))

/-- A qualified break in RUN takes the part to BREAK_HOLD, or to OFF at the break limit or with LOW retention.
(Section 10.3, section 10.7, section 5.10, section 9.9.) OFF at the cold values is the model's reading (log entry 23).
-/
def Obligations.ABreakInRunHoldsOrEndsTheState : Prop :=
  ∀ s : State, s.part.supply.mode = .run → s.part.supply.mainBroken = false → s.part.supply.qualifying = true →
    ∃ t, exec .mainBreak s = .next t ∧ t.part.supply.mainBroken = true ∧ t.part.supply.qualifying = false ∧
      if s.part.host.params.breakLimit ≠ 0 ∧ s.part.supply.breakCount = s.part.host.params.breakLimit then
        t.part = { form := { coupledRaw := s.part.form.coupledRaw, cab := s.part.form.cab }
                   supply := { mode := .off, lastOff := .limit, mainBroken := true, mainMv := s.part.supply.mainMv
                               retentionLow := s.part.supply.retentionLow, resetAsserted := s.part.supply.resetAsserted } }
      else if s.part.supply.retentionLow = true then
        t.part = { form := { coupledRaw := s.part.form.coupledRaw, cab := s.part.form.cab }
                   supply := { mode := .off, lastOff := .retention, mainBroken := true, mainMv := s.part.supply.mainMv
                               retentionLow := true, resetAsserted := s.part.supply.resetAsserted } }
      else
        t.part.supply = { s.part.supply with mode := .breakHold, settle := none, hold := some s.part.host.params.holdLimit
                                             mainBroken := true, qualifying := false } ∧
        t.part.host = { receiver := .hunting, buffer := [], inFlight := [], queue := [], sending := none
                        latched := s.part.host.latched, params := s.part.host.params } ∧
        t.part.disp.inFlight = none ∧ t.part.disp.table = s.part.disp.table ∧
        (t.part.form.queue = [] ∧ t.part.form.forwards = [] ∧ t.part.form.late = [] ∧ t.part.form.spacing = false ∧
          t.part.form.tallyPending = false ∧ t.part.form.beaconLoss = none ∧ t.part.form.absence = [] ∧
          t.part.form.rollCall = none ∧ t.part.form.debounce = { a := none, b := none } ∧
          t.part.form.role = s.part.form.role ∧ t.part.form.record = s.part.form.record ∧
          t.part.form.trainTally = s.part.form.trainTally) ∧
        Only [.supply, .host, .disp, .form, .tallies, .text] s t

/-- A qualified return in a hold is a warm return that keeps the state. (Section 10.4, section 10.5, section 10.7,
section 3.9, section 5.5, section 5.10, section 7.8, section 9.9, section 1.7.) That a part which returns LEADING
without a qualifying end yields is log entry 36. -/
def Obligations.AReturnFromAHoldIsWarm : Prop :=
  ∀ (s : State) (mv : Nat), s.part.supply.mode = .breakHold ∨ s.part.supply.mode = .extendedHold →
    s.part.supply.mainBroken = true → s.part.supply.qualifying = true →
    ∃ t, exec (.mainReturn mv) s = .next t ∧ t.pending = s.pending ∧
      t.part.supply = { s.part.supply with
        mode := .run, mainBroken := false, qualifying := false, hold := none, extHold := none, settle := some 0
        breakCount := min 15 (s.part.supply.breakCount + 1)
        startCause := if s.part.supply.mode = .extendedHold then .warmExtended else .warm } ∧
      t.part.host.latched.getLsbD 0 = true ∧ t.part.host.params = s.part.host.params ∧
      t.part.unit = { s.part.unit with staging := none } ∧
      t.part.route.stops = s.part.route.stops ∧ t.part.route.id = s.part.route.id ∧ t.part.route.clock = s.part.route.clock ∧
      t.part.route.ownSeq = s.part.route.ownSeq ∧ t.part.res.legs = s.part.res.legs ∧
      t.part.disp.table.map (·.addr) = s.part.disp.table.map (·.addr) ∧
      let kept := fun x : Slot => { x with rotation := { pages := [], index := 0, lang := 0, dwell := 0, inUse := false } }
      (∀ e ∈ t.part.disp.table, e.present = true ∧ e.miss = 0 ∧ e.shown = none ∧ e.probeTime = none) ∧
      (∀ c p x, sensorAt t.part.seat c p = some x → x = { occupied := false, run := 0, age := none, frozen := false }) ∧
      (s.part.supply.mode = .breakHold →
        t.part.route.prog = { s.part.route.prog with source := t.part.route.prog.source } ∧
        t.part.text = s.part.text ∧
        t.part.panel.staff.map (·.map kept) = s.part.panel.staff.map (·.map kept) ∧
        t.part.panel.service.map (·.map kept) = s.part.panel.service.map (·.map kept) ∧
        t.part.form.role = (if (s.part.form.role = .leading ∨ s.part.form.role = .formingLeader) ∧
          qualifyingEnd s.part.form = none then .formingFollower else s.part.form.role) ∧
        t.part.form.record.epoch = s.part.form.record.epoch ∧
        (s.part.form.role ≠ .standalone ∨ qualifyingEnd s.part.form = s.part.form.qualEnd →
          t.part.form.record = s.part.form.record)) ∧
      (s.part.supply.mode = .extendedHold → t.part.form.role = .standalone ∧
        t.part.form.record.epoch = s.part.form.record.epoch ∧
        t.part.form.record.units = [ownEntryNow { s.part with form := t.part.form }] ∧
        (∀ h, h < 192 → ((textAt t.part.text h).map fun e => (e.v0, e.v1, e.v2)) =
          (textAt s.part.text h).map fun e => (e.v0, e.v1, e.v2)) ∧
        (∀ (l : NoticeLevel) (i : Nat), i < 4 → (slotAt t.part.panel l i).map kept =
          match slotAt s.part.panel l i with
          | some x =>
            if x.origin = none ∨ x.origin = some s.part.unit.unitId then some (kept x) else none
          | none => none) ∧
        t.part.route.prog.p = s.part.route.prog.p ∧ t.part.route.prog.n = s.part.route.prog.n ∧
        (underWay s.part.route.prog.state = true → t.part.route.prog.stale = true ∧ t.part.route.prog.d = none ∧
          t.part.host.latched.getLsbD 7 = true ∧
          t.part.route.prog.state =
            if s.part.route.prog.state = .approaching then .departed else s.part.route.prog.state))

/-- The hold times end in EXTENDED_HOLD and OFF, the clearing in RUN or OFF; the reset input starts the part cold; the
settle limit returns the break count to 0. (Section 10.2, section 10.3, section 10.5, section 10.6, section 10.7,
section 5.1.) OFF at the cold values is the model's reading (log entry 23), the qualifying end at the end of the
clearing log entry 36. -/
def Obligations.SupplyTimesAndResetAct : Prop :=
  (∀ (s : State) (n : Nat), s.part.supply.mode = .breakHold → s.part.supply.hold = some n →
    ∃ t, exec .holdTimeExpiry s = .next t ∧ Only [.supply] s t ∧
      t.part.supply = { s.part.supply with mode := .extendedHold, hold := none
                                           extHold := some (60 * s.part.host.params.extHoldLimit) }) ∧
  (∀ (s : State) (n : Nat), s.part.supply.mode = .extendedHold → s.part.supply.extHold = some n →
    ∃ t, exec .extendedHoldExpiry s = .next t ∧ t.pending = s.pending ∧
      t.part = { form := { coupledRaw := s.part.form.coupledRaw, cab := s.part.form.cab }
                 supply := { mode := .off, lastOff := .expired, mainBroken := s.part.supply.mainBroken
                             mainMv := s.part.supply.mainMv, qualifying := s.part.supply.qualifying
                             retentionLow := s.part.supply.retentionLow, resetAsserted := s.part.supply.resetAsserted } }) ∧
  (∀ s : State, s.part.supply.mode = .coldStart → s.part.supply.clearing = true →
    ∃ t, exec .clearingEnd s = .next t ∧ t.pending = s.pending ∧
      if s.part.supply.mainBroken = true then
        t.part = { form := { coupledRaw := s.part.form.coupledRaw, cab := s.part.form.cab }
                   supply := { mode := .off, lastOff := s.part.supply.lastOff, mainBroken := true
                               mainMv := s.part.supply.mainMv, qualifying := s.part.supply.qualifying
                               retentionLow := s.part.supply.retentionLow, resetAsserted := s.part.supply.resetAsserted } }
      else
        t.part.supply = { s.part.supply with mode := .run, clearing := false, settle := some 0, startCause := .cold } ∧
        t.part.host.latched = s.part.host.latched ||| 1#14 ∧ t.part.host.params = s.part.host.params ∧
        t.part.form.coupled = s.part.form.coupledRaw ∧
        t.part.form.qualEnd = (if s.part.form.cab.a && !s.part.form.coupledRaw.a then some .a
          else if s.part.form.cab.b && !s.part.form.coupledRaw.b then some .b else none) ∧
        Only [.supply, .host, .events, .form, .panel, .disp] s t) ∧
  (∀ s : State, ∃ t, exec .resetAssert s = .next t ∧ t.pending = s.pending ∧
    if s.part.supply.mode = .off then
      Only [.supply] s t ∧ t.part.supply = { s.part.supply with resetAsserted := true }
    else
      t.part = { form := { coupledRaw := s.part.form.coupledRaw, cab := s.part.form.cab }
                 supply := { mode := .coldStart, lastOff := .reset, resetAsserted := true, clearing := false
                             mainBroken := s.part.supply.mainBroken, mainMv := s.part.supply.mainMv
                             qualifying := s.part.supply.qualifying, retentionLow := s.part.supply.retentionLow } }) ∧
  (∀ s : State, s.part.supply.resetAsserted = true →
    ∃ t, exec .resetRelease s = .next t ∧ Only [.supply] s t ∧
      t.part.supply = { s.part.supply with
        resetAsserted := false
        clearing := s.part.supply.clearing || decide (s.part.supply.mode = .coldStart) }) ∧
  (∀ (s : State) (n : Nat), s.part.supply.mode = .run → s.part.supply.settle = some n →
    ∃ t, exec .settleLimitReached s = .next t ∧ Only [.supply] s t ∧
      t.part.supply = { s.part.supply with breakCount := 0, settle := none })

/-- A reached claim deadline claims, releases or defers its leg; a poll claims a waited-for leg or releases a deferred
one. (Section 6.4, section 6.5, section 7.2.) What CLAIM-DEADLINE does for a leg without a reached deadline is log
entry 7. -/
def Obligations.DeadlinesAndPollsDecideTheLegs : Prop :=
  (∀ (s : State) (i : Nat), ∃ t, exec (.claimDeadline i) s = .next t ∧
    t.part.res.legs = (s.part.res.legs.map fun l =>
      match l.phase with
      | .timed d =>
        if l.id = i ∧ d ≤ s.part.route.clock then
          if s.part.supply.mode = .run ∧ evidenceFresh s.part.seat l.coach l.seat = true then
            (if seatOccupied s.part.seat l.coach l.seat = true then { l with state := .claimed, phase := .done }
             else { l with state := .released, phase := .done })
          else { l with phase := .deferred 0 }
        else l
      | _ => l) ∧
    ((∃ l ∈ s.part.res.legs, l.id = i ∧ l.state ≠ .released ∧ (∃ d, l.phase = .timed d ∧ d ≤ s.part.route.clock) ∧
        s.part.supply.mode = .run ∧ evidenceFresh s.part.seat l.coach l.seat = true ∧
        seatOccupied s.part.seat l.coach l.seat = false) → t.part.host.latched.getLsbD 9 = true) ∧
    t.part.res.releaseCount = (let gone := s.part.res.legs.filter fun l =>
          l.id == i && l.state != .released && (match l.phase with
            | .timed d => decide (d ≤ s.part.route.clock)
            | _ => false) &&
          s.part.supply.mode == .run && evidenceFresh s.part.seat l.coach l.seat && !seatOccupied s.part.seat l.coach l.seat
      if gone = [] then s.part.res.releaseCount else min 65535 (s.part.res.releaseCount + gone.length)) ∧
    t.part.res.orphanCount = s.part.res.orphanCount ∧
    Only [.legs, .views, .tallies, .seat, .panel, .disp, .events, .host] s t) ∧
  (∀ (s : State) (a : EpAddr) (e : EpEntry) (held : Option Nat) (raw : Nat), s.part.supply.mode = .run →
    epAt s.part.disp a = some e → s.part.disp.inFlight = some (.poll, a) → a.kind = .seat →
    sensorFitted s.part.unit a.coach a.number = true →
    let full := ((sensorAt s.part.seat a.coach a.number).map (afterReading s.part.host.params (min raw 63))).any (·.occupied)
    ∃ t, exec (.pollReply a held (.level raw)) s = .next t ∧
      t.part.res.legs = (s.part.res.legs.map fun l =>
        if l.coach = a.coach ∧ l.seat = a.number ∧ l.state = .booked then
          match l.phase with
          | .opened => if full = true then { l with state := .claimed, phase := .done } else l
          | .timed _ => if full = true then { l with state := .claimed, phase := .done } else l
          | .deferred n =>
            if full = true then { l with state := .claimed, phase := .done }
            else if 1 ≤ n then { l with state := .released, phase := .done }
            else { l with phase := .deferred (n + 1) }
          | _ => l
        else l) ∧
      ((∃ l ∈ s.part.res.legs, l.coach = a.coach ∧ l.seat = a.number ∧ l.state = .booked ∧ full = false ∧
          ∃ n, l.phase = .deferred n ∧ 1 ≤ n) → t.part.host.latched.getLsbD 9 = true) ∧
      t.part.res.releaseCount = (let gone := s.part.res.legs.filter fun l =>
            l.coach == a.coach && l.seat == a.number && l.state == .booked && !full && (match l.phase with
              | .deferred n => decide (1 ≤ n)
              | _ => false)
        if gone = [] then s.part.res.releaseCount else min 65535 (s.part.res.releaseCount + gone.length)) ∧
      t.part.res.orphanCount = s.part.res.orphanCount)

/-- COUPLED and CAB-ACTIVE senses: debounce, coupling event, qualifying end. (Section 5.1, section 5.3, section 5.5.)
That the whole line queue empties at a separation is log entry 89. -/
def Obligations.SensesStartAndEndTheDebounce : Prop :=
  ∀ (s : State) (e : UnitEnd), s.part.supply.mode = .run →
    (∀ c, ∃ t, exec (.coupledSenseChange e c) s = .next t ∧ Only [.form] s t ∧
      t.part.form = { s.part.form with
        coupledRaw := s.part.form.coupledRaw.set e c
        debounce := if s.part.form.coupledRaw.get e = c then s.part.form.debounce
                    else s.part.form.debounce.set e
                      (if s.part.form.coupled.get e = c then none else some (500 * 2 ^ s.part.host.params.debounce)) }) ∧
    ((s.part.form.debounce.get e).isSome = true → ∃ t, exec (.couplingEvent e) s = .next t ∧
      let f := { s.part.form with coupled := s.part.form.coupled.set e (s.part.form.coupledRaw.get e)
                                  debounce := s.part.form.debounce.set e none }
      t.part.form.coupled = f.coupled ∧ t.part.form.debounce = f.debounce ∧ Only [.host, .text, .source, .form, .tallies, .seat, .panel, .disp] s t ∧
      (s.part.form.role = .following → f.coupled.a = true ∨ f.coupled.b = true → Only [.form] s t ∧
        t.part.form = { f with qualEnd := qualifyingEnd f
                               queue := if f.queue.length < 16 then f.queue ++ [.formationReq] else f.queue }) ∧
      (qualifyingEnd f ≠ none → s.part.form.role = .leading → Only [.form] s t ∧
        t.part.form = { f with qualEnd := qualifyingEnd f, rollPending := true }) ∧
      (qualifyingEnd f ≠ none → s.part.form.role = .formingLeader → Only [.form] s t ∧
        t.part.form = { f with qualEnd := qualifyingEnd f, rollAgain := true }) ∧
      (qualifyingEnd f = none → s.part.form.qualEnd ≠ none →
        s.part.form.role = .leading ∨ s.part.form.role = .formingLeader → f.coupled.a = true ∨ f.coupled.b = true →
        t.part.form.role = .formingFollower ∧ t.part.form.record = s.part.form.record ∧ t.part.form.rollCall = none ∧
          t.part.form.windowOpen = false ∧ t.part.form.beaconLoss = some (s.part.host.params.holdLimit + 2)) ∧
      (s.part.form.role = .following ∨ s.part.form.role = .formingFollower ∨ s.part.form.role = .isolated →
        f.coupled.a = false → f.coupled.b = false →
        t.part.form.role = .standalone ∧ t.part.form.queue = [] ∧ t.part.form.forwards = [] ∧
          t.part.form.record.epoch = s.part.form.record.epoch ∧ t.part.form.record.units.length = 1)) ∧
    (∀ a, ∃ t, exec (.cabActiveChange e a) s = .next t ∧ Only [.source, .form, .tallies, .seat, .panel, .disp] s t ∧
      let cab := s.part.form.cab.set e a
      let q : Option UnitEnd := if cab.a = true ∧ s.part.form.coupled.a = false then some .a
        else if cab.b = true ∧ s.part.form.coupled.b = false then some .b else none
      t.part.form.cab = cab ∧ t.part.form.qualEnd = q ∧
        (s.part.form.role = .leading ∨ s.part.form.role = .formingLeader → t.part.form.record = s.part.form.record) ∧
        t.part.form.role = if (s.part.form.role = .leading ∨ s.part.form.role = .formingLeader) ∧ q = none ∧
          s.part.form.qualEnd ≠ none then .formingFollower else s.part.form.role)

/-- CLAIM, ROLL-CALL, ROLL-SENSED and ROLL-ANSWER at the parts of a train. (Section 5.3, section 5.5, section 5.7.)
That the count of the claim's beacon is the held count plus one, 1 after a cold start, is the model's choice (log
entry 63). -/
def Obligations.ClaimsAndRollCallsTravelTheTrain : Prop :=
  (∀ (s : State) (e : UnitEnd), s.part.supply.mode = .run → s.part.form.role ≠ .leading → s.part.form.role ≠ .formingLeader →
    s.part.form.qualEnd = some e →
    ∃ t, exec .claim s = .next t ∧ Only [.source, .form, .tallies, .seat, .panel, .disp, .line] s t ∧
      t.part.form.role = .formingLeader ∧ t.part.form.rollCall = some [] ∧ t.part.form.record = s.part.form.record ∧
      t.part.form.cycleCount = (s.part.form.cycleCount + 1) % 65536 ∧ t.part.form.drive.get e = false ∧
      t.part.form.drive.get e.other = s.part.form.coupled.get e.other ∧ t.part.route.prog.source = .own ∧
      t.part.out.line = [.beacon (beaconOf s.part ((s.part.form.cycleCount + 1) % 65536)),
        .rollCall s.part.unit.unitId s.part.form.record.epoch]) ∧
  (∀ (s : State) (u ep : Nat), s.part.supply.mode = .run → s.part.form.role ≠ .leading → s.part.form.role ≠ .formingLeader →
    ∃ t, exec (.rollCall u ep) s = .next t ∧ Only [.source, .form, .tallies, .seat, .panel, .disp] s t ∧
      t.part.route.prog.source = .own ∧
      t.part.form = { s.part.form with
        role := .formingFollower, waiting := true, rollFront := none, heardAnswers := 0, drive := { a := false, b := false }
        beaconLoss := some (s.part.host.params.holdLimit + 2), trainTally := t.part.form.trainTally }) ∧
  (∀ (s : State) (e : UnitEnd), s.part.supply.mode = .run → s.part.form.role = .formingFollower →
    s.part.form.waiting = true →
    ∃ t, exec (.rollSensed e) s = .next t ∧ Only [.form, .line] s t ∧
      t.part.form = { s.part.form with waiting := false, rollFront := some e, drive := t.part.form.drive } ∧
      t.part.form.drive.get e = false ∧ t.part.form.drive.get e.other = s.part.form.coupled.get e.other ∧
      t.part.out.line = [.rollAnswer {
        position := 2 + s.part.form.heardAnswers, unitId := s.part.unit.unitId, booked := s.part.unit.coaches.map (·.booked)
        portion := s.part.unit.portionTag, route := routeInForce s.part.route, front := e }]) ∧
  (∀ (s : State) (f : RollAnswerFrame), s.part.supply.mode = .run → s.part.form.role = .formingFollower →
    ∃ t, exec (.rollAnswer f) s = .next t ∧ Only [.form] s t ∧
      t.part.form = { s.part.form with heardAnswers := s.part.form.heardAnswers + 1 })

/-- Two answers or the silence close a roll call, and a FORMATION frame lists its followers or parts with them.
(Section 5.5, section 5.6, section 5.7.) Which of two answers of one position stands is the model's choice (log entry
37), and so is that the leader's own entry takes the qualifying end as it is when the roll call closes (log entry 58).
That the whole line queue empties at a separation is log entry 89. -/
def Obligations.ARollCallClosesInAFormation : Prop :=
  (∀ (s : State) (f : RollAnswerFrame), s.part.supply.mode = .run → s.part.form.role = .formingLeader →
    (s.part.form.rollCall = some [] → ∃ t, exec (.rollAnswer f) s = .next t ∧ Only [.form] s t ∧
      t.part.form = { s.part.form with rollCall := some [f] }) ∧
    (∀ g, s.part.form.rollCall = some [g] → g.position = f.position →
      ∃ t, exec (.rollAnswer f) s = .next t ∧ Only [.form] s t ∧ t.part.form = { s.part.form with rollCall := some [f] }) ∧
    (∀ g, s.part.form.rollCall = some [g] → g.position ≠ f.position →
      ∃ t, exec (.rollAnswer f) s = .next t ∧
        Only [.host, .text, .source, .form, .tallies, .seat, .panel, .disp, .events, .line] s t ∧
        RollCallClosed s t (if g.position < f.position then [g, f] else [f, g]))) ∧
  (∀ (s : State) (l : List RollAnswerFrame), s.part.supply.mode = .run → s.part.form.role = .formingLeader →
    s.part.form.rollCall = some l →
    ∃ t, exec .rollAnswerSilence s = .next t ∧
      Only [.host, .text, .source, .form, .tallies, .seat, .panel, .disp, .events, .line] s t ∧ RollCallClosed s t l) ∧
  (∀ (s : State) (leader ep : Nat) (units : List UnitEntry), s.part.supply.mode = .run →
    s.part.form.role = .formingFollower →
    ∃ t, exec (.formation leader ep units) s = .next t ∧
      Only [.host, .text, .source, .form, .tallies, .seat, .panel, .disp, .events] s t ∧
      t.part.form.forwards = [] ∧ t.part.form.late = [] ∧ t.part.form.waiting = false ∧
      t.part.form.drive = { a := false, b := false } ∧
      ((∃ u ∈ units, u.unitId = s.part.unit.unitId) →
        t.part.form.role = .following ∧ t.part.form.record.epoch = ep ∧ t.part.form.record.units = units ∧
          1 ≤ t.part.form.record.ownIndex ∧
          (units[t.part.form.record.ownIndex - 1]?).map (·.unitId) = some s.part.unit.unitId ∧
          t.part.form.beaconLoss = some (s.part.host.params.holdLimit + 2) ∧ t.part.host.latched.getLsbD 1 = true ∧
          (∀ l i x o, i < 4 → slotAt s.part.panel l i = some x → x.origin = some o → (∀ u ∈ units, u.unitId ≠ o) →
            slotAt t.part.panel l i = none) ∧
          t.part.form.queue = if 2 ≤ units.length then [.tally] else []) ∧
      ((∀ u ∈ units, u.unitId ≠ s.part.unit.unitId) →
        t.part.form.role = .standalone ∧ t.part.form.queue = [] ∧ t.part.host.latched.getLsbD 3 = true ∧
          (∀ l i x o, i < 4 → slotAt s.part.panel l i = some x → x.origin = some o → o ≠ s.part.unit.unitId →
            slotAt t.part.panel l i = none) ∧
          t.part.form.record = { epoch := s.part.form.record.epoch, units := [ownEntryNow s.part], ownIndex := 1 }))

/-- A LEADING part beacons, collects requests and grants the line to the highest. (Section 5.4, section 5.5.) The own
GRANT frame and the list of units whose grant has ended are log entry 31, the fields of FORMATION_REQ log entry 41.
That a cycle which starts a roll call ends the grant too is log entry 31; that a beacon's count is the held count plus
one, 1 after a cold start, is log entry 63. -/
def Obligations.TheLeaderRunsTheLineCycle : Prop :=
  (∀ s : State, s.part.supply.mode = .run → s.part.form.role = .leading →
    (s.part.form.rollPending = false → ∃ t, exec .lineCycle s = .next t ∧ Only [.form, .line] s t ∧
      t.part.form = { s.part.form with
        cycleCount := (s.part.form.cycleCount + 1) % 65536, windowOpen := true, responses := []
        grant := none, ended := endedThen s.part.form } ∧
      t.part.out.line = [.beacon (beaconOf s.part ((s.part.form.cycleCount + 1) % 65536))]) ∧
    (s.part.form.rollPending = true → s.part.form.qualEnd ≠ none →
      ∃ t, exec .lineCycle s = .next t ∧ Only [.source, .form, .line] s t ∧ t.part.form.role = .formingLeader ∧
        t.part.form.rollCall = some [] ∧ t.part.form.record = s.part.form.record ∧
        t.part.form.grant = none ∧ t.part.form.ended = endedThen s.part.form ∧
        t.part.out.line = [.rollCall s.part.unit.unitId s.part.form.record.epoch]) ∧
    (∀ u c l, s.part.form.windowOpen = true → c = s.part.form.cycleCount →
      (∃ e ∈ s.part.form.record.units.tail, e.unitId = u) →
      ∃ t, exec (.windowResponse u c l) s = .next t ∧ Only [.form] s t ∧
        t.part.form = { s.part.form with responses := t.part.form.responses, absence := t.part.form.absence } ∧
        assocGet u t.part.form.responses = some l ∧
        (∀ v, v ≠ u → assocGet v t.part.form.responses = assocGet v s.part.form.responses) ∧
        (u, s.part.host.params.holdLimit) ∈ t.part.form.absence) ∧
    (s.part.form.windowOpen = true → ∃ t, exec .openSlotMark s = .next t ∧ Only [.form] s t ∧
      t.part.form = { s.part.form with rollPending := true }) ∧
    (∀ u, (∃ e ∈ s.part.form.record.units.tail, e.unitId = u) → u ∉ s.part.form.ended →
      ∃ t, exec (.formationReq u s.part.form.record.epoch) s = .next t ∧ Only [.form] s t ∧
        t.part.form = { s.part.form with rollPending := true, absence := t.part.form.absence } ∧
        (u, s.part.host.params.holdLimit) ∈ t.part.form.absence) ∧
    (s.part.form.windowOpen = true →
      let r := (s.part.unit.unitId, queueLevel s.part.form.queue) ::
        s.part.form.record.units.tail.map fun e => (e.unitId, (assocGet e.unitId s.part.form.responses).getD 0)
      ∃ t, exec .requestWindowEnd s = .next t ∧ Only [.form, .tallies, .line] s t ∧ t.part.form.windowOpen = false ∧
        ((∀ x ∈ r, x.2 = 0) → t.part.out.line = [] ∧ t.part.form = { s.part.form with windowOpen := false }) ∧
        (∀ i u l, r[i]? = some (u, l) → 0 < l →
          (∀ (j v m : Nat), r[j]? = some (v, m) → m ≤ l ∧ (m = l → i ≤ j)) →
          t.part.out.line.head? = some (.grant s.part.unit.unitId u s.part.form.cycleCount) ∧
          (u = s.part.unit.unitId → t.part.form.grant = none ∧ t.part.out.line.getLast? = some .release ∧
            ∀ v, v ∈ t.part.form.ended ↔ v = u ∨ v ∈ endedThen s.part.form) ∧
          (u ≠ s.part.unit.unitId → t.part.out.line.length = 1 ∧
            t.part.form = { s.part.form with
              windowOpen := false, grant := some u, ended := (endedThen s.part.form).filter fun v => v != u })))) ∧
  (∀ s : State, s.part.supply.mode = .run → ∃ t, exec .releaseMark s = .next t ∧ Only [.form] s t ∧
    t.part.form = { s.part.form with grant := none, ended := endedThen s.part.form })

/-- A FOLLOWING or ISOLATED part takes clock, source and progress from its leader's beacon and answers it; other parts
mark the open slot. (Section 3.4, section 3.7, section 5.4, section 5.5, section 5.7.) That a beacon ends the grant in
force is log entry 31; that an ISOLATED part whose record lists itself alone marks the slot even at a matching beacon
is the model's reading (log entry 49), and that a beacon heard by a part that only marks leaves route and source alone
is log entry 46. That a part which only marks holds that beacon's count for the GRANT to come is log entry 67. -/
def Obligations.AFollowerTakesItsLeadersBeacon : Prop :=
  (∀ (s : State) (f : BeaconFrame), s.part.supply.mode = .run →
    s.part.form.role = .following ∨ (s.part.form.role = .isolated ∧ 2 ≤ s.part.form.record.units.length) →
    f.leader = leaderId s.part.form.record → f.epoch = s.part.form.record.epoch →
    ∃ t, exec (.beacon f) s = .next t ∧
      Only [.route, .source, .est, .form, .tallies, .legs, .views, .seat, .panel, .disp, .events, .host, .line] s t ∧
      t.part.form.role = .following ∧ t.part.form.record = s.part.form.record ∧
      t.part.form.beaconLoss = some (s.part.host.params.holdLimit + 2) ∧ t.part.form.heardCycle = some f.cycle ∧
      t.part.out.line = [.response s.part.unit.unitId f.cycle (queueLevel t.part.form.queue)] ∧
      t.part.route.stops = s.part.route.stops ∧ t.part.route.ownSeq = s.part.route.ownSeq ∧
      (f.clockSet = true → t.part.route.clock = f.clock ∧ (f.clock ≠ s.part.route.clock → t.part.route.clockSet = true)) ∧
      (f.clockSet = false → t.part.route.clock = s.part.route.clock ∧ t.part.route.clockSet = s.part.route.clockSet) ∧
      t.part.route.prog.source = (if routeInForce s.part.route ≠ 0 ∧ f.route = routeInForce s.part.route then .beacon else .own) ∧
      (t.part.route.prog.source = .own →
        t.part.route.prog = { s.part.route.prog with source := .own } ∧
        (f.route ≠ routeInForce s.part.route → s.part.route.mismatchEpoch ≠ some f.epoch →
          t.part.host.latched.getLsbD 6 = true ∧ t.part.route.mismatchEpoch = some f.epoch)) ∧
      (t.part.route.prog.source = .beacon →
        match placeSnapshot s.part.route.ownSeq f.snap with
        | some y =>
          let k := s.part.unit.portionTag
          let d := if (y.state = .departed ∨ y.state = .approaching) ∧ f.snap.n = y.n then
              f.snap.d.map fun v => min v (lEff s.part.route.stops k y.p (y.n.getD 0)) else none
          let a := approachOf s.part.route.stops (y.n.getD 0)
          t.part.route.prog = {
            state := match d with
              | some v =>
                if s.part.route.prog.state = .approaching then
                  (if a + s.part.host.params.hysteresis < v then .departed else .approaching)
                else (if v ≤ a then .approaching else .departed)
              | none => y.state
            p := some y.p, n := y.n, halt := y.halt, d := d
            arr := if f.snap.p = some y.p then f.snap.arr else none
            dep := if f.snap.p = some y.p then f.snap.dep else none
            stale := f.snap.stale, source := .beacon }
        | none => t.part.route.prog = { s.part.route.prog with source := .beacon })) ∧
  (∀ (s : State) (f : BeaconFrame), s.part.supply.mode = .run →
    (s.part.form.role = .standalone ∨ (s.part.form.role = .isolated ∧
        ¬ (f.leader = leaderId s.part.form.record ∧ f.epoch = s.part.form.record.epoch ∧
          2 ≤ s.part.form.record.units.length)) →
      ∃ t, exec (.beacon f) s = .next t ∧ Only [.form, .line] s t ∧ t.part.out.line = [.mark] ∧
        t.part.form = { s.part.form with heardCycle := some f.cycle, grant := none, ended := endedThen s.part.form }) ∧
    (s.part.form.role = .formingFollower ∨ (s.part.form.role = .following ∧
        ¬ (f.leader = leaderId s.part.form.record ∧ f.epoch = s.part.form.record.epoch)) →
      ∃ t, exec (.beacon f) s = .next t ∧ Only [.form, .line] s t ∧ t.part.out.line = [.mark] ∧
        t.part.form = { s.part.form with heardCycle := some f.cycle, grant := none, ended := endedThen s.part.form
                                         beaconLoss := some (s.part.host.params.holdLimit + 2) }))

/-- A leader that hears another leader yields to a unit id that is not higher than its own. (Section 5.3.) That a
FORMATION at a part that forms as leader is a conflict is the model's reading (log entry 30). -/
def Obligations.TwoLeadersAreSettledByUnitId : Prop :=
  ∀ (s : State) (c : Instr) (u : Nat), s.part.supply.mode = .run →
    s.part.form.role = .leading ∨ s.part.form.role = .formingLeader →
    (∃ f, c = .beacon f ∧ f.leader = u) ∨ (∃ ep us, c = .formation u ep us) ∨ (∃ v cyc, c = .grant u v cyc) ∨
      (∃ ep, c = .rollCall u ep) →
    ∃ t, exec c s = .next t ∧ Only [.source, .form, .events, .host, .line] s t ∧ t.part.host.latched.getLsbD 2 = true ∧
      t.part.form.record = s.part.form.record ∧
      (u ≤ s.part.unit.unitId → t.part.form.role = .formingFollower ∧ t.part.form.rollCall = none ∧
        t.part.form.windowOpen = false ∧ t.part.form.beaconLoss = some (s.part.host.params.holdLimit + 2) ∧
        t.part.out.line = [] ∧ ((∃ ep, c = .rollCall u ep) → t.part.form.waiting = true)) ∧
      (s.part.unit.unitId < u → s.part.form.role = .leading →
        t.part.form.role = .leading ∧ t.part.form.rollPending = true ∧ t.part.out.line = []) ∧
      (s.part.unit.unitId < u → s.part.form.role = .formingLeader → s.part.form.qualEnd ≠ none →
        t.part.form.role = .formingLeader ∧ t.part.form.rollCall = some [] ∧
        t.part.out.line = [.rollCall s.part.unit.unitId s.part.form.record.epoch])

/-- A GRANT lets its part send up to four items, highest level first and oldest first within a level, and a release;
others keep account of it. (Section 5.4, section 5.7, section 5.8.) The grant in force, those ended and the turn a
part does not take while it waits for a roll call, leads or is ISOLATED are log entry 31, the fields of FORMATION_REQ
log entry 41, the beacon whose cycle counts log entry 67. -/
def Obligations.AGrantedPartSendsItsItems : Prop :=
  (∀ (s : State) (cyc : Nat), s.part.supply.mode = .run → s.part.form.role = .following →
    let u := leaderId s.part.form.record
    let own := s.part.unit.unitId
    let ep := s.part.form.record.epoch
    let n := (s.part.form.lastNumber + 1) % 256
    (∀ v, v ≠ own → ∃ t, exec (.grant u v cyc) s = .next t ∧ Only [.form] s t ∧
      t.part.form = { s.part.form with grant := some v, ended := (endedThen s.part.form).filter fun w => w != v }) ∧
    (s.part.form.heardCycle = some cyc → ∃ t, exec (.grant u own cyc) s = .next t ∧ Only [.form, .tallies, .line] s t ∧
      t.part.form.grant = none ∧ (∀ v, v ∈ t.part.form.ended ↔ v = own ∨ v ∈ endedThen s.part.form) ∧ t.part.out.line.getLast? = some .release ∧
      t.part.form.queue.length = s.part.form.queue.length - 4 ∧
      (∀ x ∈ t.part.form.queue, ∀ y ∈ s.part.form.queue, y ∉ t.part.form.queue → itemLevel x ≤ itemLevel y) ∧
      (let level := fun k : Nat => s.part.form.queue.filter fun x => itemLevel x == k
        let sent := (level 3 ++ level 2 ++ level 1).take 4
        let r := turnSent s.part sent s.part.form.lastNumber s.part.form.forwards
        t.part.out.line = r.1 ++ [.release] ∧ t.part.form.lastNumber = r.2.1 ∧ t.part.form.forwards = r.2.2 ∧
          t.part.form.queue = sent.foldl List.erase s.part.form.queue) ∧
      (s.part.form.queue = [] → t.part.out.line = [.release]) ∧
      (s.part.form.queue = [.formationReq] → t.part.out.line = [.formationReq own ep, .release]) ∧
      (∀ o i k full, s.part.form.queue = [.noticeAns o i k full] → t.part.out.line =
        [.noticeAns { origin := o, noticeId := i, number := k, epoch := ep, unitId := own, full := full }, .release]) ∧
      (s.part.form.queue = [.tally] → t.part.out.line = [.tally (tallyFrame s.part), .release]) ∧
      (∀ tag e, s.part.form.queue = [.noticeFwd tag] → (s.part.form.forwards.find? fun y => y.tag == tag) = some e →
        t.part.form.lastNumber = n ∧
        t.part.form.forwards = (s.part.form.forwards.map fun y =>
          if y.tag = tag then { y with number := some n, awaited := y.dests } else y) ∧
        t.part.out.line = [.noticeFwd {
          origin := own, noticeId := e.noticeId, number := n, epoch := ep, dests := e.dests
          body := match e.raise with
            | some r => .raise r.level r.subPriority r.targets r.duration (frameText s.part.text r.handle)
            | none => .clear }, .release]))) ∧
  (∀ (s : State) (v cyc : Nat), s.part.supply.mode = .run →
    let f := s.part.form
    let g := if v = s.part.unit.unitId then f
      else { f with grant := some v, ended := (endedThen f).filter fun w => w != v }
    (f.role = .formingFollower → ∃ t, exec (.grant (leaderId f.record) v cyc) s = .next t ∧ Only [.form] s t ∧
      t.part.form = { g with beaconLoss := some (s.part.host.params.holdLimit + 2) }) ∧
    (f.role = .isolated → ∃ t, exec (.grant (leaderId f.record) v cyc) s = .next t ∧ Only [.form] s t ∧ t.part.form = g) ∧
    (f.role = .leading ∨ f.role = .formingLeader → ∃ t, exec (.grant (leaderId f.record) v cyc) s = .next t ∧
      Only [.source, .form, .events, .host, .line] s t ∧ t.part.form.grant = g.grant ∧ t.part.form.ended = g.ended ∧
      t.part.form.record = f.record ∧ t.part.form.queue = f.queue))

/-- A NOTICE_FWD addressed to the part is placed or cleared, and answered OK or FULL. (Section 8.5, section 5.8,
section 2.6.) Which grants have ended is log entry 31. -/
def Obligations.ForwardedNoticesArePlacedAndAnswered : Prop :=
  ∀ (s : State) (f : NoticeFwdFrame), s.part.supply.mode = .run →
    s.part.form.role = .leading ∨ s.part.form.role = .following → f.epoch = s.part.form.record.epoch →
    f.origin ∉ s.part.form.ended → s.part.unit.unitId ∈ f.dests →
    ∃ t, exec (.noticeFwd f) s = .next t ∧ Only [.form, .text, .panel, .disp] s t ∧
      let answered := fun full : Bool => t.part.form = { s.part.form with
        absence := t.part.form.absence
        queue := if s.part.form.queue.length < 16 then
          s.part.form.queue ++ [.noticeAns f.origin f.noticeId f.number full] else s.part.form.queue }
      let held := findNotice s.part.panel (some f.origin) f.noticeId
      (f.body = .clear → answered false ∧
        (held = none → t.part.panel = s.part.panel ∧ t.part.text = s.part.text) ∧
        (∀ l i x, held = some (l, i) → slotAt s.part.panel l i = some x →
          slotAt t.part.panel l i = none ∧ t.part.text = release x.handle s.part.text)) ∧
      (∀ l sub tg d vs, f.body = .raise l sub tg d vs →
        (makeRemote vs s.part.text = none → answered true ∧ t.part.panel = s.part.panel ∧ t.part.text = s.part.text) ∧
        (∀ h x, makeRemote vs s.part.text = some (h, x) →
          let filled := fun i : Nat => ∃ y, slotAt t.part.panel l i = some y ∧ y.origin = some f.origin ∧
            y.noticeId = f.noticeId ∧ y.subPriority = sub ∧ y.targets = tg ∧ y.handle = h ∧ y.duration = d ∧
            y.remaining = if d = 0 then none else some d
          (∀ i, held = some (l, i) → answered false ∧ filled i) ∧
          (∀ l' i j, held = some (l', i) → l' ≠ l → firstEmpty (slotsOf s.part.panel l) = some j →
            answered false ∧ filled j ∧ slotAt t.part.panel l' i = none) ∧
          (∀ j, held = none → firstEmpty (slotsOf s.part.panel l) = some j → answered false ∧ filled j) ∧
          ((∀ i, held ≠ some (l, i)) → firstEmpty (slotsOf s.part.panel l) = none →
            answered true ∧ t.part.panel = s.part.panel ∧ textAt t.part.text h = none)))

/-- NOTICE_ANS, the answer time and a withdrawal end forwards and answer their requests. (Section 5.4, section 5.8.)
Which item is the oldest is log entry 32, that a pair stands once log entry 56, which grants have ended log entry 31.
The order of the unit ids in a PARTIAL is the model's choice (log entry 71). That a NOTICE_ANS which matches an entry
leaves a pair it matches too is log entry 82. -/
def Obligations.AnswersAndTimesEndForwards : Prop :=
  (∀ (s : State) (f : NoticeAnsFrame), s.part.supply.mode = .run → f.epoch = s.part.form.record.epoch →
    f.unitId ∉ s.part.form.ended → f.origin = s.part.unit.unitId →
    ∃ t, exec (.noticeAns f) s = .next t ∧ Only [.form, .host, .text] s t ∧
      match s.part.form.forwards.find? (fun e => e.number == some f.number && e.awaited.contains f.unitId) with
      | some e =>
        let full := if f.full = true then e.full ++ [f.unitId] else e.full
        if e.awaited.erase f.unitId = [] then
          t.part.form.forwards = (s.part.form.forwards.filter fun x => x.tag != e.tag) ∧
          (if full = [] then AnsweredLater s t e.tag .ok []
           else AnsweredLater s t e.tag .part (byte full.length :: (full.map fun u => [byte (u / 256), byte u]).flatten)) ∧
          ((s.part.form.forwards.filter fun x => x.tag == e.tag) = [e] →
            t.part.text = (match e.raise with
              | some r => release r.handle s.part.text
              | none => s.part.text))
        else Only [.form] s t ∧
          t.part.form = { s.part.form with
            absence := t.part.form.absence
            forwards := s.part.form.forwards.map fun x =>
              if x.tag = e.tag then { e with awaited := e.awaited.erase f.unitId, full := full } else x }
      | none => Only [.form] s t ∧
          t.part.form = { s.part.form with absence := t.part.form.absence
                                           late := s.part.form.late.filter fun x => x != (f.number, f.unitId) }) ∧
  (∀ (s : State) (n : Nat) (e : Forward), s.part.supply.mode = .run →
    (s.part.form.forwards.find? fun e => e.number == some n) = some e →
    ∃ t, exec (.answerTimeExpiry n) s = .next t ∧ Only [.form, .host, .text, .events] s t ∧
      t.part.form.forwards = (s.part.form.forwards.filter fun x => x.tag != e.tag) ∧
      AnsweredLater s t e.tag .linkFailed [] ∧ t.part.host.latched.getLsbD 4 = true ∧
      t.part.form.late = e.awaited.foldl (fun l u =>
        if (n, u) ∈ l then l else (if l.length < 8 then l else l.drop 1) ++ [(n, u)]) s.part.form.late ∧
      ((s.part.form.forwards.filter fun x => x.tag == e.tag) = [e] →
        t.part.text = (match e.raise with
          | some r => release r.handle s.part.text
          | none => s.part.text))) ∧
  (∀ (s : State) (x : LineItem) (q : List LineItem), s.part.supply.mode = .run → s.part.form.queue = x :: q →
    ∃ t, exec .lineQueueWithdrawal s = .next t ∧ Only [.form, .tallies, .host, .text, .events] s t ∧
      t.part.host.latched.getLsbD 5 = true ∧
      ((∀ tag, x ≠ .noticeFwd tag) → t.part.form = { s.part.form with queue := q } ∧ t.part.text = s.part.text) ∧
      (∀ tag, x = .noticeFwd tag → t.part.form.queue = (q.filter fun y => y != .noticeFwd tag) ∧
        t.part.form.forwards = (s.part.form.forwards.filter fun y => y.tag != tag) ∧
        AnsweredLater s t tag .linkFailed [] ∧
        ∀ e, (s.part.form.forwards.filter fun y => y.tag == tag) = [e] →
          t.part.text = (match e.raise with
            | some r => release r.handle s.part.text
            | none => s.part.text)))

/-- TALLY frames fill the train tally table; spacing, beacon loss and absence times act. (Section 5.7, section 5.9.) A
full queue at the spacing time is log entry 48, a TALLY queued already log entry 59. The premise that the sender's
grant has not ended is log entry 31, the booked number of an own entry log entry 64. -/
def Obligations.TalliesAndTimesOfTheCouplerLine : Prop :=
  (∀ (s : State) (f : TallyFrame), s.part.supply.mode = .run → f.epoch = s.part.form.record.epoch →
    f.unitId ∉ s.part.form.ended → (∃ u ∈ otherUnits s.part, u.unitId = f.unitId) →
    ∃ t, exec (.tally f) s = .next t ∧ Only [.source, .form, .tallies, .seat, .panel, .disp] s t ∧
      t.part.form.record = tallyRecord f s.part.form.record ∧ t.part.form.role = s.part.form.role ∧
      (tallyRecord f s.part.form.record = s.part.form.record →
        ∀ e, e ∈ t.part.form.trainTally ↔
          (∃ c ∈ f.coaches, e = { position := c.position, booked := c.booked, unitId := f.unitId, freeEnd := c.freeEnd
                                  freeDivide := c.freeDivide, epoch := f.epoch }) ∨
          (e ∈ s.part.form.trainTally ∧ ∀ c ∈ f.coaches, c.position ≠ e.position)) ∧
      (tallyRecord f s.part.form.record ≠ s.part.form.record →
        ∀ e, e ∈ t.part.form.trainTally ↔
          e ∈ ownTallyEntries t.part ∨
          (e.unitId ≠ s.part.unit.unitId ∧ (∀ o ∈ ownTallyEntries t.part, o.position ≠ e.position) ∧
            ((∃ c ∈ f.coaches, e = { position := c.position, booked := c.booked, unitId := f.unitId, freeEnd := c.freeEnd
                                     freeDivide := c.freeDivide, epoch := f.epoch }) ∨
              (e ∈ s.part.form.trainTally ∧ ∀ c ∈ f.coaches, c.position ≠ e.position))))) ∧
  (∀ s : State, s.part.supply.mode = .run → s.part.form.spacing = true →
    ∃ t, exec .spacingTimeExpiry s = .next t ∧ Only [.tallies] s t ∧ t.part.form.tallyPending = false ∧
      (s.part.form.tallyPending = false → t.part.form.spacing = false ∧ t.part.form.queue = s.part.form.queue) ∧
      (s.part.form.tallyPending = true → t.part.form.spacing = true ∧
        t.part.form.queue = if LineItem.tally ∈ s.part.form.queue then s.part.form.queue
          else if s.part.form.queue.length < 16 then s.part.form.queue ++ [.tally] else s.part.form.queue)) ∧
  (∀ (s : State) (n : Nat), s.part.supply.mode = .run →
    s.part.form.role = .following ∨ s.part.form.role = .formingFollower → s.part.form.beaconLoss = some n →
    ∃ t, exec .beaconLoss s = .next t ∧
      Only [.host, .text, .source, .form, .tallies, .seat, .panel, .disp, .events] s t ∧ t.part.form.role = .isolated ∧
      t.part.form.beaconLoss = none ∧ t.part.form.forwards = [] ∧ t.part.form.late = [] ∧
      t.part.form.record = s.part.form.record ∧ t.part.host.latched.getLsbD 3 = true ∧ t.part.route.prog.source = .own) ∧
  (∀ (s : State) (u : Nat), s.part.supply.mode = .run → s.part.form.role = .leading →
    (∃ x ∈ s.part.form.absence, x.1 = u) →
    ∃ t, exec (.absenceTimeExpiry u) s = .next t ∧ Only [.form] s t ∧
      t.part.form = { s.part.form with rollPending := true, absence := s.part.form.absence.filter fun x => x.1 != u })

/-- ACK of the version sent, ACK of another version, or window expired: the three ends of a transfer. (Section 9.4,
section 9.7.) That the next operation begins in the same step is the model's form (log entry 10). -/
def Obligations.ATransferEndsInOneOfThreeWays : Prop :=
  ∀ (s : State) (a : EpAddr) (v : Nat) (e : EpEntry), s.part.supply.mode = .run →
    s.part.disp.inFlight = some (.transfer v, a) → epAt s.part.disp a = some e →
    let tailed := if a ∈ s.part.disp.queue then s.part.disp.queue else s.part.disp.queue ++ [a]
    (∃ t, exec (.ack a v) s = .next t ∧ Only [.disp] s t ∧
      epAt t.part.disp a = some { e with shown := some v, miss := 0 } ∧
      (∀ b, b ≠ a → epAt t.part.disp b = epAt s.part.disp b) ∧
      QueueBegun (if e.content = v then s.part.disp.queue else tailed) t.part) ∧
    (∀ w, w ≠ v → ∃ t, exec (.ack a w) s = .next t ∧ Only [.disp] s t ∧
      epAt t.part.disp a = some { e with shown := none, miss := 0 } ∧
      (∀ b, b ≠ a → epAt t.part.disp b = epAt s.part.disp b) ∧ QueueBegun tailed t.part) ∧
    (∃ t, exec .replyWindowExpiry s = .next t ∧ (∀ b, b ≠ a → epAt t.part.disp b = epAt s.part.disp b) ∧
      if e.miss + 1 < 3 then
        Only [.disp] s t ∧ epAt t.part.disp a = some { e with miss := e.miss + 1 } ∧ QueueBegun tailed t.part
      else
        Only [.disp, .sensors, .events, .host] s t ∧ t.part.host.latched.getLsbD 11 = true ∧
        epAt t.part.disp a = some { e with miss := e.miss + 1, present := false, probeTime := some 5, probeDue := false } ∧
        QueueBegun (s.part.disp.queue.filter fun b => b != a) t.part)

/-- A poll or a probe ends with a reply or at its window, and a probe time falls due. (Section 7.2, section 7.3,
section 9.5, section 9.6, section 9.7.) Which probe times fall due together is log entry 60; that the next operation
begins in the same step log entry 10. What status a reply leaves that carries what its endpoint cannot report is log
entry 80. -/
def Obligations.PollsAndProbesEnd : Prop :=
  ∀ (s : State) (a : EpAddr) (e : EpEntry), s.part.supply.mode = .run → epAt s.part.disp a = some e →
    (s.part.disp.inFlight = some (.poll, a) →
      (∀ held x, ∃ t e', exec (.pollReply a held x) s = .next t ∧
        Only [.disp, .sensors, .legs, .views, .tallies, .seat, .panel, .events, .host] s t ∧
        epAt t.part.disp a = some e' ∧ e'.present = e.present ∧ e'.miss = 0 ∧
        e'.shown = (if e.shown ≠ none ∧ e.shown ≠ held then none else e.shown) ∧
        e'.status = statusAfter s.part a x e.status ∧
        (∀ b y, b ≠ a → epAt s.part.disp b = some y → ∃ y', epAt t.part.disp b = some y' ∧ y'.present = y.present ∧
          y'.miss = y.miss ∧ y'.shown = y.shown ∧ y'.status = y.status) ∧
        (∀ raw, x = .level raw → a.kind = .seat → sensorFitted s.part.unit a.coach a.number = true →
          sensorAt t.part.seat a.coach a.number =
            (sensorAt s.part.seat a.coach a.number).map (afterReading s.part.host.params (min raw 63)))) ∧
      (∃ t, exec .replyWindowExpiry s = .next t ∧ (∀ b, b ≠ a → epAt t.part.disp b = epAt s.part.disp b) ∧
        (e.miss + 1 < 3 → Only [.disp] s t ∧ epAt t.part.disp a = some { e with miss := e.miss + 1 }) ∧
        (3 ≤ e.miss + 1 → Only [.disp, .sensors, .events, .host] s t ∧ t.part.host.latched.getLsbD 11 = true ∧
          epAt t.part.disp a = some { e with miss := e.miss + 1, present := false, probeTime := some 5, probeDue := false } ∧
          (a.kind = .seat → sensorAt t.part.seat a.coach a.number =
            (sensorAt s.part.seat a.coach a.number).map fun y => { y with frozen := true, run := 0, age := none })))) ∧
    (s.part.disp.inFlight = some (.probe, a) →
      (∀ held x, ∃ t, exec (.pollReply a held x) s = .next t ∧ Only [.disp, .sensors, .events, .host] s t ∧
        (∀ b, b ≠ a → epAt t.part.disp b = epAt s.part.disp b) ∧
        epAt t.part.disp a = some { e with present := true, miss := 0, shown := none, probeTime := none, probeDue := false
                                           status := statusAfter s.part a x e.status } ∧
        QueueBegun (if a ∈ s.part.disp.queue then s.part.disp.queue else s.part.disp.queue ++ [a]) t.part ∧
        t.part.host.latched.getLsbD 12 = true ∧
        (a.kind = .seat → sensorAt t.part.seat a.coach a.number =
          (sensorAt s.part.seat a.coach a.number).map fun y => { y with frozen := false })) ∧
      (∃ t, exec .replyWindowExpiry s = .next t ∧ Only [.disp] s t ∧
        (∀ b, b ≠ a → epAt t.part.disp b = epAt s.part.disp b) ∧
        epAt t.part.disp a = some { e with probeDue := false, probeTime := some 5 })) ∧
    (∀ n, e.present = false → e.probeTime = some n → e.probeDue = false →
      let due := if n = 0 then
          (s.part.disp.table.filter fun y => !y.present && y.probeTime == some 0 && !y.probeDue).map (·.addr) else [a]
      ∃ t, exec (.probeTimeExpiry a) s = .next t ∧ Only [.disp] s t ∧ a ∈ due ∧
        t.part.disp.table = (s.part.disp.table.map fun y =>
          if y.addr ∈ due then { y with probeDue := true, probeTime := some 0 } else y) ∧
        (t.part.disp.probes = s.part.disp.probes ++ due ∨
          ∃ b, s.part.disp.probes ++ due = b :: t.part.disp.probes ∧ t.part.disp.inFlight = some (.probe, b)))

/-- When an operation ends, the arbiter begins the kind that was not served last, and polls take the endpoints in
rotation. (Section 9.4, section 9.5, section 9.6, section 9.7.) That the next operation begins in the same step is the
model's form (log entry 10). -/
def Obligations.TheArbiterAlternatesAndPollsInRotation : Prop :=
  ∀ (s : State) (a : EpAddr) (e : EpEntry), s.part.supply.mode = .run →
    (s.part.disp.table.filter fun x => x.addr == a) = [e] →
    let ended := fun e' : EpEntry =>
      { s.part.disp with inFlight := none, table := s.part.disp.table.map fun x => if x.addr = a then e' else x }
    (s.part.disp.inFlight = some (.transfer e.content, a) →
      ∃ t, exec (.ack a e.content) s = .next t ∧ SentFor t.part ∧
        LineBegun (ended { e with shown := some e.content, miss := 0 }) t.part.disp) ∧
    (s.part.disp.inFlight = some (.poll, a) → e.miss < 2 →
      ∃ t, exec .replyWindowExpiry s = .next t ∧ SentFor t.part ∧
        LineBegun (ended { e with miss := e.miss + 1 }) t.part.disp) ∧
    (s.part.disp.inFlight = some (.probe, a) →
      ∃ t, exec .replyWindowExpiry s = .next t ∧ SentFor t.part ∧
        LineBegun (ended { e with probeDue := false, probeTime := some 5 }) t.part.disp)

/-- Evidence goes stale, a dwell advances its rotation, a notice expires, the stabling timer darkens the panels.
(Section 7.3, section 8.2, section 8.5, section 8.7.) -/
def Obligations.TimesOfSeatsAndPanelsAct : Prop :=
  (∀ (s : State) (c p : Nat) (x : Sensor), s.part.supply.mode = .run → sensorAt s.part.seat c p = some x →
    ∃ t, exec (.evidenceAgeExpiry c p) s = .next t ∧ Only [.sensors] s t ∧
      sensorAt t.part.seat c p = some { x with age := none } ∧
      (∀ c' p', (c', p') ≠ (c, p) → sensorAt t.part.seat c' p' = sensorAt s.part.seat c' p')) ∧
  (∀ (s : State) (ctx : ContextId) (r : Context), s.part.supply.mode = .run → s.part.panel.brightness ≠ .dark →
    rotationAt s.part.panel ctx = some r → r.inUse = true →
    ∃ t r', exec (.dwellExpiry ctx) s = .next t ∧ Only [.panel, .disp] s t ∧ rotationAt t.part.panel ctx = some r' ∧
      r'.pages = r.pages ∧ r'.dwell = s.part.host.params.pageDwell ∧
      (∀ pg, r.pages[r.index]? = some pg →
        match (languages s.part pg).find? (fun i => decide (r.lang < i)) with
        | some i => r'.index = r.index ∧ r'.lang = i
        | none => r'.index = (if r.index + 1 < r.pages.length then r.index + 1 else 0) ∧
            ∀ q, r.pages[r'.index]? = some q → r'.lang = lowestLang s.part q)) ∧
  (∀ (s : State) (l : NoticeLevel) (i n : Nat) (x : Slot), s.part.supply.mode = .run ∨ s.part.supply.mode = .breakHold →
    slotAt s.part.panel l i = some x → x.remaining = some n →
    ∃ t, exec (.noticeExpiry l i) s = .next t ∧ Only [.text, .panel, .disp, .events, .host] s t ∧
      slotAt t.part.panel l i = none ∧ t.part.text = release x.handle s.part.text ∧ t.part.host.latched.getLsbD 13 = true) ∧
  (∀ (s : State) (n : Nat), s.part.supply.mode = .run → s.part.panel.stabling = some n →
    ∃ t, exec .stablingExpiry s = .next t ∧ Only [.panel, .disp] s t ∧ t.part.panel.brightness = .dark ∧
      t.part.panel.stabling = none)

/-- The minutes of an estimate entry round its delay to the minute, halves away from zero. (Rule R63.) -/
def Obligations.MinutesRoundHalvesAwayFromZero : Prop :=
  ∀ (stops : List StopRec) (threshold j : Nat) (d : Int),
    (estEntry stops threshold (j, d)).delay = some d ∧
    (estEntry stops threshold (j, d)).minutes = some ((if d < 0 then -1 else 1) * ((|d| + 30) / 60)) ∧
    (|d| ≤ 59940 → ∀ m, (estEntry stops threshold (j, d)).minutes = some m → -999 ≤ m ∧ m ≤ 999) ∧
    ([29, -29, 30, -30, 89, 90, -90, 420, 59940, -59940].map fun x => (estEntry stops threshold (j, x)).minutes) =
      [some 0, some 0, some 1, some (-1), some 1, some 2, some (-2), some 7, some 999, some (-999)]

/-- Placing a position on the own calling sequence. (Rule R46.) -/
def Obligations.PositionsArePlacedOnTheCallingSequence : Prop :=
  ∀ (c : List Nat) (x : Nat), c.Pairwise (· < ·) →
    (c.length < 2 ∨ (∀ y ∈ c, x < y) → placeStanding c x = none ∧ placeLeft c x = none) ∧
    (2 ≤ c.length → ∀ q ∈ c, q ≤ x → (∀ y ∈ c, y ≤ x → y ≤ q) →
      ((∀ y ∈ c, y ≤ x) →
        placeStanding c x = some { state := .terminated, p := q, n := none, halt := none } ∧
        placeLeft c x = some { state := .terminated, p := q, n := none, halt := none }) ∧
      (∀ n ∈ c, x < n → (∀ y ∈ c, x < y → n ≤ y) →
        placeStanding c x = some (if q = x then { state := .standing, p := x, n := some n, halt := none }
                                  else { state := .halted, p := q, n := some n, halt := some x }) ∧
        placeLeft c x = some { state := .departed, p := q, n := some n, halt := none }))

/-- The service clock stays within 0..172,799, and the break count never passes a non-zero break limit. (Section 3.4,
section 10.3, section 10.5.) -/
def Obligations.TheClockAndTheBreakCountStayInRange : Prop :=
  (∀ s t : State, ClockInRange s → step s = .next t → ClockInRange t) ∧
  (∀ s t : State, BreaksBounded s → step s = .next t → BreaksBounded t)

/-- Route table, leg pool, line queue, late-answer set, requests in flight, notice slots, counts and thresholds keep
their bounds. (Section 3.1, section 6.1, section 6.5, section 5.4, section 5.8, section 11.2, section 8.5, section
1.6, section 11.7.) -/
def Obligations.StoresStayWithinTheirBounds : Prop :=
  ∀ s t : State, WithinBounds s → step s = .next t → WithinBounds t

/-- Every block of the text pool stands in exactly one chain or once on the free list. (Section 2.2.) -/
def Obligations.ThePoolKeepsItsBlocks : Prop :=
  ∀ s t : State, PoolLaw s.part.text → step s = .next t → PoolLaw t.part.text

/-- The refresh queue, the probe list and the operation in flight agree with the endpoint table. (Section 9.2, section
9.3, section 9.6, section 9.7.) -/
def Obligations.TheDisplayLineKeepsItsLaws : Prop :=
  ∀ s t : State, LineLaw s.part.disp → step s = .next t → LineLaw t.part.disp

/-- A recomputation lists the calling stops ahead with the delays of the four cases, or without a figure while the
clock is unset. (Section 4.1, section 4.2, section 4.3, section 4.4, section 4.5.) A scheduled time that the checks
guarantee counts as 0 where it is absent (log entry 29). -/
def Obligations.TheEstimateListIsRebuilt : Prop :=
  (∀ (s : State) (tag : Byte) (body : List Byte) (x : ClockTime), Accepts s tag → readTime body = some x → x.day ≤ 1 →
    x.ok = true →
    let g := s.part.route.prog
    let stops := s.part.route.stops
    let k := s.part.unit.portionTag
    let now : Int := ((3600 * bcd x.hh + 60 * bcd x.mm + bcd x.ss + 86400 * x.day : Nat) : Int)
    let sec := fun m : Option Nat => 60 * ((m.getD 0 : Nat) : Int)
    let sat := fun d : Int => max (-59940) (min 59940 d)
    let slackOf := fun j : Nat => match schedArr stops j, schedDep stops j with
      | some a, some d => max (0 : Int) (60 * ((d : Int) - (a : Int)) - (((stops[j]?).map (·.dwell)).getD 0 : Nat))
      | _, _ => 0
    ∃ t, exec (.time tag body) s = .next t ∧ t.part.est.valid = true ∧
      (g.state = .idle ∨ g.state = .loading ∨ g.state = .terminated → t.part.est.entries = []) ∧
      (∀ e ∈ t.part.est.entries, ∀ d, e.delay = some d →
        let m : Int := if d < 0 then -((-d + 30) / 60) else (d + 30) / 60
        e.minutes = some m ∧ e.shown = decide ((s.part.host.params.threshold : Int) ≤ m) ∧
          e.expected = (schedArr stops e.stop).map fun (a : Nat) =>
            if e.shown = true then (((a : Int) + m) % 1440).toNat else (a % 1440 : Nat)) ∧
      (∀ p n rest, g.state = .standing ∨ g.state = .departed ∨ g.state = .approaching ∨ g.state = .halted →
        g.p = some p → (s.part.route.ownSeq.filter fun i => decide (p < i)) = n :: rest →
        let r := rEff stops k p n
        let late := max 0 (now - sec (schedDep stops p))
        let dp : Int := match g.arr, schedArr stops p with
          | some a, some m => sat ((a : Int) - 60 * (m : Int))
          | _, _ => 0
        let dn : Int :=
          if g.state = .standing then
            max 0 (max (max 0 (dp - slackOf p)) (now - sec (schedDep stops p)) - r)
          else if g.state = .halted then max 0 (late - r)
          else match g.d, g.dep with
            | some d, _ =>
              let l := lEff stops k p n
              let run := (sec (schedArr stops n) - sec (schedDep stops p)).toNat
              now + (((run * min d l + (l - 1)) / l : Nat) : Int) - sec (schedArr stops n)
            | none, some dep =>
              if (dep : Int) ≤ sec (schedDep stops p) then (dep : Int) - sec (schedDep stops p)
              else max 0 ((dep : Int) - sec (schedDep stops p) - r)
            | none, none => max 0 (late - r)
        let head := if g.state = .standing then 1 else 0
        (t.part.est.entries.map fun e => e.stop) = (if g.state = .standing then [p] else []) ++ n :: rest ∧
          (g.state = .standing → (t.part.est.entries[0]?).map (fun e => e.delay) = some (some dp)) ∧
          (t.part.est.entries[head]?).map (fun e => e.delay) = some (some (sat dn)) ∧
          (∀ (i : Nat) e e', head ≤ i → t.part.est.entries[i]? = some e → t.part.est.entries[i + 1]? = some e' →
            ∀ d, e.delay = some d →
              e'.delay = some (sat (max 0 (max 0 (d - slackOf e.stop) - rEff stops k e.stop e'.stop)))))) ∧
  (∀ (s : State) (tag : Byte) (body : List Byte) (k p : Nat) (x : ClockTime), Accepts s tag →
    readIndexTime body = some (k, x) → k ≤ 63 → x.day ≤ 1 → x.ok = true → s.part.route.prog.source = .own →
    (s.part.route.prog.state = .standing ∧ s.part.route.prog.p = some k) ∨
      (s.part.route.prog.state = .halted ∧ s.part.route.prog.halt = some k) → s.part.route.prog.p = some p →
    s.part.route.clockSet = false →
    ∃ t, exec (.departed tag body) s = .next t ∧ t.part.est.valid = false ∧
      t.part.est.entries = (s.part.route.ownSeq.filter fun i => decide (p < i)).map fun i =>
        { stop := i, delay := none, minutes := none, shown := false, expected := none })

/-- An arrival gives every seat its free horizon, its display state and the stop its seat unit names. (Section 6.6,
section 6.3, section 2.9.) -/
def Obligations.AnArrivalRecomputesEverySeat : Prop :=
  ∀ (s : State) (tag : Byte) (body : List Byte) (k p : Nat) (x : ClockTime), Accepts s tag →
    readIndexTime body = some (k, x) → k ≤ 63 → x.day ≤ 1 → x.ok = true → s.part.route.prog.source = .own →
    s.part.route.prog.state = .departed ∨ s.part.route.prog.state = .approaching →
    s.part.route.prog.p = some p → p < k → k < s.part.route.stops.length → k ∈ s.part.route.ownSeq →
    ∃ t, exec (.arrived tag body) s = .next t ∧
      ∀ c q r, seatAt s.part.unit c q = some r →
        let last := s.part.route.ownSeq.getLast?.getD 0
        let mine := t.part.res.legs.filter fun l => l.active && l.coach == c && l.seat == q
        let cover := mine.filter fun l => decide (l.frm ≤ k) && decide (k < l.till)
        let ahead := (mine.filter fun l => decide (k < l.frm)).map (·.frm)
        let taken := (sensorAt s.part.seat c q).any (·.occupied)
        let z := seatContent t.part c q
        ∃ v, viewAt t.part.res c q = some v ∧
          (firstAfter s.part.route.ownSeq k = none → v = { horizon := none, display := .noService, stop := none }) ∧
          (firstAfter s.part.route.ownSeq k ≠ none →
            (cover ≠ [] → v.horizon = some k ∧ v.display = .reserved ∧ ∃ l ∈ cover, v.stop = some l.till) ∧
            (cover = [] → taken = true → v = { horizon := some k, display := .free, stop := none }) ∧
            (cover = [] → taken = false →
              (ahead = [] → k < last → v = { horizon := some last, display := .free, stop := none }) ∧
              (∀ h ∈ ahead, (∀ j ∈ ahead, h ≤ j) →
                v = if h < last then { horizon := some h, display := .freeUntil, stop := some h }
                    else { horizon := some h, display := .free, stop := none }))) ∧
          z.display = v.display ∧ z.dim = decide (v.display = .noService) ∧ z.label = number r.label ∧
          z.line1 = (if v.display = .reserved then asc "reserved" else if v.display = .freeUntil then asc "free to" else []) ∧
          z.line2 = (if v.display = .reserved ∨ v.display = .freeUntil then
            (v.stop.map (seatStopName t.part c)).getD [] else []) ∧
          (r.unitFitted = true → ∀ e, epAt s.part.disp { coach := c, kind := .seat, number := q } = some e →
            (epAt t.part.disp { coach := c, kind := .seat, number := q }).map (·.content) =
              some (if (viewAt s.part.res c q).map (fun w => (w.display, w.stop)) = some (v.display, v.stop) then e.content
                    else (e.content + 1) % 256))

/-- An arrival rebuilds the own tally over the stops ahead, and hands a changed count to the train tally table and the
seat summary. (Section 7.5, section 7.6, section 5.9.) A TALLY that finds the line queue full leaves the spacing time
running (log entry 48). -/
def Obligations.AnArrivalRebuildsTheTally : Prop :=
  ∀ (s : State) (tag : Byte) (body : List Byte) (k p : Nat) (x : ClockTime), Accepts s tag →
    readIndexTime body = some (k, x) → k ≤ 63 → x.day ≤ 1 → x.ok = true → s.part.route.prog.source = .own →
    s.part.route.prog.state = .departed ∨ s.part.route.prog.state = .approaching →
    s.part.route.prog.p = some p → p < k → k < s.part.route.stops.length → k ∈ s.part.route.ownSeq →
    ∃ t, exec (.arrived tag body) s = .next t ∧
      let cols := t.part.seat.columns
      let free := fun (vs : List SeatView) (j : Nat) => (vs.filter fun v => v.horizon.any fun h => decide (j ≤ h)).length
      cols = (s.part.route.ownSeq.filter fun i => decide (k < i) && (firstAfter s.part.route.ownSeq k).isSome) ∧
        t.part.seat.rows = (t.part.res.views.map fun vs => cols.map (free vs)) ∧
        t.part.seat.counts = (t.part.res.views.map fun vs => match cols.getLast? with
          | none => (0, 0)
          | some e => (free vs e, free vs
              ((cols.find? fun j => ((s.part.route.stops[j]?).map (·.divide)).getD false).getD e))) ∧
        let differs := ∃ i < max s.part.seat.counts.length t.part.seat.counts.length,
          s.part.seat.counts.getD i (0, 0) ≠ t.part.seat.counts.getD i (0, 0)
        (¬ differs → t.part.form = s.part.form ∧ t.part.seat.summary = s.part.seat.summary) ∧
        (differs →
          (∀ e ∈ t.part.form.trainTally, e ∈ ownTallyEntries t.part ∨ (e ∈ s.part.form.trainTally ∧
            e.unitId ≠ s.part.unit.unitId ∧ ∀ o ∈ ownTallyEntries t.part, o.position ≠ e.position)) ∧
          (∀ e ∈ ownTallyEntries t.part, e ∈ t.part.form.trainTally) ∧
          (∀ e ∈ s.part.form.trainTally, e.unitId ≠ s.part.unit.unitId →
            (∀ o ∈ ownTallyEntries t.part, o.position ≠ e.position) → e ∈ t.part.form.trainTally) ∧
          (otherUnits s.part = [] ∨ LineItem.tally ∈ s.part.form.queue → t.part.form.queue = s.part.form.queue ∧
            t.part.form.spacing = s.part.form.spacing ∧ t.part.form.tallyPending = s.part.form.tallyPending) ∧
          (otherUnits s.part ≠ [] → LineItem.tally ∉ s.part.form.queue →
            t.part.form.spacing = true ∧
            (s.part.form.spacing = true → t.part.form.tallyPending = true ∧ t.part.form.queue = s.part.form.queue) ∧
            (s.part.form.spacing = false → t.part.form.tallyPending = s.part.form.tallyPending ∧
              t.part.form.queue = if s.part.form.queue.length < 16 then s.part.form.queue ++ [.tally]
                                  else s.part.form.queue)) ∧
          let good := t.part.form.trainTally.filter fun e => e.epoch == (inForce t.part).epoch &&
            (positions (inForce t.part)).any fun y => y.position == e.position && y.unitId == e.unitId &&
              y.portion == t.part.unit.portionTag
          let line := fun e : TallyEntry =>
            ({ position := e.position, booked := e.booked, freeEnd := e.freeEnd, freeDivide := e.freeDivide } : SummaryEntry)
          t.part.seat.summary.length = min 6 good.length ∧ (∀ y ∈ t.part.seat.summary, ∃ e ∈ good, y = line e) ∧
            t.part.seat.summary.Pairwise (fun a b =>
              b.freeEnd < a.freeEnd ∨ (a.freeEnd = b.freeEnd ∧ a.position ≤ b.position)) ∧
            (∀ e ∈ good, line e ∈ t.part.seat.summary ∨ ∀ y ∈ t.part.seat.summary,
              e.freeEnd < y.freeEnd ∨ (e.freeEnd = y.freeEnd ∧ y.position ≤ e.position)))

/-- A change of the night flag renders every panel: shown level, selected slot, page, arrow and brightness; an arrival
sets the standing side. (Section 8.1, section 8.2, section 8.4, section 8.5, section 8.6, section 8.7, section 11.7.)
That a panel is rendered once for the change is log entry 12; that destination and train number are each rendered as
an item of which one line is shown is the model's reading (log entry 28). -/
def Obligations.EveryPanelShowsItsLevel : Prop :=
  (∀ (s : State) (tag : Byte) (body : List Byte) (f : Nat), Accepts s tag → readConfigSet body = some (10, f) → f ≤ 1 →
    f ≠ s.part.host.params.night →
    let b : Brightness := if f = 1 then .dim else .bright
    let g := s.part.route.prog.state
    s.part.panel.brightness ≠ b →
    ∃ t, exec (.configSet tag body) s = .next t ∧ t.part.panel.brightness = b ∧
      ∀ i c, s.part.unit.coaches[i]? = some c →
        let chosen := fun (slots : List (Option Slot)) (o : Option Nat) =>
          let hits := fun (x : Option Slot) => x.any fun y => match y.targets with
            | .all => true
            | .unit => y.origin.isNone
            | .coaches ns => ns.contains c.booked
          let rank := fun (x : Option Slot) => (x.map (·.subPriority)).getD 0
          (o = none → ∀ x ∈ slots, hits x = false) ∧
            ∀ j, o = some j → ∃ x, slots[j]? = some x ∧ hits x = true ∧
              ∀ j' x', slots[j']? = some x' → hits x' = true → rank x' < rank x ∨ (rank x' = rank x ∧ j ≤ j')
        ∃ w, t.part.panel.coaches[i]? = some w ∧ chosen s.part.panel.staff w.staff ∧
          chosen s.part.panel.service w.service ∧
          w.shown = (if w.staff.isSome then .staff else if g = .standing ∨ g = .halted then .standing
            else if g = .approaching then .approach else if w.service.isSome then .service
            else if g = .departed then .journey else .idle) ∧
          (∀ a ∈ coachEndpoints i c, a.kind ≠ .seat → ∀ e, epAt s.part.disp a = some e →
            ∃ e' r, epAt t.part.disp a = some e' ∧ e'.content = (e.content + 1) % 256 ∧ e'.rendered = some r ∧
              r.brightness = b ∧
              (a.kind = .interior →
                r.lines = ((shownPage t.part.panel w).map fun y =>
                  renderPage t.part i (panelArrow t.part a.number) y.2 y.1).getD [[], [], []] ∧
                r.arrow = (if w.shown = .standing ∧ g = .standing then
                    arrowAt ((t.part.panel.standing.map (·.side)).getD .none) a.number
                  else if w.shown = .approach then
                    arrowAt ((s.part.route.prog.n.map fun n => physical (sideOf s.part.route n) (ownOrientation s.part)).getD
                      .none) a.number
                  else .none)) ∧
              (a.kind = .exterior → r.arrow = .none ∧
                let line := fun o : Option Nat => match o with
                  | some h =>
                    (((itemLines (substituted t.part i .none 0 (textIn s.part.text h 0))).head?).getD []).take 40
                  | none => []
                r.lines = [(number c.booked).take 40, line (destination s.part.route), line s.part.route.train]))) ∧
  (∀ (side : Side) (o : Orientation) (n : Nat),
    physical side o = (match o, side with
      | .unknown, _ => .none
      | _, .none => .none
      | _, .both => .both
      | .forward, .left => .side1
      | .forward, .right => .side2
      | .reversed, .left => .side2
      | .reversed, .right => .side1) ∧
    arrowAt .side1 1 = .left ∧ arrowAt .side2 1 = .right ∧ arrowAt .side1 2 = .right ∧ arrowAt .side2 2 = .left ∧
    arrowAt .both n = .both ∧ arrowAt .none n = .none) ∧
  (∀ (s : State) (tag : Byte) (body : List Byte) (k p : Nat) (x : ClockTime), Accepts s tag →
    readIndexTime body = some (k, x) → k ≤ 63 → x.day ≤ 1 → x.ok = true → s.part.route.prog.source = .own →
    s.part.route.prog.state = .departed ∨ s.part.route.prog.state = .approaching →
    s.part.route.prog.p = some p → p < k → k < s.part.route.stops.length → k ∈ s.part.route.ownSeq →
    s.part.panel.standing = none →
    ∃ t, exec (.arrived tag body) s = .next t ∧
      t.part.panel.standing = if (firstAfter s.part.route.ownSeq k).isSome then
        some { p := k, side := physical (sideOf s.part.route k) (ownOrientation s.part)
               pending := decide (ownOrientation s.part = .unknown) } else none)

/-- A departure sets the deadlines, an arrival frees and opens, a halt only frees, and a new portion tag orphans and
restores. (Section 6.3, section 6.4, section 6.5, section 3.8.) That a deadline already reached is decided in the
departure is log entry 7. -/
def Obligations.LegsFollowTheJourney : Prop :=
  (∀ (s : State) (tag : Byte) (body : List Byte) (k : Nat) (x : ClockTime), Accepts s tag →
    readIndexTime body = some (k, x) → k ≤ 63 → x.day ≤ 1 → x.ok = true → s.part.route.prog.source = .own →
    (s.part.route.prog.state = .standing → s.part.route.prog.p = some k →
      (∀ l ∈ s.part.res.legs, ∀ d, l.phase = .timed d → s.part.route.clock < d) →
      ∃ t, exec (.departed tag body) s = .next t ∧
        t.part.res.legs = s.part.res.legs.map fun l =>
          let w := s.part.host.params.claimWindow
          let d := min 172799 (3600 * bcd x.hh + 60 * bcd x.mm + bcd x.ss + 86400 * x.day + 60 * w)
          if l.phase = .opened ∧ l.noRelease = false ∧ 0 < w ∧ s.part.route.clockSet = true then
            if s.part.route.clock < d then { l with phase := .timed d }
            else if evidenceFresh s.part.seat l.coach l.seat = true then
              (if seatOccupied s.part.seat l.coach l.seat = true then { l with state := .claimed, phase := .done }
               else { l with state := .released, phase := .done })
            else { l with phase := .deferred 0 }
          else l) ∧
    (s.part.route.prog.state = .halted → s.part.route.prog.halt = some k →
      ∃ t, exec (.departed tag body) s = .next t ∧ t.part.res.legs = s.part.res.legs)) ∧
  (∀ (s : State) (tag : Byte) (body : List Byte) (k p : Nat) (x : ClockTime), Accepts s tag →
    readIndexTime body = some (k, x) → k ≤ 63 → x.day ≤ 1 → x.ok = true → s.part.route.prog.source = .own →
    s.part.route.prog.state = .departed ∨ s.part.route.prog.state = .approaching →
    s.part.route.prog.p = some p → p < k → k < s.part.route.stops.length →
    (k ∈ s.part.route.ownSeq → firstAfter s.part.route.ownSeq k ≠ none →
      ∃ t, exec (.arrived tag body) s = .next t ∧
        t.part.res.legs = (s.part.res.legs.filter fun l => decide (k < l.till)).map fun l =>
          if l.state = .booked ∧ l.phase = .ahead ∧ l.frm ≤ k then
            { l with phase := if sensorFitted s.part.unit l.coach l.seat = true then .opened else .done }
          else l) ∧
    (k ∉ s.part.route.ownSeq → k ≤ s.part.route.ownSeq.getLast?.getD 0 →
      ∃ t, exec (.arrived tag body) s = .next t ∧
        t.part.res.legs = s.part.res.legs.filter fun l => decide (t.part.route.prog.p.getD 0 < l.till))) ∧
  (∀ (s : State) (tag f : Byte) (y : Placed), Accepts s tag → f.toNat ≤ 2 → f.toNat ≠ s.part.unit.portionTag →
    hasRoute s.part.route.prog.state = true → y.state ≠ .terminated →
    placeAgain (callSeq s.part.route.stops f.toNat) s.part.route.prog = some y →
    let c := callSeq s.part.route.stops f.toNat
    let calls := fun l : Leg => c.contains l.frm && c.contains l.till
    let lost := s.part.res.legs.filter fun l => l.active && !calls l
    ∃ t, exec (.portionSet tag [f]) s = .next t ∧ (∀ l ∈ t.part.res.legs, y.p < l.till) ∧
      t.part.res.orphanCount = (if lost = [] then s.part.res.orphanCount
        else min 65535 (s.part.res.orphanCount + lost.length)) ∧
      (lost ≠ [] → t.part.host.latched.getLsbD 10 = true) ∧
      (∀ l ∈ s.part.res.legs, y.p < l.till →
        (l.state = .released → l ∈ t.part.res.legs) ∧
        (l.active = true → calls l = true → l ∈ t.part.res.legs) ∧
        (l.active = true → calls l = false → { l with state := .orphaned, phase := .done } ∈ t.part.res.legs) ∧
        (l.state = .orphaned → calls l = true →
          (∀ m ∈ s.part.res.legs, m ≠ l → m.coach = l.coach → m.seat = l.seat → m.frm < l.till → l.frm < m.till →
            m.state = .released ∨ (m.active = true ∧ calls m = false)) →
          { l with
            state := .booked
            phase := if y.p < l.frm then .ahead
              else if l.frm = y.p ∧ t.part.route.prog.state = .standing then
                (if sensorFitted s.part.unit l.coach l.seat = true then .opened else .done)
              else .done } ∈ t.part.res.legs)))

/-- Leg ids stay distinct, the pool ordered, and no two active legs of a seat overlap. (Section 6.1.) -/
def Obligations.LegsKeepTheirLaw : Prop :=
  ∀ s t : State, LegLaw s.part → step s = .next t → LegLaw t.part

/-- A reference count is the number of places that name the handle. (Section 2.4, section 2.5.) -/
def Obligations.ReferenceCountsCountThePlaces : Prop :=
  ∀ s t : State, PortLaw s.part → RefLaw s.part → step s = .next t → RefLaw t.part

/-- Each reply and each forward has an in-flight entry of its own, and the send queue and the forward list keep their
bounds. (Section 5.8, section 11.1, section 11.2.) -/
def Obligations.RequestsInFlightKeepTheirLaw : Prop :=
  ∀ s t : State, PortLaw s.part → step s = .next t → PortLaw t.part

/-- Coaches, formation record, roll call, train tally table, seat summary and late-answer set keep their bounds.
(Section 1.2, section 5.5, section 5.6, section 5.8, section 5.9, section 7.6.) That a late answer stands once is log
entry 56, that a second answer of one position replaces the first log entry 37. -/
def Obligations.TheFormationKeepsItsBounds : Prop :=
  ∀ s t : State, FormationBounds s → step s = .next t → FormationBounds t

/-- Whatever makes the reported set gain a kind, an EVENT frame is queued or begins; no other latching arranges one.
(Section 11.5, section 10.7.) That a frame begins in the step in which its line is free is log entry 10. That a queued
EVENT frame is dropped whatever emptied the reported set is log entry 81. -/
def Obligations.AGainedEventIsReported : Prop :=
  (∀ (c : Instr) (s t : State), exec c s = .next t → t.part.supply.mode = .run →
    let kept := fun (p : Part) (k : Nat) => p.host.latched.getLsbD k && p.host.params.enable.getLsbD k
    let gained := ∃ k < 14, kept t.part k = true ∧ kept s.part k = false
    let bytes := fun n : Nat => [byte (n / 256), byte n]
    let frame : SentFrame := {
      kind := 0x40#8, tag := 0#8, entry := none
      body := bytes (t.part.host.latched &&& t.part.host.params.enable).toNat ++ bytes t.part.res.releaseCount ++
        bytes t.part.res.orphanCount ++ bytes (t.part.disp.table.filter fun e => !e.present).length ++
        [byte t.part.supply.startCause.code, byte t.part.supply.lastOff.code, byte t.part.supply.breakCount] }
    (gained → QFrame.event ∈ t.part.host.queue ∨ t.part.host.sending = some frame) ∧
      (s.part.supply.mode = .run → ¬ gained → QFrame.event ∈ t.part.host.queue → QFrame.event ∈ s.part.host.queue) ∧
      (attention t.part = true ↔ ∃ k < 14, kept t.part k = true)) ∧
  (∀ s : State, s.part.supply.mode ≠ .run → attention s.part = false) ∧
  (∀ (s : State) (f : SentFrame) (rest : List QFrame), s.part.supply.mode = .run → s.part.host.sending = some f →
    ¬ (f.kind = 0x9C#8 ∧ f.entry ≠ none) → s.part.host.queue = .event :: rest →
    let set := s.part.host.latched &&& s.part.host.params.enable
    let bytes := fun n : Nat => [byte (n / 256), byte n]
    ∃ t, exec .frameSent s = .next t ∧
      (set ≠ 0#14 → t.part.host.queue = rest ∧ t.part.host.sending = some {
        kind := 0x40#8, tag := 0#8, entry := none
        body := bytes set.toNat ++ bytes s.part.res.releaseCount ++ bytes s.part.res.orphanCount ++
          bytes (s.part.disp.table.filter fun e => !e.present).length ++
          [byte s.part.supply.startCause.code, byte s.part.supply.lastOff.code, byte s.part.supply.breakCount] }) ∧
      (set = 0#14 → rest = [] → t.part.host.queue = [] ∧ t.part.host.sending = none))

/-- The invariants hold right after reset. (Section 2.12, section 3.10, section 5.10, section 6.7, section 9.9,
section 10.2, section 11.8.) That reset lies after the first cold start is the model's choice (log entry 1). -/
def Obligations.ResetKeepsEveryInvariant : Prop :=
  ClockInRange State.reset ∧ BreaksBounded State.reset ∧ WithinBounds State.reset ∧ PoolLaw State.reset.part.text ∧
    LineLaw State.reset.part.disp ∧
    FormationBounds State.reset ∧ PortLaw State.reset.part ∧ LegLaw State.reset.part ∧ RefLaw State.reset.part
end

