-- ==== Sys2Proof/Laws/Keeps.lean ====
section
/-! SUPPORT. What an operation can touch, as a relation of the part before and the part after over the pieces of
`Block`, and what single updates of the state touch. Laws/OpsKeep.lean, Laws/OwnersKeep.lean and Laws/EventsKeep.lean say it of
the operations, of the owners of requests and of the events. -/
namespace Sys2Proof.Machine

/-- A piece of the state is as it was, as `Block.same` has it; for `line`, the frames sent stay as they are. -/
def Block.kept (x y : Part) : Block → Prop
  | .line => y.out.line = x.out.line
  | .unit => Block.unit.same x y
  | .text => Block.text.same x y
  | .route => Block.route.same x y
  | .source => Block.source.same x y
  | .est => Block.est.same x y
  | .form => Block.form.same x y
  | .tallies => Block.tallies.same x y
  | .legs => Block.legs.same x y
  | .views => Block.views.same x y
  | .sensors => Block.sensors.same x y
  | .seat => Block.seat.same x y
  | .panel => Block.panel.same x y
  | .disp => Block.disp.same x y
  | .supply => Block.supply.same x y
  | .host => Block.host.same x y
  | .events => Block.events.same x y
  | .params => Block.params.same x y

/-- What an operation can touch: every piece outside the list is kept. -/
structure Keeps (L : List Block) (x y : Part) : Prop where
  /-- Every piece outside the list is kept. -/
  all : ∀ b, b ∉ L → b.kept x y

theorem Keeps.refl {L : List Block} {x : Part} : Keeps L x x := by
  refine ⟨fun b _ => ?_⟩
  cases b <;> simp [Block.kept, Block.same]

theorem Block.kept_trans {x y z : Part} (b : Block) (h : b.kept x y) (k : b.kept y z) : b.kept x z := by
  cases b <;> simp only [Block.kept, Block.same] at *
  case form => exact ⟨k.1.trans h.1, by rw [k.2, h.2]⟩
  case tallies => exact ⟨k.1.trans h.1, k.2.1.trans h.2.1, k.2.2.1.trans h.2.2.1, k.2.2.2.trans h.2.2.2⟩
  case legs => exact ⟨k.1.trans h.1, k.2.1.trans h.2.1, k.2.2.trans h.2.2⟩
  case disp =>
    exact ⟨k.1.trans h.1, fun hx => by have e := h.2 hx; rw [← e]; exact k.2 (by rw [e]; exact hx)⟩
  case host =>
    refine ⟨k.1.trans h.1, k.2.1.trans h.2.1, k.2.2.1.trans h.2.2.1, fun hx => ?_⟩
    have e := h.2.2.2 hx
    have e' := k.2.2.2 (by rw [e.2]; exact hx)
    exact ⟨e'.1.trans e.1, e'.2.trans e.2⟩
  case route => rw [k, h]
  case seat => rw [k, h]
  all_goals exact k.trans h

/-- Steps compose: what comes last touches no more than the whole. -/
theorem Keeps.step {L M : List Block} {x y z : Part} (k : Keeps M y z) (hM : (M.all fun b => L.contains b) = true)
    (h : Keeps L x y) : Keeps L x z := by
  refine ⟨fun b hb => Block.kept_trans b (h.all b hb) (k.all b fun hm => hb ?_)⟩
  have := List.all_eq_true.mp hM b hm
  simpa using this

/-! ### Single updates -/

theorem unit_keeps {s : Part} {u : UnitDesc} : Keeps [.unit] s { s with unit := u } := by
  refine ⟨fun b hb => ?_⟩; cases b <;> first | exact absurd hb (by decide) | simp [Block.kept, Block.same]

theorem onText_keeps {f : TextStore → TextStore} {s : Part} : Keeps [.text] s (onText f s) := by
  refine ⟨fun b hb => ?_⟩; cases b <;> first | exact absurd hb (by decide) | simp [Block.kept, Block.same, onText]

theorem text_keeps {s : Part} {t : TextStore} : Keeps [.text] s { s with text := t } := by
  refine ⟨fun b hb => ?_⟩; cases b <;> first | exact absurd hb (by decide) | simp [Block.kept, Block.same]

theorem route_keeps {s : Part} {r : Route} : Keeps [.route, .source] s { s with route := r } := by
  refine ⟨fun b hb => ?_⟩; cases b <;> first | exact absurd hb (by decide) | simp [Block.kept, Block.same]

theorem routeBut_keeps {s : Part} {r : Route} (h : r.prog.source = s.route.prog.source) : Keeps [.route] s { s with route := r } := by
  refine ⟨fun b hb => ?_⟩; cases b <;> first | exact absurd hb (by decide) | simp [Block.kept, Block.same, h]

theorem source_keeps {s : Part} {x : Source} :
    Keeps [.source] s { s with route := { s.route with prog := { s.route.prog with source := x } } } := by
  refine ⟨fun b hb => ?_⟩; cases b <;> first | exact absurd hb (by decide) | simp [Block.kept, Block.same]

theorem setProg_keeps {g : Progress} {s : Part} : Keeps [.route, .source] s (setProg g s) := route_keeps

theorem setProgBut_keeps {g : Progress} {s : Part} (h : g.source = s.route.prog.source) : Keeps [.route] s (setProg g s) :=
  routeBut_keeps h

theorem onRoute_keeps {f : Route → Route} {s : Part} : Keeps [.route, .source] s (onRoute f s) := route_keeps

theorem onRouteBut_keeps {f : Route → Route} {s : Part} (h : (f s.route).prog.source = s.route.prog.source) :
    Keeps [.route] s (onRoute f s) := routeBut_keeps h

theorem est_keeps {s : Part} {e : Estimates} : Keeps [.est] s { s with est := e } := by
  refine ⟨fun b hb => ?_⟩; cases b <;> first | exact absurd hb (by decide) | simp [Block.kept, Block.same]

theorem onForm_keeps {f : Formation → Formation} {s : Part} : Keeps [.form, .tallies] s (onForm f s) := by
  refine ⟨fun b hb => ?_⟩; cases b <;> first | exact absurd hb (by decide) | simp [Block.kept, Block.same, onForm]

/-- A change of the Formation Controller that leaves the tallies alone. -/
theorem onFormBut_keeps {f : Formation → Formation} {s : Part} (h1 : (f s.form).trainTally = s.form.trainTally)
    (h2 : (f s.form).spacing = s.form.spacing) (h3 : (f s.form).tallyPending = s.form.tallyPending)
    (h4 : LineItem.tally ∈ (f s.form).queue ↔ LineItem.tally ∈ s.form.queue) : Keeps [.form] s (onForm f s) := by
  refine ⟨fun b hb => ?_⟩; cases b <;> first | exact absurd hb (by decide) | exact ⟨h1, h2, h3, h4⟩ | simp [Block.kept, Block.same, onForm]

/-- A change of the tallies and of nothing else of the Formation Controller. -/
theorem onFormTallies_keeps {f : Formation → Formation} {s : Part} (h1 : otherItems (f s.form).queue = otherItems s.form.queue)
    (h2 : f s.form = { s.form with trainTally := (f s.form).trainTally, queue := (f s.form).queue
                                   spacing := (f s.form).spacing, tallyPending := (f s.form).tallyPending }) :
    Keeps [.tallies] s (onForm f s) := by
  refine ⟨fun b hb => ?_⟩; cases b <;> first | exact absurd hb (by decide) | exact ⟨h1, h2⟩ | simp [Block.kept, Block.same, onForm]

theorem legs_keeps {s : Part} {l : List Leg} {a c : Nat} :
    Keeps [.legs] s { s with res := { s.res with legs := l, releaseCount := a, orphanCount := c } } := by
  refine ⟨fun b hb => ?_⟩; cases b <;> first | exact absurd hb (by decide) | simp [Block.kept, Block.same]

theorem onResBut_keeps {f : Reservations → Reservations} {s : Part} (h : (f s.res).views = s.res.views) :
    Keeps [.legs] s (onRes f s) := by
  refine ⟨fun b hb => ?_⟩; cases b <;> first | exact absurd hb (by decide) | simp [Block.kept, Block.same, onRes, h]

theorem sensors_keeps {s : Part} {x : List (List Sensor)} : Keeps [.sensors] s { s with seat := { s.seat with sensors := x } } := by
  refine ⟨fun b hb => ?_⟩; cases b <;> first | exact absurd hb (by decide) | simp [Block.kept, Block.same]

theorem seat_keeps {s : Part} {a : List Nat} {b : List (List Nat)} {c : List (Nat × Nat)} {d : List SummaryEntry} :
    Keeps [.seat] s { s with seat := { s.seat with columns := a, rows := b, counts := c, summary := d } } := by
  refine ⟨fun b hb => ?_⟩; cases b <;> first | exact absurd hb (by decide) | simp [Block.kept, Block.same]

theorem panel_keeps {s : Part} {q : Panels} : Keeps [.panel] s { s with panel := q } := by
  refine ⟨fun b hb => ?_⟩; cases b <;> first | exact absurd hb (by decide) | simp [Block.kept, Block.same]

theorem disp_keeps {s : Part} {d : Display} : Keeps [.disp] s { s with disp := d } := by
  refine ⟨fun b hb => ?_⟩; cases b <;> first | exact absurd hb (by decide) | simp [Block.kept, Block.same]

theorem onDisp_keeps {f : Display → Display} {s : Part} : Keeps [.disp] s (onDisp f s) := disp_keeps

theorem onSupply_keeps {f : Supply → Supply} {s : Part} : Keeps [.supply] s (onSupply f s) := by
  refine ⟨fun b hb => ?_⟩; cases b <;> first | exact absurd hb (by decide) | simp [Block.kept, Block.same, onSupply]

theorem host_keeps {s : Part} {h : HostPort} : Keeps [.host, .events, .params] s { s with host := h } := by
  refine ⟨fun b hb => ?_⟩; cases b <;> first | exact absurd hb (by decide) | simp [Block.kept, Block.same]

/-- A change of the Host Port that leaves events and parameters alone. -/
theorem hostBut_keeps {s : Part} {h : HostPort} (h1 : h.latched = s.host.latched) (h2 : h.params = s.host.params) :
    Keeps [.host] s { s with host := h } := by
  refine ⟨fun b hb => ?_⟩; cases b <;> first | exact absurd hb (by decide) | simp [Block.kept, Block.same, h1, h2]

theorem onHostBut_keeps {f : HostPort → HostPort} {s : Part} (h1 : (f s.host).latched = s.host.latched)
    (h2 : (f s.host).params = s.host.params) : Keeps [.host] s (onHost f s) := hostBut_keeps h1 h2

/-- A change of the Host Port that leaves the parameters alone. -/
theorem hostEvents_keeps {s : Part} {h : HostPort} (h1 : h.params = s.host.params) :
    Keeps [.host, .events] s { s with host := h } := by
  refine ⟨fun b hb => ?_⟩; cases b <;> first | exact absurd hb (by decide) | simp [Block.kept, Block.same, h1]

theorem onHostEvents_keeps {f : HostPort → HostPort} {s : Part} (h1 : (f s.host).params = s.host.params) :
    Keeps [.host, .events] s (onHost f s) := hostEvents_keeps h1

theorem params_keeps {s : Part} {q : Params} : Keeps [.params] s (onHost (fun h => { h with params := q }) s) := by
  refine ⟨fun b hb => ?_⟩; cases b <;> first | exact absurd hb (by decide) | simp [Block.kept, Block.same, onHost]

theorem sendLine_keeps {x : LineFrame} {s : Part} : Keeps [.line] s (sendLine x s) := by
  refine ⟨fun b hb => ?_⟩; cases b <;> first | exact absurd hb (by decide) | simp [Block.kept, Block.same, sendLine]

theorem sendDisp_keeps {x : DispFrame} {s : Part} : Keeps [] s (sendDisp x s) := by
  refine ⟨fun b hb => ?_⟩; cases b <;> simp [Block.kept, Block.same, sendDisp]

/-! ### Owners -/

theorem refused_keeps {r : Result} {s : Part} : Keeps [] s (refused r s).1 := Keeps.refl

theorem taken_keeps {s : Part} : Keeps [] s (taken s).1 := Keeps.refl

theorem takenWith_keeps {d : List Byte} {s : Part} : Keeps [] s (takenWith d s).1 := Keeps.refl

/-- Where a request is refused nothing changes; where it is taken, what its taking changes. -/
theorem checked_keeps {L : List Block} {checks : List (Bool × Result)} {take : Part → Part × Reply} {s : Part}
    (h : Keeps L s (take s).1) : Keeps L s (checked checks take s).1 := by
  unfold checked
  split
  · exact Keeps.refl
  · exact h

/-- A fold of steps each of which keeps. -/
theorem foldl_keeps {α : Type} {L : List Block} {f : Part → α → Part} (h : ∀ s x, Keeps L s (f s x)) (l : List α) {s : Part} :
    Keeps L s (l.foldl f s) := by
  induction l generalizing s with
  | nil => exact Keeps.refl
  | cons x t ih => exact Keeps.step ih (by simp [List.all_eq_true]) (h s x)

@[simp] theorem arrangeEvent_latched (h : HostPort) : (arrangeEvent h).latched = h.latched := by unfold arrangeEvent; split <;> rfl

@[simp] theorem arrangeEvent_params (h : HostPort) : (arrangeEvent h).params = h.params := by unfold arrangeEvent; split <;> rfl

@[simp] theorem refuse_latched (tag kind : Byte) (r : Result) (h : HostPort) : (refuse tag kind r h).latched = h.latched := by
  unfold refuse; dsimp only; split <;> rfl

@[simp] theorem refuse_params (tag kind : Byte) (r : Result) (h : HostPort) : (refuse tag kind r h).params = h.params := by
  unfold refuse; dsimp only; split <;> rfl

@[simp] theorem forwardReply_part (p : Part × Option Result) : (forwardReply p).1 = p.1 := by
  unfold forwardReply; split <;> rfl

theorem inRun_keeps {L : List Block} {f : Part → Part} {s : Part} (h : Keeps L s (f s)) : Keeps L s (inRun f s) := by
  unfold inRun
  split
  · exact h
  · exact Keeps.refl

theorem Keeps.ite {L : List Block} {c : Prop} [Decidable c] {s x y : Part} (h : Keeps L s x) (k : Keeps L s y) :
    Keeps L s (if c then x else y) := by
  split
  · exact h
  · exact k

end Sys2Proof.Machine
end

