-- ==== Sys2Proof/Laws/OpsKeep.lean ====
section
/-! SUPPORT. What the shared operations of the blocks can touch, one lemma each. -/
namespace Sys2Proof.Machine

/-! ### Machine/Flags.lean -/

theorem latchMask_keeps {m : BitVec 14} {s : Part} : Keeps [.host, .events] s (latchMask m s) := by
  exact hostEvents_keeps (by split <;> simp)

theorem latch_keeps {k : EventKind} {s : Part} : Keeps [.host, .events] s (latch k s) := Keeps.step latchMask_keeps rfl Keeps.refl

theorem latchIf_keeps {c : Bool} {k : EventKind} {s : Part} : Keeps [.host, .events] s (latchIf c k s) := by
  unfold latchIf
  repeat' first | with_reducible exact Keeps.refl | with_reducible apply Keeps.step latch_keeps | exact rfl | split

/-! ### Machine/TrainOps.lean -/

theorem writeOwnTallies_keeps {s : Part} : Keeps [.tallies] s (writeOwnTallies s) := by
  refine ⟨fun b hb => ?_⟩; cases b <;> first | exact absurd hb (by decide) | simp [Block.kept, Block.same, writeOwnTallies]

/-! ### Machine/SeatOps.lean -/

theorem mapLegs_keeps {f : Leg → Leg} {s : Part} : Keeps [.legs] s (mapLegs f s) := Keeps.step legs_keeps rfl Keeps.refl

theorem freeWhere_keeps {f : Leg → Bool} {s : Part} : Keeps [.legs] s (freeWhere f s) := Keeps.step legs_keeps rfl Keeps.refl

theorem freeFinished_keeps {s : Part} : Keeps [.legs] s (freeFinished s) := by
  unfold freeFinished
  repeat' first | with_reducible exact Keeps.refl | with_reducible apply Keeps.step freeWhere_keeps | exact rfl | split

theorem openWindows_keeps {k : Nat} {s : Part} : Keeps [.legs] s (openWindows k s) := Keeps.step mapLegs_keeps rfl Keeps.refl

theorem noteReleases_keeps {k : Nat} {s : Part} : Keeps [.legs, .host, .events] s (noteReleases k s) := by
  unfold noteReleases
  split
  · exact Keeps.refl
  · exact Keeps.step latch_keeps rfl (Keeps.step (L := [.legs, .host, .events]) legs_keeps rfl Keeps.refl)

theorem noteOrphans_keeps {k : Nat} {s : Part} : Keeps [.legs, .host, .events] s (noteOrphans k s) := by
  unfold noteOrphans
  split
  · exact Keeps.refl
  · exact Keeps.step latch_keeps rfl (Keeps.step (L := [.legs, .host, .events]) legs_keeps rfl Keeps.refl)

theorem mapReleasing_keeps {f : Leg → Leg} {s : Part} : Keeps [.legs, .host, .events] s (mapReleasing f s) :=
  Keeps.step noteReleases_keeps rfl (Keeps.step mapLegs_keeps rfl Keeps.refl)

theorem decideDeadlines_keeps {s : Part} : Keeps [.legs, .host, .events] s (decideDeadlines s) :=
  Keeps.step mapReleasing_keeps rfl Keeps.refl

theorem setDeadlines_keeps {t : Nat} {s : Part} : Keeps [.legs, .host, .events] s (setDeadlines t s) :=
  Keeps.step decideDeadlines_keeps rfl (Keeps.step mapLegs_keeps rfl Keeps.refl)

theorem pollReport_keeps {c : Nat} {p : Nat} {occupied : Bool} {s : Part} : Keeps [.legs, .host, .events] s (pollReport c p occupied s) :=
  Keeps.step mapReleasing_keeps rfl Keeps.refl

theorem orphanPass_keeps {s : Part} : Keeps [.legs, .host, .events] s (orphanPass s) :=
  Keeps.step noteOrphans_keeps rfl (Keeps.step mapLegs_keeps rfl Keeps.refl)

theorem restorePass_keeps {s : Part} : Keeps [.legs] s (restorePass s) := by
  unfold restorePass
  split
  · exact legs_keeps
  · exact Keeps.refl

theorem orphanReevaluation_keeps {s : Part} : Keeps [.legs, .host, .events] s (orphanReevaluation s) :=
  Keeps.step restorePass_keeps rfl (Keeps.step orphanPass_keeps rfl Keeps.refl)

theorem recomputeSeats_keeps {s : Part} : Keeps [.views, .disp] s (recomputeSeats s) := by
  refine ⟨fun b hb => ?_⟩; cases b <;> first | exact absurd hb (by decide) | simp [Block.kept, Block.same, recomputeSeats]

theorem sensorUpdate_keeps {c : Nat} {p : Nat} {f : Sensor → Sensor} {s : Part} : Keeps [.sensors] s (sensorUpdate c p f s) :=
  Keeps.step sensors_keeps rfl Keeps.refl

theorem mapSensors_keeps {f : Sensor → Sensor} {s : Part} : Keeps [.sensors] s (mapSensors f s) :=
  Keeps.step sensors_keeps rfl Keeps.refl

theorem rebuildTally_keeps {s : Part} : Keeps [.seat] s (rebuildTally s) := Keeps.step seat_keeps rfl Keeps.refl

/-! ### Machine/PanelOps.lean -/

theorem renderPanels_keeps {l : List EpAddr} {s : Part} : Keeps [.disp] s (renderPanels l s) :=
  Keeps.step disp_keeps rfl Keeps.refl

theorem composer_keeps {cause : Cause} {s : Part} : Keeps [.panel, .disp] s (composer cause s) := by
  unfold composer
  dsimp only
  split
  · exact Keeps.step panel_keeps rfl Keeps.refl
  · exact Keeps.step renderPanels_keeps rfl (Keeps.step panel_keeps rfl Keeps.refl)

theorem rederive_keeps {ls : List ProgLevel} {s : Part} : Keeps [.panel] s (rederive ls s) := panel_keeps

theorem renderNamed_keeps {ls : List ProgLevel} {f : CoachShow → Bool} {s : Part} :
    Keeps [.panel, .disp] s (renderNamed ls f s) :=
  Keeps.step renderPanels_keeps rfl (Keeps.step rederive_keeps rfl Keeps.refl)

theorem nameStops_keeps {l : List Nat} {s : Part} : Keeps [.panel, .disp] s (nameStops l s) := by
  unfold nameStops
  split
  · exact Keeps.refl
  · exact renderNamed_keeps

theorem nameSummary_keeps {before : List SummaryEntry} {s : Part} : Keeps [.panel, .disp] s (nameSummary before s) := by
  unfold nameSummary
  split
  · exact Keeps.refl
  · exact renderNamed_keeps

theorem restartStabling_keeps {s : Part} : Keeps [.panel] s (restartStabling s) := Keeps.step panel_keeps rfl Keeps.refl

theorem followStabling_keeps {before : Bool} {s : Part} : Keeps [.panel] s (followStabling before s) :=
  Keeps.step panel_keeps rfl Keeps.refl

theorem setBrightness_keeps {b : Brightness} {s : Part} : Keeps [.panel] s (setBrightness b s) :=
  Keeps.step panel_keeps rfl Keeps.refl

theorem lightAndCompose_keeps {cause : Cause} {s : Part} : Keeps [.panel, .disp] s (lightAndCompose cause s) :=
  Keeps.step composer_keeps rfl (Keeps.step setBrightness_keeps rfl Keeps.refl)

theorem putSlot_keeps {l : NoticeLevel} {i : Nat} {x : Option Slot} {s : Part} : Keeps [.panel] s (putSlot l i x s) :=
  Keeps.step panel_keeps rfl Keeps.refl

theorem vacate_keeps {l : NoticeLevel} {i : Nat} {s : Part} : Keeps [.text, .panel] s (vacate l i s) := by
  unfold vacate
  repeat' first
      | with_reducible exact Keeps.refl | with_reducible apply Keeps.step putSlot_keeps
      | with_reducible apply Keeps.step onText_keeps | exact rfl | split

theorem afterSlots_keeps {before : Bool} {filled : Option (NoticeLevel × Nat)} {s : Part} :
    Keeps [.panel, .disp] s (afterSlots before filled s) := by
  unfold afterSlots
  repeat' first
      | with_reducible exact Keeps.refl | with_reducible apply Keeps.step lightAndCompose_keeps
      | with_reducible apply Keeps.step followStabling_keeps | with_reducible apply Keeps.step composer_keeps | exact rfl
      | split

theorem emptySlot_keeps {l : NoticeLevel} {i : Nat} {s : Part} : Keeps [.text, .panel, .disp] s (emptySlot l i s) :=
  Keeps.step afterSlots_keeps rfl (Keeps.step vacate_keeps rfl Keeps.refl)

theorem vacateWhere_keeps {f : Slot → Bool} {s : Part} : Keeps [.text, .panel] s (vacateWhere f s) := by
  refine foldl_keeps (fun s x => ?_) _
  split
  · exact vacate_keeps
  · exact Keeps.refl

/-! ### Machine/HandOps.lean -/

theorem answer_keeps {tag : Byte} {r : Result} {detail : List Byte} {s : Part} : Keeps [.host] s (answer tag r detail s) := by
  unfold answer
  split
  · exact hostBut_keeps rfl rfl
  · exact Keeps.refl

theorem reportTallies_keeps {s : Part} : Keeps [.tallies] s (reportTallies s) := by
  unfold reportTallies
  split
  · split
    · exact Keeps.refl
    · split
      · exact onFormTallies_keeps rfl rfl
      · refine onFormTallies_keeps ?_ ?_ <;> unfold queueItem <;> split <;> simp [otherItems]
  · exact Keeps.refl

theorem setSummary_keeps {s : Part} : Keeps [.seat] s (setSummary s) := Keeps.step seat_keeps rfl Keeps.refl

theorem deriveSummary_keeps {s : Part} : Keeps [.seat, .panel, .disp] s (deriveSummary s) :=
  Keeps.step nameSummary_keeps rfl (Keeps.step setSummary_keeps rfl Keeps.refl)

theorem tallyUpdate_keeps {s : Part} : Keeps [.tallies, .seat, .panel, .disp] s (tallyUpdate s) := by
  unfold tallyUpdate
  repeat' first
      | with_reducible exact Keeps.refl | with_reducible apply Keeps.step deriveSummary_keeps
      | with_reducible apply Keeps.step reportTallies_keeps | with_reducible apply Keeps.step rebuildTally_keeps
      | with_reducible apply Keeps.step writeOwnTallies_keeps | exact rfl | split | fail_if_no_progress extract_lets

theorem refreshSeats_keeps {s : Part} : Keeps [.tallies, .views, .seat, .panel, .disp] s (refreshSeats s) :=
  Keeps.step tallyUpdate_keeps rfl (Keeps.step recomputeSeats_keeps rfl Keeps.refl)

theorem evalSource_keeps {s : Part} : Keeps [.source] s (evalSource s) := Keeps.step source_keeps rfl Keeps.refl

theorem formationHandOff_keeps {o : Orientation} {s : Part} :
    Keeps [.tallies, .seat, .panel, .disp] s (formationHandOff o s) := by
  unfold formationHandOff
  repeat' first
      | with_reducible exact Keeps.refl | with_reducible apply Keeps.step deriveSummary_keeps
      | with_reducible apply Keeps.step composer_keeps | with_reducible apply Keeps.step writeOwnTallies_keeps | exact rfl

theorem formationChanged_keeps {o : Orientation} {s : Part} : Keeps [.source, .tallies, .seat, .panel, .disp] s (formationChanged o s) :=
  Keeps.step formationHandOff_keeps rfl (Keeps.step evalSource_keeps rfl Keeps.refl)

theorem recordAlone_keeps {s : Part} : Keeps [.form] s (recordAlone s) := by
  unfold recordAlone
  repeat' first
      | with_reducible exact Keeps.refl | with_reducible apply Keeps.step (onFormBut_keeps ?_ ?_ ?_ ?_) | exact rfl
      | exact Iff.rfl

theorem rewriteOwn_keeps {g : UnitEntry → UnitEntry} {s : Part} : Keeps [.form] s (rewriteOwn g s) := by
  unfold rewriteOwn
  repeat' first
      | with_reducible exact Keeps.refl | with_reducible apply Keeps.step recordAlone_keeps
      | with_reducible apply Keeps.step (onFormBut_keeps ?_ ?_ ?_ ?_) | exact rfl | exact Iff.rfl | split

theorem ownEntryChanged_keeps {g : UnitEntry → UnitEntry} {s : Part} :
    Keeps [.source, .form, .tallies, .seat, .panel, .disp] s (ownEntryChanged g s) := by
  unfold ownEntryChanged
  repeat' first
      | with_reducible exact Keeps.refl | with_reducible apply Keeps.step rewriteOwn_keeps
      | with_reducible apply Keeps.step formationChanged_keeps | with_reducible apply Keeps.step reportTallies_keeps
      | exact rfl

theorem routeIdChanged_keeps {before : Nat} {evaluate : Bool} {s : Part} :
    Keeps [.source, .form, .tallies, .seat, .panel, .disp] s (routeIdChanged before evaluate s) := by
  unfold routeIdChanged
  repeat' first
      | with_reducible exact Keeps.refl | with_reducible apply Keeps.step rewriteOwn_keeps
      | with_reducible apply Keeps.step formationChanged_keeps | with_reducible apply Keeps.step formationHandOff_keeps
      | with_reducible apply Keeps.step reportTallies_keeps | exact rfl | split

theorem setEstimates_keeps {s : Part} : Keeps [.est] s (setEstimates s) := Keeps.step est_keeps rfl Keeps.refl

theorem estRecompute_keeps {s : Part} : Keeps [.est, .panel, .disp] s (estRecompute s) := by
  unfold estRecompute
  repeat' first
      | with_reducible exact Keeps.refl | with_reducible apply Keeps.step setEstimates_keeps
      | with_reducible apply Keeps.step nameStops_keeps | exact rfl | split

theorem minuteAdvanced_keeps {before : Nat} {s : Part} : Keeps [.est, .panel, .disp] s (minuteAdvanced before s) := by
  unfold minuteAdvanced
  repeat' first
      | with_reducible exact Keeps.refl | with_reducible apply Keeps.step estRecompute_keeps
      | with_reducible apply Keeps.step composer_keeps | exact rfl | split

theorem writeClock_keeps {v : Nat} {s : Part} :
    Keeps [.route, .est, .tallies, .legs, .views, .seat, .panel, .disp, .host, .events] s (writeClock v s) := by
  have h : Keeps [.route, .est, .tallies, .legs, .views, .seat, .panel, .disp, .host, .events] s
      (estRecompute (refreshSeats (decideDeadlines
        { s with route := { s.route with clock := v, clockSet := true, rangeLatched := false } }))) :=
    Keeps.step estRecompute_keeps rfl (Keeps.step refreshSeats_keeps rfl (Keeps.step decideDeadlines_keeps rfl
      (Keeps.step (M := [.route]) (routeBut_keeps rfl) rfl Keeps.refl)))
  unfold writeClock
  dsimp only
  with_reducible apply Keeps.step composer_keeps
  · exact rfl
  · exact h

theorem handleNote_keeps {s : Part} {x : Note} : Keeps [.legs, .host, .events] s (handleNote s x) := by
  unfold handleNote
  repeat' first
      | with_reducible exact Keeps.refl | with_reducible apply Keeps.step orphanReevaluation_keeps
      | with_reducible apply Keeps.step setDeadlines_keeps | with_reducible apply Keeps.step openWindows_keeps
      | with_reducible apply Keeps.step freeFinished_keeps | with_reducible apply Keeps.step freeWhere_keeps | exact rfl
      | split

theorem handleNotes_keeps {notes : List Note} {s : Part} : Keeps [.legs, .host, .events] s (handleNotes notes s) := by
  exact foldl_keeps (fun _ _ => handleNote_keeps) _

theorem handOffData_keeps {notes : List Note} {s : Part} :
    Keeps [.est, .tallies, .legs, .views, .seat, .panel, .disp, .host, .events] s (handOffData notes s) :=
  Keeps.step estRecompute_keeps rfl (Keeps.step refreshSeats_keeps rfl (Keeps.step handleNotes_keeps rfl Keeps.refl))

theorem handOff_keeps {notes : List Note} {cause : Cause} {s : Part} :
    Keeps [.est, .tallies, .legs, .views, .seat, .panel, .disp, .host, .events] s (handOff notes cause s) := by
  unfold handOff
  repeat' first
      | with_reducible exact Keeps.refl | with_reducible apply Keeps.step handOffData_keeps
      | with_reducible apply Keeps.step lightAndCompose_keeps | with_reducible apply Keeps.step restartStabling_keeps
      | exact rfl

/-! ### Machine/CouplerOps.lean -/

theorem restartLoss_keeps {s : Part} : Keeps [.form] s (restartLoss s) := by
  unfold restartLoss
  repeat' first
      | with_reducible exact Keeps.refl | with_reducible apply Keeps.step (onFormBut_keeps ?_ ?_ ?_ ?_) | exact rfl
      | exact Iff.rfl

theorem startAbsence_keeps {s : Part} : Keeps [.form] s (startAbsence s) := by
  unfold startAbsence
  repeat' first
      | with_reducible exact Keeps.refl | with_reducible apply Keeps.step (onFormBut_keeps ?_ ?_ ?_ ?_) | exact rfl
      | exact Iff.rfl

theorem heardUnit_keeps {u : Nat} {s : Part} : Keeps [.form] s (heardUnit u s) := by
  unfold heardUnit
  repeat' first
      | with_reducible exact Keeps.refl | with_reducible apply Keeps.step (onFormBut_keeps ?_ ?_ ?_ ?_) | exact rfl
      | exact Iff.rfl | split

theorem dropForward_keeps {tag : Byte} {s : Part} : Keeps [.text, .form] s (dropForward tag s) := by
  exact Keeps.step onText_keeps rfl (Keeps.step (onFormBut_keeps rfl rfl rfl (by simp)) rfl Keeps.refl)

theorem endForward_keeps {tag : Byte} {r : Result} {detail : List Byte} {s : Part} : Keeps [.text, .form, .host] s (endForward tag r detail s) :=
  Keeps.step answer_keeps rfl (Keeps.step dropForward_keeps rfl Keeps.refl)

theorem endForwards_keeps {s : Part} : Keeps [.text, .form, .host] s (endForwards s) := by
  unfold endForwards
  have h : Keeps [.text, .form, .host] s (s.form.forwards.foldl (fun s e => endForward e.tag .linkFailed [] s) s) :=
    foldl_keeps (fun _ _ => endForward_keeps) _
  extract_lets s'
  refine Keeps.step (M := [.form]) (y := s') (onFormBut_keeps ?_ ?_ ?_ ?_) rfl h <;> rfl

theorem makeForward_keeps {tag : Byte} {noticeId : Nat} {raise : Option RaiseData} {dests : List Nat} {s : Part} :
    Keeps [.text, .form] s (makeForward tag noticeId raise dests s).1 := by
  unfold makeForward
  split
  · exact Keeps.step onText_keeps rfl (Keeps.step (onFormBut_keeps rfl rfl rfl (by simp)) rfl Keeps.refl)
  · exact Keeps.refl

theorem changeRole_keeps {r : Role} {s : Part} : Keeps [.source, .form, .tallies, .seat, .panel, .disp] s (changeRole r s) := by
  unfold changeRole
  repeat' first
      | with_reducible exact Keeps.refl | with_reducible apply Keeps.step formationChanged_keeps
      | with_reducible apply Keeps.step evalSource_keeps | with_reducible apply Keeps.step onForm_keeps | exact rfl | split
      | fail_if_no_progress extract_lets

theorem yieldLead_keeps {s : Part} : Keeps [.source, .form, .tallies, .seat, .panel, .disp] s (yieldLead s) :=
  Keeps.step restartLoss_keeps rfl (Keeps.step changeRole_keeps rfl (Keeps.step onForm_keeps rfl Keeps.refl))

theorem rollCallFrom_keeps {e : UnitEnd} {s : Part} :
    Keeps [.source, .form, .tallies, .seat, .panel, .disp, .line] s (rollCallFrom e s) := by
  unfold rollCallFrom
  repeat' first
      | with_reducible exact Keeps.refl | with_reducible apply Keeps.step changeRole_keeps
      | with_reducible apply Keeps.step onForm_keeps | with_reducible apply Keeps.step sendLine_keeps | exact rfl

theorem startRollCall_keeps {s : Part} : Keeps [.source, .form, .tallies, .seat, .panel, .disp, .line] s (startRollCall s) := by
  unfold startRollCall
  repeat' first | with_reducible exact Keeps.refl | with_reducible apply Keeps.step rollCallFrom_keeps | exact rfl | split

theorem leaderConflict_keeps {other : Nat} {s : Part} :
    Keeps [.source, .form, .tallies, .seat, .panel, .disp, .host, .events, .line] s (leaderConflict other s) := by
  unfold leaderConflict
  repeat' first
      | with_reducible exact Keeps.refl | with_reducible apply Keeps.step startRollCall_keeps
      | with_reducible apply Keeps.step yieldLead_keeps | with_reducible apply Keeps.step latch_keeps
      | with_reducible apply Keeps.step onForm_keeps | exact rfl | split

theorem evalQualEnd_keeps {s : Part} : Keeps [.source, .form, .tallies, .seat, .panel, .disp] s (evalQualEnd s) := by
  unfold evalQualEnd
  repeat' first
      | with_reducible exact Keeps.refl | with_reducible apply Keeps.step yieldLead_keeps
      | with_reducible apply Keeps.step recordAlone_keeps | with_reducible apply Keeps.step formationChanged_keeps
      | with_reducible apply Keeps.step onForm_keeps | exact rfl | split | fail_if_no_progress extract_lets

theorem recordEffects_keeps {o : Orientation} {s : Part} :
    Keeps [.text, .source, .form, .tallies, .seat, .panel, .disp, .host] s (recordEffects o s) := by
  unfold recordEffects
  repeat' first
      | with_reducible exact Keeps.refl | with_reducible apply Keeps.step endForwards_keeps
      | with_reducible apply Keeps.step formationChanged_keeps | with_reducible apply Keeps.step deriveSummary_keeps
      | with_reducible apply Keeps.step vacateWhere_keeps | with_reducible apply Keeps.step afterSlots_keeps
      | with_reducible apply Keeps.step writeOwnTallies_keeps | with_reducible apply Keeps.step onForm_keeps | exact rfl
      | split

theorem takeRecord_keeps {r : FormRecord} {role : Role} {s : Part} : Keeps [.text, .source, .form, .tallies, .seat, .panel, .disp, .host, .events] s (takeRecord r role s) :=
  Keeps.step latch_keeps rfl (Keeps.step recordEffects_keeps rfl (Keeps.step onForm_keeps rfl Keeps.refl))

theorem ownTalliesOnly_keeps {s : Part} : Keeps [.tallies] s (ownTalliesOnly s) :=
  Keeps.step (onFormTallies_keeps rfl rfl) rfl Keeps.refl

theorem separate_keeps {s : Part} : Keeps [.text, .source, .form, .tallies, .seat, .panel, .disp, .host] s (separate s) := by
  unfold separate
  repeat' first
      | with_reducible exact Keeps.refl | with_reducible apply Keeps.step ownTalliesOnly_keeps
      | with_reducible apply Keeps.step recordEffects_keeps | with_reducible apply Keeps.step recordAlone_keeps
      | with_reducible apply Keeps.step onForm_keeps | exact rfl

theorem isolate_keeps {s : Part} :
    Keeps [.text, .source, .form, .tallies, .seat, .panel, .disp, .host, .events] s (isolate s) := by
  unfold isolate
  repeat' first
      | with_reducible exact Keeps.refl | with_reducible apply Keeps.step changeRole_keeps
      | with_reducible apply Keeps.step endForwards_keeps | with_reducible apply Keeps.step latch_keeps
      | with_reducible apply Keeps.step onForm_keeps | exact rfl

theorem closeRollCall_keeps {answers : List RollAnswerFrame} {s : Part} :
    Keeps [.text, .source, .form, .tallies, .seat, .panel, .disp, .host, .events, .line] s (closeRollCall answers s) := by
  unfold closeRollCall
  repeat' first
      | with_reducible exact Keeps.refl | with_reducible apply Keeps.step takeRecord_keeps
      | with_reducible apply Keeps.step startRollCall_keeps | with_reducible apply Keeps.step startAbsence_keeps
      | with_reducible apply Keeps.step onForm_keeps | with_reducible apply Keeps.step sendLine_keeps | exact rfl | split
      | fail_if_no_progress extract_lets

@[simp] theorem endGrant_trainTally (f : Formation) : (endGrant f).trainTally = f.trainTally := by unfold endGrant; split <;> rfl

@[simp] theorem endGrant_spacing (f : Formation) : (endGrant f).spacing = f.spacing := by unfold endGrant; split <;> rfl

@[simp] theorem endGrant_tallyPending (f : Formation) : (endGrant f).tallyPending = f.tallyPending := by unfold endGrant; split <;> rfl

@[simp] theorem endGrant_queue (f : Formation) : (endGrant f).queue = f.queue := by unfold endGrant; split <;> rfl

theorem sendBeacon_keeps {s : Part} : Keeps [.form, .line] s (sendBeacon s) :=
  Keeps.step sendLine_keeps rfl (Keeps.step (onFormBut_keeps (endGrant_trainTally _) (endGrant_spacing _)
    (endGrant_tallyPending _) (by simp)) rfl Keeps.refl)

theorem sendItem_keeps {x : LineItem} {s : Part} : Keeps [.form, .line] s (sendItem x s) := by
  unfold sendItem
  repeat' first
      | with_reducible exact Keeps.refl | with_reducible apply Keeps.step (onFormBut_keeps ?_ ?_ ?_ ?_)
      | with_reducible apply Keeps.step sendLine_keeps | exact rfl | exact Iff.rfl | split

theorem sendItems_keeps {k : Nat} {s : Part} : Keeps [.form, .tallies, .line] s (sendItems k s) := by
  induction k generalizing s with
  | zero => exact Keeps.refl
  | succ k ih =>
    unfold sendItems
    split
    · exact Keeps.step ih rfl (Keeps.step sendItem_keeps rfl (Keeps.step onForm_keeps rfl Keeps.refl))
    · exact Keeps.refl

theorem sendGranted_keeps {s : Part} : Keeps [.form, .tallies, .line] s (sendGranted s) :=
  Keeps.step sendLine_keeps rfl (Keeps.step sendItems_keeps rfl Keeps.refl)

theorem applySnapshot_keeps {x : Snapshot} {s : Part} :
    Keeps [.route, .source, .est, .tallies, .legs, .views, .seat, .panel, .disp, .host, .events] s (applySnapshot x s) := by
  unfold applySnapshot
  repeat' first
      | with_reducible exact Keeps.refl | with_reducible apply Keeps.step handOff_keeps
      | with_reducible apply Keeps.step setProg_keeps | exact rfl | split | fail_if_no_progress extract_lets

theorem noteMismatch_keeps {f : BeaconFrame} {s : Part} : Keeps [.route, .host, .events] s (noteMismatch f s) := by
  unfold noteMismatch
  split
  · exact Keeps.step latch_keeps rfl (Keeps.step (routeBut_keeps rfl) rfl Keeps.refl)
  · exact Keeps.refl

theorem followBeacon_keeps {f : BeaconFrame} {s : Part} :
    Keeps [.route, .source, .est, .tallies, .legs, .views, .seat, .panel, .disp, .host, .events] s (followBeacon f s) := by
  have h1 : Keeps [.route, .source, .est, .tallies, .legs, .views, .seat, .panel, .disp, .host, .events] s
      (if f.clockSet && f.clock != s.route.clock then writeClock f.clock s else s) :=
    Keeps.ite (Keeps.step writeClock_keeps rfl Keeps.refl) Keeps.refl
  have h2 (r : Route) : Keeps [.route, .source, .est, .tallies, .legs, .views, .seat, .panel, .disp, .host, .events] s
      (evalSource { (if f.clockSet && f.clock != s.route.clock then writeClock f.clock s else s) with route := r }) :=
    Keeps.step evalSource_keeps rfl (Keeps.step route_keeps rfl h1)
  exact Keeps.ite (Keeps.step applySnapshot_keeps rfl (h2 _)) (Keeps.step noteMismatch_keeps rfl (h2 _))

theorem takeBeacon_keeps {f : BeaconFrame} {s : Part} :
    Keeps [.route, .source, .est, .form, .tallies, .legs, .views, .seat, .panel, .disp, .host, .events, .line] s (takeBeacon f s) := by
  unfold takeBeacon
  repeat' first
      | with_reducible exact Keeps.refl | with_reducible apply Keeps.step followBeacon_keeps
      | with_reducible apply Keeps.step restartLoss_keeps | with_reducible apply Keeps.step sendLine_keeps | exact rfl

theorem markSlot_keeps {s : Part} : Keeps [.line] s (markSlot s) := Keeps.step sendLine_keeps rfl Keeps.refl

theorem hearBeacon_keeps {f : BeaconFrame} {s : Part} :
    Keeps [.route, .source, .est, .form, .tallies, .legs, .views, .seat, .panel, .disp, .host, .events, .line] s (hearBeacon f s) := by
  unfold hearBeacon
  repeat' first
      | with_reducible exact Keeps.refl | with_reducible apply Keeps.step markSlot_keeps
      | with_reducible apply Keeps.step takeBeacon_keeps | with_reducible apply Keeps.step leaderConflict_keeps
      | with_reducible apply Keeps.step changeRole_keeps | with_reducible apply Keeps.step restartLoss_keeps
      | with_reducible apply Keeps.step onForm_keeps | exact rfl | split

theorem fillSlot_keeps {l : NoticeLevel} {i : Nat} {origin : Option Nat} {id : Nat} {sub : Nat} {t : Targets} {h : Nat} {duration : Nat} {s : Part} :
    Keeps [.text, .panel] s (fillSlot l i origin id sub t h duration s) := by
  unfold fillSlot
  repeat' first
      | with_reducible exact Keeps.refl | with_reducible apply Keeps.step putSlot_keeps
      | with_reducible apply Keeps.step onText_keeps | exact rfl

theorem placeNotice_keeps {origin : Nat} {id : Nat} {l : NoticeLevel} {sub : Nat} {t : Targets} {duration : Nat} {h : Nat} {s : Part} :
    Keeps [.text, .panel, .disp] s (placeNotice origin id l sub t duration h s).1 := by
  unfold placeNotice
  repeat' first
      | with_reducible exact Keeps.refl | with_reducible apply Keeps.step fillSlot_keeps
      | with_reducible apply Keeps.step afterSlots_keeps | with_reducible apply Keeps.step vacate_keeps
      | with_reducible apply Keeps.step onText_keeps | exact rfl | split

theorem receiveNotice_keeps {f : NoticeFwdFrame} {s : Part} : Keeps [.text, .panel, .disp] s (receiveNotice f s).1 := by
  unfold receiveNotice
  split
  · split
    · exact Keeps.step placeNotice_keeps rfl (Keeps.step text_keeps rfl Keeps.refl)
    · exact Keeps.refl
  · split
    · exact Keeps.step emptySlot_keeps rfl Keeps.refl
    · exact Keeps.refl

theorem takeTally_keeps {f : TallyFrame} {s : Part} :
    Keeps [.source, .form, .tallies, .seat, .panel, .disp] s (takeTally f s) := by
  unfold takeTally
  repeat' first
      | with_reducible exact Keeps.refl | with_reducible apply Keeps.step formationChanged_keeps
      | with_reducible apply Keeps.step deriveSummary_keeps
      | with_reducible apply Keeps.step onForm_keeps | exact rfl | split | fail_if_no_progress extract_lets

/-! ### Machine/LineOps.lean -/

theorem beginTransfer_keeps {s : Part} : Keeps [.disp] s (beginTransfer s) := by
  unfold beginTransfer
  repeat' first
      | with_reducible exact Keeps.refl | with_reducible apply Keeps.step onDisp_keeps
      | with_reducible apply Keeps.step sendDisp_keeps | exact rfl | split

theorem beginPoll_keeps {s : Part} : Keeps [.disp] s (beginPoll s) := by
  unfold beginPoll
  repeat' first
      | with_reducible exact Keeps.refl | with_reducible apply Keeps.step onDisp_keeps
      | with_reducible apply Keeps.step sendDisp_keeps | exact rfl | split

theorem arbiter_keeps {s : Part} : Keeps [.disp] s (arbiter s) := by
  unfold arbiter
  repeat' first
      | with_reducible exact Keeps.refl | with_reducible apply Keeps.step beginPoll_keeps
      | with_reducible apply Keeps.step beginTransfer_keeps | exact rfl | split

theorem kick_keeps {s : Part} : Keeps [] s (kick s) := by
  unfold kick
  split
  · rename_i h
    have hk : Keeps [.disp] s (arbiter s) := arbiter_keeps
    have hf : s.disp.inFlight.isSome = false := by simp_all
    refine ⟨fun b _ => ?_⟩
    by_cases hb : b = .disp
    · subst hb
      refine ⟨?_, fun hx => absurd hx (by simp [hf])⟩
      unfold arbiter beginTransfer beginPoll onDisp
      (repeat' split) <;> rfl
    · exact hk.all b (by simpa using hb)
  · exact Keeps.refl

theorem freeLine_keeps {s : Part} : Keeps [.disp] s (freeLine s) := Keeps.step onDisp_keeps rfl Keeps.refl

theorem onEntry_keeps {a : EpAddr} {f : EpEntry → EpEntry} {s : Part} : Keeps [.disp] s (onEntry a f s) :=
  Keeps.step onDisp_keeps rfl Keeps.refl

theorem requeue_keeps {a : EpAddr} {s : Part} : Keeps [.disp] s (requeue a s) := Keeps.step onDisp_keeps rfl Keeps.refl

theorem ackTransfer_keeps {a : EpAddr} {v : Nat} {w : Nat} {s : Part} : Keeps [.disp] s (ackTransfer a v w s) := by
  unfold ackTransfer
  repeat' first
      | with_reducible exact Keeps.refl | with_reducible apply Keeps.step requeue_keeps
      | with_reducible apply Keeps.step onEntry_keeps | with_reducible apply Keeps.step freeLine_keeps | exact rfl | split
      | fail_if_no_progress extract_lets

theorem takeReading_keeps {c : Nat} {p : Nat} {raw : Nat} {s : Part} :
    Keeps [.tallies, .legs, .views, .sensors, .seat, .panel, .disp, .host, .events] s (takeReading c p raw s) := by
  unfold takeReading
  repeat' first
      | with_reducible exact Keeps.refl | with_reducible apply Keeps.step refreshSeats_keeps
      | with_reducible apply Keeps.step sensorUpdate_keeps | with_reducible apply Keeps.step pollReport_keeps | exact rfl

theorem readingOf_keeps {a : EpAddr} {x : PollStatus} {s : Part} :
    Keeps [.tallies, .legs, .views, .sensors, .seat, .panel, .disp, .host, .events] s (readingOf a x s) := by
  unfold readingOf
  repeat' first | with_reducible exact Keeps.refl | with_reducible apply Keeps.step takeReading_keeps | exact rfl | split

theorem pollAnswered_keeps {a : EpAddr} {held : Option Nat} {x : PollStatus} {s : Part} :
    Keeps [.tallies, .legs, .views, .sensors, .seat, .panel, .disp, .host, .events] s (pollAnswered a held x s) := by
  unfold pollAnswered
  repeat' first
      | with_reducible exact Keeps.refl | with_reducible apply Keeps.step readingOf_keeps
      | with_reducible apply Keeps.step requeue_keeps | with_reducible apply Keeps.step onEntry_keeps
      | with_reducible apply Keeps.step freeLine_keeps | exact rfl | split

theorem probeAnswered_keeps {a : EpAddr} {x : PollStatus} {s : Part} :
    Keeps [.sensors, .disp, .host, .events] s (probeAnswered a x s) := by
  unfold probeAnswered
  repeat' first
      | with_reducible exact Keeps.refl | with_reducible apply Keeps.step requeue_keeps
      | with_reducible apply Keeps.step onEntry_keeps | with_reducible apply Keeps.step freeLine_keeps
      | with_reducible apply Keeps.step sensorUpdate_keeps | with_reducible apply Keeps.step latch_keeps | exact rfl | split

theorem setAbsent_keeps {a : EpAddr} {s : Part} : Keeps [.sensors, .disp, .host, .events] s (setAbsent a s) := by
  unfold setAbsent
  repeat' first
      | with_reducible exact Keeps.refl | with_reducible apply Keeps.step sensorUpdate_keeps
      | with_reducible apply Keeps.step latch_keeps | with_reducible apply Keeps.step onDisp_keeps | exact rfl | split

theorem countMiss_keeps {a : EpAddr} {transfer : Bool} {s : Part} :
    Keeps [.sensors, .disp, .host, .events] s (countMiss a transfer s) := by
  unfold countMiss
  repeat' first
      | with_reducible exact Keeps.refl | with_reducible apply Keeps.step setAbsent_keeps
      | with_reducible apply Keeps.step requeue_keeps | with_reducible apply Keeps.step onEntry_keeps
      | with_reducible apply Keeps.step freeLine_keeps | exact rfl | split | fail_if_no_progress extract_lets

theorem probeMissed_keeps {a : EpAddr} {s : Part} : Keeps [.disp] s (probeMissed a s) :=
  Keeps.step onEntry_keeps rfl (Keeps.step freeLine_keeps rfl Keeps.refl)

theorem windowExpired_keeps {s : Part} : Keeps [.sensors, .disp, .host, .events] s (windowExpired s) := by
  unfold windowExpired
  repeat' first
      | with_reducible exact Keeps.refl | with_reducible apply Keeps.step probeMissed_keeps
      | with_reducible apply Keeps.step countMiss_keeps | exact rfl | split

/-! ### Machine/HostOps.lean -/

theorem pump_keeps {s : Part} : Keeps [] s (pump s) := by
  unfold pump
  split
  · rename_i h
    have hf : s.host.sending.isSome = false := by simp_all
    refine ⟨fun b _ => ?_⟩
    cases b <;> simp [Block.kept, Block.same, onHost, hf]
  · exact Keeps.refl

theorem frameEnd_keeps {s : Part} : Keeps [.host] s (frameEnd s) := Keeps.step (onHostBut_keeps rfl rfl) rfl Keeps.refl

theorem finish_keeps {s : Part} : Keeps [] s (finish s) := Keeps.step kick_keeps rfl (Keeps.step pump_keeps rfl Keeps.refl)

/-! ### Machine/SupplyOps.lean -/

theorem recordOff_keeps {r : OffReason} {s : Part} : Keeps [.supply] s (recordOff r s) := Keeps.step onSupply_keeps rfl Keeps.refl

theorem hostStart_keeps {s : Part} : Keeps [.host, .events] s (hostStart s) := by
  exact onHostEvents_keeps (by simp)

theorem startCold_keeps {s : Part} : Keeps [.form, .panel, .supply, .host, .events] s (startCold s) := by
  unfold startCold
  repeat' first
      | with_reducible exact Keeps.refl | with_reducible apply Keeps.step hostStart_keeps
      | with_reducible apply Keeps.step recordAlone_keeps | with_reducible apply Keeps.step restartStabling_keeps
      | with_reducible apply Keeps.step (onFormBut_keeps ?_ ?_ ?_ ?_) | with_reducible apply Keeps.step onSupply_keeps
      | exact rfl | exact Iff.rfl

theorem stopCoupler_keeps {s : Part} : Keeps [.text, .form, .tallies] s (stopCoupler s) :=
  Keeps.step onText_keeps rfl (Keeps.step onForm_keeps rfl Keeps.refl)

theorem stopHost_keeps {s : Part} : Keeps [.host] s (stopHost s) := Keeps.step (onHostBut_keeps rfl rfl) rfl Keeps.refl

theorem enterHold_keeps {s : Part} : Keeps [.text, .form, .tallies, .disp, .supply, .host] s (enterHold s) :=
  Keeps.step stopHost_keeps rfl (Keeps.step stopCoupler_keeps rfl (Keeps.step onDisp_keeps rfl (Keeps.step onSupply_keeps rfl Keeps.refl)))

theorem staleProgress_keeps {s : Part} : Keeps [.route, .host, .events] s (staleProgress s) := by
  unfold staleProgress
  repeat' first
      | with_reducible exact Keeps.refl | with_reducible apply Keeps.step latch_keeps
      | with_reducible apply Keeps.step (setProgBut_keeps ?_) | exact rfl | split

theorem resumeRole_keeps {s : Part} : Keeps [.source, .form, .tallies, .seat, .panel, .disp, .line] s (resumeRole s) := by
  unfold resumeRole
  repeat' first
      | with_reducible exact Keeps.refl | with_reducible apply Keeps.step evalQualEnd_keeps
      | with_reducible apply Keeps.step startRollCall_keeps | with_reducible apply Keeps.step yieldLead_keeps
      | with_reducible apply Keeps.step startAbsence_keeps | with_reducible apply Keeps.step restartLoss_keeps | exact rfl
      | split | fail_if_no_progress extract_lets

theorem returnAlone_keeps {s : Part} : Keeps [.text, .source, .form, .tallies, .seat, .panel, .disp, .host] s (returnAlone s) :=
  Keeps.step separate_keeps rfl (Keeps.step onForm_keeps rfl Keeps.refl)

theorem warmReturn_keeps {extended : Bool} {s : Part} :
    Keeps [.unit, .text, .route, .source, .est, .form, .tallies, .views, .sensors, .seat, .panel, .disp, .supply, .host, .events, .line] s (warmReturn extended s) := by
  have h0 (f : Supply → Supply) (u : UnitDesc) :
      Keeps [.unit, .route, .disp, .supply, .host, .events] s (onDisp warmDisplay { onSupply f s with unit := u }) :=
    Keeps.step onDisp_keeps rfl (Keeps.step unit_keeps rfl (Keeps.step onSupply_keeps rfl Keeps.refl))
  have h5 (y : Part) (f : Formation → Formation) (h : Keeps [.unit, .route, .disp, .supply, .host, .events] s y) :
      Keeps [.unit, .text, .route, .source, .est, .form, .tallies, .views, .sensors, .seat, .panel, .disp, .supply, .host,
        .events, .line] s (onForm f (refreshSeats (mapSensors (fun _ => {}) (estRecompute y)))) :=
    Keeps.step onForm_keeps rfl (Keeps.step refreshSeats_keeps rfl (Keeps.step mapSensors_keeps rfl
      (Keeps.step estRecompute_keeps rfl (Keeps.step h rfl Keeps.refl))))
  exact Keeps.step hostStart_keeps rfl (Keeps.step composer_keeps rfl (Keeps.ite
    (Keeps.step returnAlone_keeps rfl (h5 _ _ (Keeps.ite (Keeps.step staleProgress_keeps rfl (h0 _ _)) (h0 _ _))))
    (Keeps.step resumeRole_keeps rfl (h5 _ _ (Keeps.ite (Keeps.step staleProgress_keeps rfl (h0 _ _)) (h0 _ _))))))

theorem releaseReset_keeps {s : Part} : Keeps [.supply] s (releaseReset s) := Keeps.step onSupply_keeps rfl Keeps.refl

end Sys2Proof.Machine
end

