-- ==== Sys2Proof/Laws/EventsKeep.lean ====
section
/-! SUPPORT. What the other commands can touch, one lemma each. -/
namespace Sys2Proof.Machine

/-! ### Machine/HostLine.lean -/

theorem unknownKind_keeps {kind : Byte} {tag : Byte} {s : Part} : Keeps [.host] s (unknownKind kind tag s) := by
  unfold unknownKind
  split
  · exact Keeps.step (onHostBut_keeps (by simp) (by simp)) rfl (Keeps.step frameEnd_keeps rfl Keeps.refl)
  · exact Keeps.refl

theorem dropFrame_keeps {s : Part} : Keeps [.host] s (dropFrame s) := by
  unfold dropFrame
  repeat' first | with_reducible exact Keeps.refl | with_reducible apply Keeps.step frameEnd_keeps | exact rfl | split

theorem beginFrame_keeps {rest : List Byte} {s : Part} : Keeps [.host] s (beginFrame rest s) := by
  unfold beginFrame
  repeat' first | with_reducible exact Keeps.refl | with_reducible apply Keeps.step (onHostBut_keeps ?_ ?_) | exact rfl | split

theorem lengthError_keeps {length : Nat} {s : Part} : Keeps [.host] s (lengthError length s) := by
  unfold lengthError
  repeat' first | with_reducible exact Keeps.refl | with_reducible apply Keeps.step dropFrame_keeps | exact rfl | split

theorem crcError_keeps {kind : Byte} {tag : Byte} {body : List Byte} {crc : BitVec 16} {s : Part} :
    Keeps [.host] s (crcError kind tag body crc s) := by
  unfold crcError
  repeat' first | with_reducible exact Keeps.refl | with_reducible apply Keeps.step frameEnd_keeps | exact rfl | split

/-! ### Machine/SupplySteps.lean -/

theorem retentionRecovers_keeps {s : Part} : Keeps [.supply] s (retentionRecovers s) := by
  unfold retentionRecovers
  repeat' first | with_reducible exact Keeps.refl | with_reducible apply Keeps.step onSupply_keeps | exact rfl | split

theorem holdExpires_keeps {s : Part} : Keeps [.supply] s (holdExpires s) := by
  unfold holdExpires
  repeat' first | with_reducible exact Keeps.refl | with_reducible apply Keeps.step onSupply_keeps | exact rfl | split

theorem settled_keeps {s : Part} : Keeps [.supply] s (settled s) := by
  unfold settled
  repeat' first | with_reducible exact Keeps.refl | with_reducible apply Keeps.step onSupply_keeps | exact rfl | split

/-! ### Machine/TimeSteps.lean -/

theorem advanceClock_keeps {s : Part} : Keeps [.route, .host, .events] s (advanceClock s) := by
  unfold advanceClock
  split
  · exact Keeps.step (routeBut_keeps rfl) rfl Keeps.refl
  · split
    · exact Keeps.refl
    · exact Keeps.step latch_keeps rfl (Keeps.step (routeBut_keeps rfl) rfl Keeps.refl)

theorem beat_keeps {s : Part} : Keeps [.sensors, .panel, .disp, .supply] s (beat s) := by
  unfold beat
  split
  · exact Keeps.step panel_keeps rfl (Keeps.step onDisp_keeps rfl (Keeps.step mapSensors_keeps rfl
      (Keeps.step onSupply_keeps rfl Keeps.refl)))
  · exact Keeps.step panel_keeps rfl (Keeps.step onSupply_keeps rfl Keeps.refl)
  · exact Keeps.step onSupply_keeps rfl Keeps.refl
  · exact Keeps.refl

theorem clockTick_keeps {s : Part} :
    Keeps [.route, .est, .tallies, .legs, .views, .sensors, .seat, .panel, .disp, .supply, .host, .events] s (clockTick s) := by
  unfold clockTick
  repeat' first
      | with_reducible exact Keeps.refl | with_reducible apply Keeps.step beat_keeps
      | with_reducible apply Keeps.step advanceClock_keeps | with_reducible apply Keeps.step minuteAdvanced_keeps
      | with_reducible apply Keeps.step refreshSeats_keeps | with_reducible apply Keeps.step decideDeadlines_keeps | exact rfl
      | split

theorem claimDeadline_keeps {i : Nat} {s : Part} : Keeps [.tallies, .legs, .views, .seat, .panel, .disp, .host, .events] s (claimDeadline i s) :=
  Keeps.step refreshSeats_keeps rfl (Keeps.step mapReleasing_keeps rfl Keeps.refl)

theorem evidenceExpires_keeps {c : Nat} {p : Nat} {s : Part} : Keeps [.sensors] s (evidenceExpires c p s) := by
  unfold evidenceExpires
  repeat' first | with_reducible exact Keeps.refl | with_reducible apply Keeps.step sensorUpdate_keeps | exact rfl | split

theorem dwellEnds_keeps {x : ContextId} {s : Part} : Keeps [.panel, .disp] s (dwellEnds x s) := by
  unfold dwellEnds
  split
  · split
    · exact Keeps.step renderPanels_keeps rfl (Keeps.step panel_keeps rfl Keeps.refl)
    · exact Keeps.refl
  · exact Keeps.refl

theorem noticeExpires_keeps {l : NoticeLevel} {i : Nat} {s : Part} :
    Keeps [.text, .panel, .disp, .host, .events] s (noticeExpires l i s) := by
  unfold noticeExpires
  repeat' first
      | with_reducible exact Keeps.refl | with_reducible apply Keeps.step emptySlot_keeps
      | with_reducible apply Keeps.step latch_keeps | exact rfl | split

theorem stablingEnds_keeps {s : Part} : Keeps [.panel, .disp] s (stablingEnds s) := by
  unfold stablingEnds
  split
  · exact Keeps.step composer_keeps rfl (Keeps.step panel_keeps rfl Keeps.refl)
  · exact Keeps.refl

/-! ### Machine/CouplerSteps.lean -/

theorem senseChanges_keeps {e : UnitEnd} {c : Bool} {s : Part} : Keeps [.form] s (senseChanges e c s) := by
  unfold senseChanges
  repeat' first
      | with_reducible exact Keeps.refl | with_reducible apply Keeps.step (onFormBut_keeps ?_ ?_ ?_ ?_) | exact rfl
      | exact Iff.rfl | split

theorem couplingByRole_keeps {s : Part} :
    Keeps [.text, .source, .form, .tallies, .seat, .panel, .disp, .host] s (couplingByRole s) := by
  unfold couplingByRole
  repeat' first
      | with_reducible exact Keeps.refl | with_reducible apply Keeps.step separate_keeps
      | with_reducible apply Keeps.step onForm_keeps | exact rfl | split

theorem couplingEvent_keeps {e : UnitEnd} {s : Part} :
    Keeps [.text, .source, .form, .tallies, .seat, .panel, .disp, .host] s (couplingEvent e s) := by
  unfold couplingEvent
  repeat' first
      | with_reducible exact Keeps.refl | with_reducible apply Keeps.step couplingByRole_keeps
      | with_reducible apply Keeps.step evalQualEnd_keeps | with_reducible apply Keeps.step onForm_keeps | exact rfl | split

theorem cabChanges_keeps {e : UnitEnd} {active : Bool} {s : Part} :
    Keeps [.source, .form, .tallies, .seat, .panel, .disp] s (cabChanges e active s) := by
  refine Keeps.step (M := [.source, .form, .tallies, .seat, .panel, .disp]) (inRun_keeps evalQualEnd_keeps) rfl
    (Keeps.step onForm_keeps rfl Keeps.refl)

theorem rollSensed_keeps {e : UnitEnd} {s : Part} : Keeps [.form, .line] s (rollSensed e s) := by
  unfold rollSensed
  repeat' first
      | with_reducible exact Keeps.refl | with_reducible apply Keeps.step (onFormBut_keeps ?_ ?_ ?_ ?_)
      | with_reducible apply Keeps.step sendLine_keeps | exact rfl | exact Iff.rfl | split

theorem claimLead_keeps {s : Part} : Keeps [.source, .form, .tallies, .seat, .panel, .disp, .line] s (claimLead s) := by
  unfold claimLead
  repeat' first
      | with_reducible exact Keeps.refl | with_reducible apply Keeps.step sendBeacon_keeps
      | with_reducible apply Keeps.step startRollCall_keeps | with_reducible apply Keeps.step changeRole_keeps | exact rfl
      | split

theorem awaitRoll_keeps {s : Part} : Keeps [.source, .form, .tallies, .seat, .panel, .disp] s (awaitRoll s) :=
  Keeps.step restartLoss_keeps rfl (Keeps.step onForm_keeps rfl (Keeps.step changeRole_keeps rfl Keeps.refl))

theorem hearRollCall_keeps {u : Nat} {s : Part} :
    Keeps [.source, .form, .tallies, .seat, .panel, .disp, .host, .events, .line] s (hearRollCall u s) := by
  unfold hearRollCall
  repeat' first
      | with_reducible exact Keeps.refl | with_reducible apply Keeps.step awaitRoll_keeps
      | with_reducible apply Keeps.step leaderConflict_keeps | exact rfl | split | fail_if_no_progress extract_lets

theorem hearAnswer_keeps {x : RollAnswerFrame} {s : Part} :
    Keeps [.text, .source, .form, .tallies, .seat, .panel, .disp, .host, .events, .line] s (hearAnswer x s) := by
  unfold hearAnswer
  repeat' first
      | with_reducible exact Keeps.refl | with_reducible apply Keeps.step closeRollCall_keeps
      | with_reducible apply Keeps.step onForm_keeps | exact rfl | split | fail_if_no_progress extract_lets

theorem rollSilence_keeps {s : Part} :
    Keeps [.text, .source, .form, .tallies, .seat, .panel, .disp, .host, .events, .line] s (rollSilence s) := by
  unfold rollSilence
  repeat' first | with_reducible exact Keeps.refl | with_reducible apply Keeps.step closeRollCall_keeps | exact rfl | split

theorem takeFormation_keeps {epoch : Nat} {units : List UnitEntry} {s : Part} :
    Keeps [.text, .source, .form, .tallies, .seat, .panel, .disp, .host, .events] s (takeFormation epoch units s) := by
  unfold takeFormation
  repeat' first
      | with_reducible exact Keeps.refl | with_reducible apply Keeps.step separate_keeps
      | with_reducible apply Keeps.step takeRecord_keeps | with_reducible apply Keeps.step restartLoss_keeps
      | with_reducible apply Keeps.step latch_keeps | with_reducible apply Keeps.step onForm_keeps | exact rfl | split

theorem hearFormation_keeps {leader : Nat} {epoch : Nat} {units : List UnitEntry} {s : Part} :
    Keeps [.text, .source, .form, .tallies, .seat, .panel, .disp, .host, .events, .line] s (hearFormation leader epoch units s) := by
  unfold hearFormation
  repeat' first
      | with_reducible exact Keeps.refl | with_reducible apply Keeps.step takeFormation_keeps
      | with_reducible apply Keeps.step leaderConflict_keeps | exact rfl | split

theorem lineCycle_keeps {s : Part} : Keeps [.source, .form, .tallies, .seat, .panel, .disp, .line] s (lineCycle s) := by
  unfold lineCycle
  repeat' first
      | with_reducible exact Keeps.refl | with_reducible apply Keeps.step sendBeacon_keeps
      | with_reducible apply Keeps.step startRollCall_keeps | with_reducible apply Keeps.step onForm_keeps | exact rfl | split

theorem ownTurn_keeps {s : Part} : Keeps [.form, .tallies, .line] s (ownTurn s) :=
  Keeps.step onForm_keeps rfl (Keeps.step sendGranted_keeps rfl Keeps.refl)

theorem grantTo_keeps {u : Nat} {s : Part} : Keeps [.form, .tallies, .line] s (grantTo u s) := by
  unfold grantTo
  repeat' first
      | with_reducible exact Keeps.refl | with_reducible apply Keeps.step ownTurn_keeps
      | with_reducible apply Keeps.step onForm_keeps | with_reducible apply Keeps.step sendLine_keeps | exact rfl | split

theorem windowEnds_keeps {s : Part} : Keeps [.form, .tallies, .line] s (windowEnds s) := by
  unfold windowEnds
  repeat' first
      | with_reducible exact Keeps.refl | with_reducible apply Keeps.step grantTo_keeps
      | with_reducible apply Keeps.step onForm_keeps | exact rfl | split | fail_if_no_progress extract_lets

theorem hearResponse_keeps {u : Nat} {cycle : Nat} {level : Nat} {s : Part} : Keeps [.form] s (hearResponse u cycle level s) := by
  unfold hearResponse
  repeat' first
      | with_reducible exact Keeps.refl | with_reducible apply Keeps.step heardUnit_keeps
      | with_reducible apply Keeps.step (onFormBut_keeps ?_ ?_ ?_ ?_) | exact rfl | exact Iff.rfl | split

theorem hearMark_keeps {s : Part} : Keeps [.form] s (hearMark s) := by
  unfold hearMark
  repeat' first
      | with_reducible exact Keeps.refl | with_reducible apply Keeps.step (onFormBut_keeps ?_ ?_ ?_ ?_) | exact rfl
      | exact Iff.rfl | split

theorem noteGrant_keeps {leader : Nat} {u : Nat} {s : Part} : Keeps [.form] s (noteGrant leader u s) := by
  unfold noteGrant
  split
  · exact onFormBut_keeps (by simp [beginGrant]) (by simp [beginGrant]) (by simp [beginGrant]) (by simp [beginGrant])
  · exact Keeps.refl

theorem followGrant_keeps {leader : Nat} {u : Nat} {cycle : Nat} {s : Part} :
    Keeps [.form, .tallies, .line] s (followGrant leader u cycle s) := by
  unfold followGrant
  repeat' first
      | with_reducible exact Keeps.refl | with_reducible apply Keeps.step ownTurn_keeps
      | with_reducible apply Keeps.step noteGrant_keeps | exact rfl | split

theorem hearGrant_keeps {leader : Nat} {u : Nat} {cycle : Nat} {s : Part} :
    Keeps [.source, .form, .tallies, .seat, .panel, .disp, .host, .events, .line] s (hearGrant leader u cycle s) := by
  unfold hearGrant
  repeat' first
      | with_reducible exact Keeps.refl | with_reducible apply Keeps.step followGrant_keeps
      | with_reducible apply Keeps.step leaderConflict_keeps | with_reducible apply Keeps.step restartLoss_keeps
      | with_reducible apply Keeps.step noteGrant_keeps | exact rfl | split

theorem hearFormationReq_keeps {u : Nat} {epoch : Nat} {s : Part} : Keeps [.form] s (hearFormationReq u epoch s) := by
  unfold hearFormationReq
  repeat' first
      | with_reducible exact Keeps.refl | with_reducible apply Keeps.step heardUnit_keeps
      | with_reducible apply Keeps.step (onFormBut_keeps ?_ ?_ ?_ ?_) | exact rfl | exact Iff.rfl | split

theorem hearNoticeFwd_keeps {f : NoticeFwdFrame} {s : Part} : Keeps [.text, .form, .panel, .disp] s (hearNoticeFwd f s) := by
  unfold hearNoticeFwd
  split
  · extract_lets s0
    have h0 : Keeps [.text, .form, .panel, .disp] s s0 := Keeps.step heardUnit_keeps rfl Keeps.refl
    split
    · refine Keeps.step (onFormBut_keeps ?_ ?_ ?_ ?_) rfl (Keeps.step receiveNotice_keeps rfl h0) <;>
        unfold queueItem <;> split <;> simp
    · exact h0
  · exact Keeps.refl

theorem completeForward_keeps {e : Forward} {s : Part} : Keeps [.text, .form, .host] s (completeForward e s) := by
  unfold completeForward
  repeat' first | with_reducible exact Keeps.refl | with_reducible apply Keeps.step endForward_keeps | exact rfl | split

theorem matchAnswer_keeps {f : NoticeAnsFrame} {s : Part} : Keeps [.text, .form, .host] s (matchAnswer f s) := by
  unfold matchAnswer
  repeat' first
      | with_reducible exact Keeps.refl | with_reducible apply Keeps.step completeForward_keeps
      | with_reducible apply Keeps.step (onFormBut_keeps ?_ ?_ ?_ ?_) | exact rfl | exact Iff.rfl | split
      | fail_if_no_progress extract_lets

theorem hearNoticeAns_keeps {f : NoticeAnsFrame} {s : Part} : Keeps [.text, .form, .host] s (hearNoticeAns f s) := by
  unfold hearNoticeAns
  repeat' first
      | with_reducible exact Keeps.refl | with_reducible apply Keeps.step matchAnswer_keeps
      | with_reducible apply Keeps.step heardUnit_keeps | exact rfl | split | fail_if_no_progress extract_lets

theorem hearTally_keeps {f : TallyFrame} {s : Part} :
    Keeps [.source, .form, .tallies, .seat, .panel, .disp] s (hearTally f s) := by
  unfold hearTally
  repeat' first
      | with_reducible exact Keeps.refl | with_reducible apply Keeps.step takeTally_keeps
      | with_reducible apply Keeps.step heardUnit_keeps | exact rfl | split | fail_if_no_progress extract_lets

theorem lossExpires_keeps {s : Part} :
    Keeps [.text, .source, .form, .tallies, .seat, .panel, .disp, .host, .events] s (lossExpires s) := by
  unfold lossExpires
  repeat' first
      | with_reducible exact Keeps.refl | with_reducible apply Keeps.step isolate_keeps
      | with_reducible apply Keeps.step onForm_keeps | exact rfl | split

theorem absenceExpires_keeps {u : Nat} {s : Part} : Keeps [.form] s (absenceExpires u s) := by
  unfold absenceExpires
  repeat' first
      | with_reducible exact Keeps.refl | with_reducible apply Keeps.step (onFormBut_keeps ?_ ?_ ?_ ?_) | exact rfl
      | exact Iff.rfl | split

theorem answerExpires_keeps {n : Nat} {s : Part} : Keeps [.text, .form, .host, .events] s (answerExpires n s) := by
  unfold answerExpires
  repeat' first
      | with_reducible exact Keeps.refl | with_reducible apply Keeps.step endForward_keeps
      | with_reducible apply Keeps.step latch_keeps | with_reducible apply Keeps.step (onFormBut_keeps ?_ ?_ ?_ ?_)
      | exact rfl | exact Iff.rfl | split

/-- Queueing a TALLY changes the queue alone. -/
theorem queueTally_eq (f : Formation) : queueTally f = { f with queue := (queueTally f).queue } := by
  unfold queueTally queueItem
  split
  · rfl
  · split <;> rfl

/-- Queueing a TALLY leaves the other items as they stand. -/
@[simp] theorem otherItems_queueTally (f : Formation) : otherItems (queueTally f).queue = otherItems f.queue := by
  unfold queueTally queueItem
  split
  · rfl
  · split <;> simp [otherItems]

theorem spacingExpires_keeps {s : Part} : Keeps [.tallies] s (spacingExpires s) := by
  unfold spacingExpires
  split
  · split
    · exact onFormTallies_keeps (by simp) (by dsimp only; rw [queueTally_eq s.form])
    · exact onFormTallies_keeps rfl rfl
  · exact Keeps.refl

theorem withdraw_keeps {s : Part} : Keeps [.text, .form, .tallies, .host, .events] s (withdraw s) := by
  unfold withdraw
  repeat' first
      | with_reducible exact Keeps.refl | with_reducible apply Keeps.step endForward_keeps
      | with_reducible apply Keeps.step latch_keeps | with_reducible apply Keeps.step onForm_keeps | exact rfl | split

/-! ### Machine/DisplaySteps.lean -/

theorem ackArrives_keeps {a : EpAddr} {w : Nat} {s : Part} : Keeps [.disp] s (ackArrives a w s) := by
  unfold ackArrives
  repeat' first | with_reducible exact Keeps.refl | with_reducible apply Keeps.step ackTransfer_keeps | exact rfl | split

theorem replyArrives_keeps {a : EpAddr} {held : Option Nat} {x : PollStatus} {s : Part} :
    Keeps [.tallies, .legs, .views, .sensors, .seat, .panel, .disp, .host, .events] s (replyArrives a held x s) := by
  unfold replyArrives
  repeat' first
      | with_reducible exact Keeps.refl | with_reducible apply Keeps.step probeAnswered_keeps
      | with_reducible apply Keeps.step pollAnswered_keeps | exact rfl | split

theorem probeFallsDue_keeps {a : EpAddr} {s : Part} : Keeps [.disp] s (probeFallsDue a s) := by
  unfold probeFallsDue
  repeat' first | with_reducible exact Keeps.refl | with_reducible apply Keeps.step onDisp_keeps | exact rfl | split

end Sys2Proof.Machine
end

