-- ==== Sys2Proof/Laws/OwnersKeep.lean ====
section
/-! SUPPORT. What the owners of host requests can touch, one lemma each. -/
namespace Sys2Proof.Machine

/-! ### Machine/HostRequests.lean -/

theorem nightChanged_keeps {s : Part} : Keeps [.panel, .disp] s (nightChanged s) :=
  Keeps.step restartStabling_keeps rfl (Keeps.step lightAndCompose_keeps rfl Keeps.refl)

theorem settleLimitChanged_keeps {s : Part} : Keeps [.supply] s (settleLimitChanged s) := by
  unfold settleLimitChanged
  repeat' first | with_reducible exact Keeps.refl | with_reducible apply Keeps.step onSupply_keeps | exact rfl | split

theorem breakLimitChanged_keeps {s : Part} : Keeps [.supply] s (breakLimitChanged s) := by
  unfold breakLimitChanged
  repeat' first
      | with_reducible exact Keeps.refl | with_reducible apply Keeps.step onSupply_keeps | exact rfl | split
      | fail_if_no_progress extract_lets

theorem enableChanged_keeps {old : BitVec 14} {s : Part} : Keeps [.host] s (enableChanged old s) := by
  unfold enableChanged
  split
  · exact onHostBut_keeps (by simp) (by simp)
  · exact Keeps.refl

theorem configEffect_keeps {old : BitVec 14} {id : Nat} {s : Part} :
    Keeps [.est, .form, .tallies, .sensors, .panel, .disp, .supply, .host] s (configEffect old id s) := by
  unfold configEffect
  repeat' first
      | with_reducible exact Keeps.refl | with_reducible apply Keeps.step enableChanged_keeps
      | with_reducible apply Keeps.step breakLimitChanged_keeps | with_reducible apply Keeps.step settleLimitChanged_keeps
      | with_reducible apply Keeps.step nightChanged_keeps | with_reducible apply Keeps.step estRecompute_keeps
      | with_reducible apply Keeps.step composer_keeps
      | with_reducible apply Keeps.step mapSensors_keeps | with_reducible apply Keeps.step onForm_keeps | exact rfl | split

theorem setParam_keeps {id : Nat} {v : Nat} {s : Part} :
    Keeps [.est, .form, .tallies, .sensors, .panel, .disp, .supply, .host, .params] s (setParam id v s) := by
  unfold setParam
  split
  · exact Keeps.refl
  · exact Keeps.step configEffect_keeps rfl (Keeps.step params_keeps rfl Keeps.refl)

theorem ownConfigSet_keeps {x : Nat × Nat} {s : Part} :
    Keeps [.est, .form, .tallies, .sensors, .panel, .disp, .supply, .host, .params] s (ownConfigSet x s).1 := by
  unfold ownConfigSet
  repeat' first
      | with_reducible exact Keeps.refl | with_reducible apply Keeps.step setParam_keeps
      | with_reducible apply Keeps.step refused_keeps | with_reducible apply Keeps.step takenWith_keeps | exact rfl | split

theorem ownConfigGet_keeps {id : Nat} {s : Part} : Keeps [] s (ownConfigGet id s).1 := by
  unfold ownConfigGet
  repeat' first
      | with_reducible exact Keeps.refl | with_reducible apply Keeps.step refused_keeps
      | with_reducible apply Keeps.step takenWith_keeps | exact rfl | split

theorem ownStatusQuery_keeps {x : Unit} {s : Part} : Keeps [] s (ownStatusQuery x s).1 :=
  Keeps.step takenWith_keeps rfl Keeps.refl

theorem clearEvents_keeps {m : BitVec 14} {s : Part} : Keeps [.legs, .events] s (clearEvents m s) := by
  refine ⟨fun b hb => ?_⟩; cases b <;> first | exact absurd hb (by decide) | simp [Block.kept, Block.same, clearEvents]

theorem ownEventClear_keeps {m : Nat} {s : Part} : Keeps [.legs, .events] s (ownEventClear m s).1 := by
  unfold ownEventClear
  repeat' first
      | with_reducible exact Keeps.refl | with_reducible apply Keeps.step clearEvents_keeps
      | with_reducible apply Keeps.step refused_keeps | with_reducible apply Keeps.step takenWith_keeps | exact rfl | split

theorem ownRestart_keeps {x : Unit} {s : Part} : Keeps [] s (ownRestart x s).1 := Keeps.step taken_keeps rfl Keeps.refl

/-! ### Machine/UnitRequests.lean -/

theorem dropStaging_keeps {s : Part} : Keeps [.unit] s (dropStaging s) := Keeps.step unit_keeps rfl Keeps.refl

theorem takeDescription_keeps {g : Staging} {s : Part} :
    Keeps [.unit, .source, .form, .tallies, .views, .sensors, .seat, .panel, .disp] s (takeDescription g s) := by
  have h1 : Keeps [.unit, .views, .sensors, .disp] s { s with
      unit := { unitId := g.unitId, coaches := g.coaches, portionTag := s.unit.portionTag, staging := none }
      disp := newTable g.coaches
      res := { s.res with views := g.coaches.map fun c => c.seats.map fun _ => {} }
      seat := { s.seat with sensors := freshSensors g.coaches } } := by
    refine ⟨fun b hb => ?_⟩; cases b <;> first | exact absurd hb (by decide) | simp [Block.kept, Block.same]
  exact Keeps.step formationChanged_keeps rfl (Keeps.step onForm_keeps rfl (Keeps.step panel_keeps rfl
    (Keeps.step rebuildTally_keeps rfl (Keeps.step h1 rfl Keeps.refl))))

theorem refuseSegment_keeps {r : Result} {s : Part} : Keeps [.unit] s (refuseSegment r s).1 :=
  Keeps.step dropStaging_keeps rfl Keeps.refl

theorem collectSegment_keeps {x : SegmentReq} {s : Part} :
    Keeps [.unit, .source, .form, .tallies, .views, .sensors, .seat, .panel, .disp] s (collectSegment x s).1 := by
  unfold collectSegment
  extract_lets g
  split
  · split
    · exact Keeps.step refuseSegment_keeps rfl Keeps.refl
    · exact takeDescription_keeps
  · exact Keeps.step unit_keeps rfl Keeps.refl

theorem ownUnitSetup_keeps {x : SegmentReq} {s : Part} :
    Keeps [.unit, .source, .form, .tallies, .views, .sensors, .seat, .panel, .disp] s (ownUnitSetup x s).1 := by
  unfold ownUnitSetup
  repeat' first
      | with_reducible exact Keeps.refl | with_reducible apply Keeps.step collectSegment_keeps
      | with_reducible apply Keeps.step refuseSegment_keeps | exact rfl | split

theorem takeNumbers_keeps {ns : List Nat} {s : Part} :
    Keeps [.unit, .source, .form, .tallies, .seat, .panel, .disp] s (takeNumbers ns s) := by
  unfold takeNumbers
  extract_lets c
  split
  · exact Keeps.refl
  · exact Keeps.step ownEntryChanged_keeps rfl (Keeps.step composer_keeps rfl (Keeps.step unit_keeps rfl Keeps.refl))

theorem ownCoachNumbers_keeps {ns : List Nat} {s : Part} :
    Keeps [.unit, .source, .form, .tallies, .seat, .panel, .disp] s (ownCoachNumbers ns s).1 := by
  unfold ownCoachNumbers
  repeat' first
      | with_reducible exact Keeps.refl | with_reducible apply checked_keeps
      | with_reducible apply Keeps.step takeNumbers_keeps | with_reducible apply Keeps.step taken_keeps | exact rfl

theorem restatePortion_keeps {s : Part} :
    Keeps [.route, .source, .est, .tallies, .legs, .views, .seat, .panel, .disp, .host, .events] s (restatePortion s) := by
  unfold restatePortion
  split
  · exact Keeps.step handOff_keeps rfl (Keeps.step route_keeps rfl Keeps.refl)
  · exact Keeps.step composer_keeps rfl (Keeps.step estRecompute_keeps rfl (Keeps.step tallyUpdate_keeps rfl
      (Keeps.step recomputeSeats_keeps rfl Keeps.refl)))

theorem takePortion_keeps {tag : Nat} {s : Part} : Keeps [.unit, .route, .source, .est, .form, .tallies, .legs, .views, .seat, .panel, .disp, .host, .events] s (takePortion tag s) :=
  Keeps.step ownEntryChanged_keeps rfl (Keeps.step restatePortion_keeps rfl (Keeps.step unit_keeps rfl Keeps.refl))

theorem ownPortionSet_keeps {tag : Nat} {s : Part} :
    Keeps [.unit, .route, .source, .est, .form, .tallies, .legs, .views, .seat, .panel, .disp, .host, .events] s (ownPortionSet tag s).1 := by
  unfold ownPortionSet
  repeat' first
      | with_reducible exact Keeps.refl | with_reducible apply Keeps.step takePortion_keeps
      | with_reducible apply Keeps.step refused_keeps | with_reducible apply Keeps.step taken_keeps | exact rfl | split

/-! ### Machine/TextRequests.lean -/

theorem nameHandle_keeps {h : Nat} {s : Part} : Keeps [.panel, .disp] s (nameHandle h s) := by
  unfold nameHandle
  repeat' first
      | with_reducible exact Keeps.refl | with_reducible apply Keeps.step composer_keeps
      | with_reducible apply Keeps.step onDisp_keeps | exact rfl

theorem takeText_keeps {h : Nat} {slot : Nat} {codes : List Byte} {s : Part} : Keeps [.text, .panel, .disp] s (takeText h slot codes s) :=
  Keeps.step nameHandle_keeps rfl (Keeps.step onText_keeps rfl Keeps.refl)

theorem ownTextPut_keeps {x : Nat × Nat × List Byte} {s : Part} : Keeps [.text, .panel, .disp] s (ownTextPut x s).1 := by
  unfold ownTextPut
  repeat' first
      | with_reducible exact Keeps.refl | with_reducible apply checked_keeps | with_reducible apply Keeps.step takeText_keeps
      | with_reducible apply Keeps.step taken_keeps | exact rfl

theorem ownTextDrop_keeps {h : Nat} {s : Part} : Keeps [.text] s (ownTextDrop h s).1 := by
  unfold ownTextDrop
  repeat' first
      | with_reducible exact Keeps.refl | with_reducible apply checked_keeps | with_reducible apply Keeps.step onText_keeps
      | with_reducible apply Keeps.step taken_keeps | exact rfl

/-! ### Machine/RouteRequests.lean -/

theorem replaceRoute_keeps {g : PState} {id : Nat} {train : Option Nat} {s : Part} :
    Keeps [.text, .route, .source, .est, .form, .tallies, .legs, .views, .seat, .panel, .disp, .host, .events] s (replaceRoute g id train s) := by
  unfold replaceRoute
  repeat' first
      | with_reducible exact Keeps.refl | with_reducible apply Keeps.step handOff_keeps
      | with_reducible apply Keeps.step routeIdChanged_keeps | with_reducible apply Keeps.step onText_keeps
      | with_reducible apply Keeps.step onRoute_keeps | exact rfl

theorem ownRouteOpen_keeps {x : Nat × Nat} {s : Part} :
    Keeps [.text, .route, .source, .est, .form, .tallies, .legs, .views, .seat, .panel, .disp, .host, .events] s (ownRouteOpen x s).1 := by
  unfold ownRouteOpen
  repeat' first
      | with_reducible exact Keeps.refl | with_reducible apply checked_keeps
      | with_reducible apply Keeps.step replaceRoute_keeps | with_reducible apply Keeps.step taken_keeps | exact rfl

theorem ownRouteClear_keeps {x : Unit} {s : Part} :
    Keeps [.text, .route, .source, .est, .form, .tallies, .legs, .views, .seat, .panel, .disp, .host, .events] s (ownRouteClear x s).1 := by
  unfold ownRouteClear
  repeat' first
      | with_reducible exact Keeps.refl | with_reducible apply checked_keeps
      | with_reducible apply Keeps.step replaceRoute_keeps | with_reducible apply Keeps.step taken_keeps | exact rfl

theorem takeStop_keeps {x : StopReq} {s : Part} : Keeps [.text, .route, .source] s (takeStop x s) := by
  unfold takeStop
  repeat' first
      | with_reducible exact Keeps.refl | with_reducible apply Keeps.step onText_keeps
      | with_reducible apply Keeps.step onRoute_keeps | exact rfl

theorem ownStopPut_keeps {x : StopReq} {s : Part} : Keeps [.text, .route, .source] s (ownStopPut x s).1 := by
  unfold ownStopPut
  repeat' first
      | with_reducible exact Keeps.refl | with_reducible apply checked_keeps | with_reducible apply Keeps.step takeStop_keeps
      | with_reducible apply Keeps.step taken_keeps | exact rfl

theorem takeClose_keeps {s : Part} : Keeps [.route, .source, .est, .form, .tallies, .legs, .views, .seat, .panel, .disp, .host, .events] s (takeClose s) :=
  Keeps.step routeIdChanged_keeps rfl (Keeps.step handOff_keeps rfl (Keeps.step onRoute_keeps rfl Keeps.refl))

theorem ownRouteClose_keeps {x : Unit} {s : Part} :
    Keeps [.route, .source, .est, .form, .tallies, .legs, .views, .seat, .panel, .disp, .host, .events] s (ownRouteClose x s).1 := by
  unfold ownRouteClose
  repeat' first
      | with_reducible exact Keeps.refl | with_reducible apply Keeps.step takeClose_keeps
      | with_reducible apply Keeps.step refused_keeps | with_reducible apply Keeps.step taken_keeps | exact rfl | split

theorem takeAmend_keeps {x : AmendReq} {s : Part} : Keeps [.route, .source, .est, .tallies, .legs, .views, .seat, .panel, .disp, .host, .events] s (takeAmend x s) :=
  Keeps.step handOff_keeps rfl (Keeps.step onRoute_keeps rfl Keeps.refl)

theorem ownStopAmend_keeps {x : AmendReq} {s : Part} :
    Keeps [.route, .source, .est, .tallies, .legs, .views, .seat, .panel, .disp, .host, .events] s (ownStopAmend x s).1 := by
  unfold ownStopAmend
  repeat' first
      | with_reducible exact Keeps.refl | with_reducible apply checked_keeps | with_reducible apply Keeps.step takeAmend_keeps
      | with_reducible apply Keeps.step taken_keeps | exact rfl

theorem ownTime_keeps {t : ClockTime} {s : Part} :
    Keeps [.route, .est, .tallies, .legs, .views, .seat, .panel, .disp, .host, .events] s (ownTime t s).1 := by
  unfold ownTime
  repeat' first
      | with_reducible exact Keeps.refl | with_reducible apply checked_keeps
      | with_reducible apply Keeps.step writeClock_keeps | with_reducible apply Keeps.step taken_keeps | exact rfl

theorem takeDeparted_keeps {t : Nat} {s : Part} : Keeps [.route, .source, .est, .tallies, .legs, .views, .seat, .panel, .disp, .host, .events] s (takeDeparted t s) :=
  Keeps.step handOff_keeps rfl (Keeps.step setProg_keeps rfl Keeps.refl)

theorem ownDeparted_keeps {x : Nat × ClockTime} {s : Part} :
    Keeps [.route, .source, .est, .tallies, .legs, .views, .seat, .panel, .disp, .host, .events] s (ownDeparted x s).1 := by
  unfold ownDeparted
  repeat' first
      | with_reducible exact Keeps.refl | with_reducible apply checked_keeps
      | with_reducible apply Keeps.step takeDeparted_keeps | with_reducible apply Keeps.step taken_keeps | exact rfl

theorem takePosition_keeps {d : Nat} {s : Part} : Keeps [.route, .source, .est, .tallies, .legs, .views, .seat, .panel, .disp, .host, .events] s (takePosition d s) :=
  Keeps.step handOff_keeps rfl (Keeps.step setProg_keeps rfl Keeps.refl)

theorem ownPositionReport_keeps {d : ℤ} {s : Part} :
    Keeps [.route, .source, .est, .tallies, .legs, .views, .seat, .panel, .disp, .host, .events] s (ownPositionReport d s).1 := by
  unfold ownPositionReport
  repeat' first
      | with_reducible exact Keeps.refl | with_reducible apply checked_keeps
      | with_reducible apply Keeps.step takePosition_keeps | with_reducible apply Keeps.step taken_keeps | exact rfl

theorem takeArrived_keeps {k : Nat} {t : Nat} {s : Part} :
    Keeps [.route, .source, .est, .tallies, .legs, .views, .seat, .panel, .disp, .host, .events] s (takeArrived k t s) := by
  unfold takeArrived
  repeat' first
      | with_reducible exact Keeps.refl | with_reducible apply Keeps.step handOff_keeps
      | with_reducible apply Keeps.step setProg_keeps | exact rfl | split

theorem ownArrived_keeps {x : Nat × ClockTime} {s : Part} :
    Keeps [.route, .source, .est, .tallies, .legs, .views, .seat, .panel, .disp, .host, .events] s (ownArrived x s).1 := by
  unfold ownArrived
  repeat' first
      | with_reducible exact Keeps.refl | with_reducible apply checked_keeps
      | with_reducible apply Keeps.step takeArrived_keeps | with_reducible apply Keeps.step taken_keeps | exact rfl

/-! ### Machine/LegRequests.lean -/

theorem takeLeg_keeps {x : LegReq} {s : Part} : Keeps [.tallies, .legs, .views, .seat, .panel, .disp] s (takeLeg x s) :=
  Keeps.step refreshSeats_keeps rfl (Keeps.step (onResBut_keeps rfl) rfl Keeps.refl)

theorem ownLegAdd_keeps {x : LegReq} {s : Part} : Keeps [.tallies, .legs, .views, .seat, .panel, .disp] s (ownLegAdd x s).1 := by
  unfold ownLegAdd
  repeat' first
      | with_reducible exact Keeps.refl | with_reducible apply checked_keeps | with_reducible apply Keeps.step takeLeg_keeps
      | with_reducible apply Keeps.step taken_keeps | exact rfl

theorem cancelLeg_keeps {i : Nat} {s : Part} : Keeps [.tallies, .legs, .views, .seat, .panel, .disp] s (cancelLeg i s) :=
  Keeps.step refreshSeats_keeps rfl (Keeps.step freeWhere_keeps rfl Keeps.refl)

theorem ownLegCancel_keeps {i : Nat} {s : Part} :
    Keeps [.tallies, .legs, .views, .seat, .panel, .disp] s (ownLegCancel i s).1 := by
  unfold ownLegCancel
  repeat' first
      | with_reducible exact Keeps.refl | with_reducible apply checked_keeps | with_reducible apply Keeps.step cancelLeg_keeps
      | with_reducible apply Keeps.step taken_keeps | exact rfl

theorem restoreLeg_keeps {i : Nat} {s : Part} : Keeps [.tallies, .legs, .views, .seat, .panel, .disp] s (restoreLeg i s) :=
  Keeps.step refreshSeats_keeps rfl (Keeps.step mapLegs_keeps rfl Keeps.refl)

theorem ownLegRestore_keeps {i : Nat} {s : Part} :
    Keeps [.tallies, .legs, .views, .seat, .panel, .disp] s (ownLegRestore i s).1 := by
  unfold ownLegRestore
  repeat' first
      | with_reducible exact Keeps.refl | with_reducible apply checked_keeps
      | with_reducible apply Keeps.step restoreLeg_keeps | with_reducible apply Keeps.step taken_keeps | exact rfl

theorem ownSeatQuery_keeps {x : Nat × Nat} {s : Part} : Keeps [] s (ownSeatQuery x s).1 := by
  unfold ownSeatQuery
  repeat' first
      | with_reducible exact Keeps.refl | with_reducible apply Keeps.step refused_keeps
      | with_reducible apply Keeps.step takenWith_keeps | exact rfl | split

theorem ownTallyQuery_keeps {x : Unit} {s : Part} : Keeps [] s (ownTallyQuery x s).1 := Keeps.step takenWith_keeps rfl Keeps.refl

/-! ### Machine/PanelRequests.lean -/

theorem placeLocal_keeps {x : RaiseReq} {s : Part} : Keeps [.text, .panel, .disp] s (placeLocal x s) := by
  unfold placeLocal
  repeat' first
      | with_reducible exact Keeps.refl | with_reducible apply Keeps.step fillSlot_keeps
      | with_reducible apply Keeps.step afterSlots_keeps | exact rfl | split | fail_if_no_progress extract_lets

theorem takeRaise_keeps {tag : Byte} {x : RaiseReq} {s : Part} : Keeps [.text, .form, .panel, .disp] s (takeRaise tag x s).1 := by
  unfold takeRaise
  extract_lets s'
  split
  · exact Keeps.step placeLocal_keeps rfl Keeps.refl
  · rw [forwardReply_part]
    exact Keeps.step makeForward_keeps rfl (Keeps.step placeLocal_keeps rfl Keeps.refl)

theorem ownNoticeRaise_keeps {tag : Byte} {x : RaiseReq} {s : Part} :
    Keeps [.text, .form, .panel, .disp] s (ownNoticeRaise tag x s).1 := by
  unfold ownNoticeRaise
  repeat' first
      | with_reducible exact Keeps.refl | with_reducible apply checked_keeps | with_reducible apply Keeps.step takeRaise_keeps
      | exact rfl

theorem clearLocal_keeps {id : Nat} {s : Part} : Keeps [.text, .panel, .disp] s (clearLocal id s) := by
  unfold clearLocal
  repeat' first | with_reducible exact Keeps.refl | with_reducible apply Keeps.step emptySlot_keeps | exact rfl | split

theorem ownNoticeClear_keeps {tag : Byte} {id : Nat} {s : Part} :
    Keeps [.text, .form, .panel, .disp] s (ownNoticeClear tag id s).1 := by
  unfold ownNoticeClear
  extract_lets ds s'
  split
  · exact Keeps.refl
  · split
    · exact Keeps.refl
    · split
      · exact Keeps.step clearLocal_keeps rfl Keeps.refl
      · rw [forwardReply_part]
        exact Keeps.step makeForward_keeps rfl (Keeps.step clearLocal_keeps rfl Keeps.refl)

theorem ownLevelQuery_keeps {x : Unit} {s : Part} : Keeps [] s (ownLevelQuery x s).1 := Keeps.step takenWith_keeps rfl Keeps.refl

theorem ownEndpointQuery_keeps {x : Nat × Nat × Nat} {s : Part} : Keeps [] s (ownEndpointQuery x s).1 := by
  unfold ownEndpointQuery
  repeat' first
      | with_reducible exact Keeps.refl | with_reducible apply checked_keeps | with_reducible apply Keeps.step takenWith_keeps
      | exact rfl

end Sys2Proof.Machine
end

