-- ==== Sys2Proof/Laws/PerInstr.lean ====
section
/-! SUPPORT. The family `Requests`: a well-formed command that is a request frame carries a body that a frame can carry (R188), one
lemma for each constructor. -/
namespace Sys2Proof.Laws.Requests
open Sys2Proof Sys2Proof.Machine

/-- A well-formed request frame has a body of at most 1,024 bytes (R188). -/
def Statement (i : Instr) : Prop :=
  i.wf = true → ∀ k t b, request i = some (k, t, b) → b.length ≤ 1024

theorem configSet (tag : Byte) (body : List Byte) : Statement (.configSet tag body) := fun h _ _ _ e => by
  cases e; exact of_decide_eq_true h
theorem configGet (tag : Byte) (body : List Byte) : Statement (.configGet tag body) := fun h _ _ _ e => by
  cases e; exact of_decide_eq_true h
theorem unitSetup (tag : Byte) (body : List Byte) : Statement (.unitSetup tag body) := fun h _ _ _ e => by
  cases e; exact of_decide_eq_true h
theorem coachNumbers (tag : Byte) (body : List Byte) : Statement (.coachNumbers tag body) := fun h _ _ _ e => by
  cases e; exact of_decide_eq_true h
theorem portionSet (tag : Byte) (body : List Byte) : Statement (.portionSet tag body) := fun h _ _ _ e => by
  cases e; exact of_decide_eq_true h
theorem textPut (tag : Byte) (body : List Byte) : Statement (.textPut tag body) := fun h _ _ _ e => by
  cases e; exact of_decide_eq_true h
theorem textDrop (tag : Byte) (body : List Byte) : Statement (.textDrop tag body) := fun h _ _ _ e => by
  cases e; exact of_decide_eq_true h
theorem routeOpen (tag : Byte) (body : List Byte) : Statement (.routeOpen tag body) := fun h _ _ _ e => by
  cases e; exact of_decide_eq_true h
theorem stopPut (tag : Byte) (body : List Byte) : Statement (.stopPut tag body) := fun h _ _ _ e => by
  cases e; exact of_decide_eq_true h
theorem routeClose (tag : Byte) (body : List Byte) : Statement (.routeClose tag body) := fun h _ _ _ e => by
  cases e; exact of_decide_eq_true h
theorem routeClear (tag : Byte) (body : List Byte) : Statement (.routeClear tag body) := fun h _ _ _ e => by
  cases e; exact of_decide_eq_true h
theorem stopAmend (tag : Byte) (body : List Byte) : Statement (.stopAmend tag body) := fun h _ _ _ e => by
  cases e; exact of_decide_eq_true h
theorem time (tag : Byte) (body : List Byte) : Statement (.time tag body) := fun h _ _ _ e => by
  cases e; exact of_decide_eq_true h
theorem departed (tag : Byte) (body : List Byte) : Statement (.departed tag body) := fun h _ _ _ e => by
  cases e; exact of_decide_eq_true h
theorem position (tag : Byte) (body : List Byte) : Statement (.position tag body) := fun h _ _ _ e => by
  cases e; exact of_decide_eq_true h
theorem arrived (tag : Byte) (body : List Byte) : Statement (.arrived tag body) := fun h _ _ _ e => by
  cases e; exact of_decide_eq_true h
theorem legAdd (tag : Byte) (body : List Byte) : Statement (.legAdd tag body) := fun h _ _ _ e => by
  cases e; exact of_decide_eq_true h
theorem legCancel (tag : Byte) (body : List Byte) : Statement (.legCancel tag body) := fun h _ _ _ e => by
  cases e; exact of_decide_eq_true h
theorem legRestore (tag : Byte) (body : List Byte) : Statement (.legRestore tag body) := fun h _ _ _ e => by
  cases e; exact of_decide_eq_true h
theorem seatQuery (tag : Byte) (body : List Byte) : Statement (.seatQuery tag body) := fun h _ _ _ e => by
  cases e; exact of_decide_eq_true h
theorem tallyQuery (tag : Byte) (body : List Byte) : Statement (.tallyQuery tag body) := fun h _ _ _ e => by
  cases e; exact of_decide_eq_true h
theorem noticeRaise (tag : Byte) (body : List Byte) : Statement (.noticeRaise tag body) := fun h _ _ _ e => by
  cases e; exact of_decide_eq_true h
theorem noticeClear (tag : Byte) (body : List Byte) : Statement (.noticeClear tag body) := fun h _ _ _ e => by
  cases e; exact of_decide_eq_true h
theorem levelQuery (tag : Byte) (body : List Byte) : Statement (.levelQuery tag body) := fun h _ _ _ e => by
  cases e; exact of_decide_eq_true h
theorem statusQuery (tag : Byte) (body : List Byte) : Statement (.statusQuery tag body) := fun h _ _ _ e => by
  cases e; exact of_decide_eq_true h
theorem endpointQuery (tag : Byte) (body : List Byte) : Statement (.endpointQuery tag body) := fun h _ _ _ e => by
  cases e; exact of_decide_eq_true h
theorem eventClear (tag : Byte) (body : List Byte) : Statement (.eventClear tag body) := fun h _ _ _ e => by
  cases e; exact of_decide_eq_true h
theorem restart (tag : Byte) (body : List Byte) : Statement (.restart tag body) := fun h _ _ _ e => by
  cases e; exact of_decide_eq_true h
theorem unknownKindFrame (kind tag : Byte) (body : List Byte)
    : Statement (.unknownKindFrame kind tag body) := fun h _ _ _ e => by
  cases e; exact of_decide_eq_true (Bool.and_eq_true _ _ ▸ h).1
theorem frameGapTimeout : Statement .frameGapTimeout := fun _ _ _ _ e => by cases e
theorem frameSent : Statement .frameSent := fun _ _ _ _ e => by cases e
theorem mainLevelFall (mv : Nat) : Statement (.mainLevelFall mv) := fun _ _ _ _ e => by cases e
theorem mainLevelRise (mv : Nat) : Statement (.mainLevelRise mv) := fun _ _ _ _ e => by cases e
theorem mainBreak : Statement .mainBreak := fun _ _ _ _ e => by cases e
theorem mainReturn (retentionMv : Nat) : Statement (.mainReturn retentionMv) := fun _ _ _ _ e => by cases e
theorem retentionLow : Statement .retentionLow := fun _ _ _ _ e => by cases e
theorem retentionOk : Statement .retentionOk := fun _ _ _ _ e => by cases e
theorem holdTimeExpiry : Statement .holdTimeExpiry := fun _ _ _ _ e => by cases e
theorem extendedHoldExpiry : Statement .extendedHoldExpiry := fun _ _ _ _ e => by cases e
theorem clearingEnd : Statement .clearingEnd := fun _ _ _ _ e => by cases e
theorem resetAssert : Statement .resetAssert := fun _ _ _ _ e => by cases e
theorem resetRelease : Statement .resetRelease := fun _ _ _ _ e => by cases e
theorem settleLimitReached : Statement .settleLimitReached := fun _ _ _ _ e => by cases e
theorem clockTick : Statement .clockTick := fun _ _ _ _ e => by cases e
theorem claimDeadline (legId : Nat) : Statement (.claimDeadline legId) := fun _ _ _ _ e => by cases e
theorem coupledSenseChange (e : UnitEnd) (coupled : Bool)
    : Statement (.coupledSenseChange e coupled) := fun _ _ _ _ e => by cases e
theorem couplingEvent (e : UnitEnd) : Statement (.couplingEvent e) := fun _ _ _ _ e => by cases e
theorem cabActiveChange (e : UnitEnd) (active : Bool)
    : Statement (.cabActiveChange e active) := fun _ _ _ _ e => by cases e
theorem rollSensed (e : UnitEnd) : Statement (.rollSensed e) := fun _ _ _ _ e => by cases e
theorem claim : Statement .claim := fun _ _ _ _ e => by cases e
theorem lineCycle : Statement .lineCycle := fun _ _ _ _ e => by cases e
theorem requestWindowEnd : Statement .requestWindowEnd := fun _ _ _ _ e => by cases e
theorem beacon (f : BeaconFrame) : Statement (.beacon f) := fun _ _ _ _ e => by cases e
theorem windowResponse (unitId cycle level : Nat)
    : Statement (.windowResponse unitId cycle level) := fun _ _ _ _ e => by cases e
theorem openSlotMark : Statement .openSlotMark := fun _ _ _ _ e => by cases e
theorem grant (leader unitId cycle : Nat) : Statement (.grant leader unitId cycle) := fun _ _ _ _ e => by cases e
theorem releaseMark : Statement .releaseMark := fun _ _ _ _ e => by cases e
theorem rollCall (unitId epoch : Nat) : Statement (.rollCall unitId epoch) := fun _ _ _ _ e => by cases e
theorem rollAnswer (f : RollAnswerFrame) : Statement (.rollAnswer f) := fun _ _ _ _ e => by cases e
theorem rollAnswerSilence : Statement .rollAnswerSilence := fun _ _ _ _ e => by cases e
theorem formation (leader epoch : Nat) (units : List UnitEntry)
    : Statement (.formation leader epoch units) := fun _ _ _ _ e => by cases e
theorem formationReq (unitId epoch : Nat) : Statement (.formationReq unitId epoch) := fun _ _ _ _ e => by cases e
theorem noticeFwd (f : NoticeFwdFrame) : Statement (.noticeFwd f) := fun _ _ _ _ e => by cases e
theorem noticeAns (f : NoticeAnsFrame) : Statement (.noticeAns f) := fun _ _ _ _ e => by cases e
theorem tally (f : TallyFrame) : Statement (.tally f) := fun _ _ _ _ e => by cases e
theorem beaconLoss : Statement .beaconLoss := fun _ _ _ _ e => by cases e
theorem absenceTimeExpiry (unitId : Nat) : Statement (.absenceTimeExpiry unitId) := fun _ _ _ _ e => by cases e
theorem answerTimeExpiry (number : Nat) : Statement (.answerTimeExpiry number) := fun _ _ _ _ e => by cases e
theorem spacingTimeExpiry : Statement .spacingTimeExpiry := fun _ _ _ _ e => by cases e
theorem lineQueueWithdrawal : Statement .lineQueueWithdrawal := fun _ _ _ _ e => by cases e
theorem ack (addr : EpAddr) (version : Nat) : Statement (.ack addr version) := fun _ _ _ _ e => by cases e
theorem pollReply (addr : EpAddr) (held : Option Nat) (status : PollStatus)
    : Statement (.pollReply addr held status) := fun _ _ _ _ e => by cases e
theorem replyWindowExpiry : Statement .replyWindowExpiry := fun _ _ _ _ e => by cases e
theorem probeTimeExpiry (addr : EpAddr) : Statement (.probeTimeExpiry addr) := fun _ _ _ _ e => by cases e
theorem evidenceAgeExpiry (coach seat : Nat)
    : Statement (.evidenceAgeExpiry coach seat) := fun _ _ _ _ e => by cases e
theorem dwellExpiry (ctx : ContextId) : Statement (.dwellExpiry ctx) := fun _ _ _ _ e => by cases e
theorem noticeExpiry (level : NoticeLevel) (slot : Nat)
    : Statement (.noticeExpiry level slot) := fun _ _ _ _ e => by cases e
theorem stablingExpiry : Statement .stablingExpiry := fun _ _ _ _ e => by cases e
theorem frameStartByte (rest : List Byte) : Statement (.frameStartByte rest) := fun _ _ _ _ e => by cases e
theorem frameLengthError (length : Nat) : Statement (.frameLengthError length) := fun _ _ _ _ e => by cases e
theorem frameCrcError (kind tag : Byte) (body : List Byte) (crc : BitVec 16)
    : Statement (.frameCrcError kind tag body crc) := fun _ _ _ _ e => by cases e

end Sys2Proof.Laws.Requests
end

