-- ==== Sys2Proof/Laws/State.lean ====
section
/-! SUPPORT. Each field of the part after each plain update of it, so that no later proof unfolds a record update. -/
namespace Sys2Proof.Machine

/-! ### onText -/

@[simp] theorem onText_unit (f : TextStore → TextStore) (s : Part) : (onText f s).unit = s.unit := rfl
@[simp] theorem onText_text (f : TextStore → TextStore) (s : Part) : (onText f s).text = f s.text := rfl
@[simp] theorem onText_route (f : TextStore → TextStore) (s : Part) : (onText f s).route = s.route := rfl
@[simp] theorem onText_est (f : TextStore → TextStore) (s : Part) : (onText f s).est = s.est := rfl
@[simp] theorem onText_form (f : TextStore → TextStore) (s : Part) : (onText f s).form = s.form := rfl
@[simp] theorem onText_res (f : TextStore → TextStore) (s : Part) : (onText f s).res = s.res := rfl
@[simp] theorem onText_seat (f : TextStore → TextStore) (s : Part) : (onText f s).seat = s.seat := rfl
@[simp] theorem onText_panel (f : TextStore → TextStore) (s : Part) : (onText f s).panel = s.panel := rfl
@[simp] theorem onText_disp (f : TextStore → TextStore) (s : Part) : (onText f s).disp = s.disp := rfl
@[simp] theorem onText_supply (f : TextStore → TextStore) (s : Part) : (onText f s).supply = s.supply := rfl
@[simp] theorem onText_host (f : TextStore → TextStore) (s : Part) : (onText f s).host = s.host := rfl
@[simp] theorem onText_out (f : TextStore → TextStore) (s : Part) : (onText f s).out = s.out := rfl

/-! ### onRoute -/

@[simp] theorem onRoute_unit (f : Route → Route) (s : Part) : (onRoute f s).unit = s.unit := rfl
@[simp] theorem onRoute_text (f : Route → Route) (s : Part) : (onRoute f s).text = s.text := rfl
@[simp] theorem onRoute_route (f : Route → Route) (s : Part) : (onRoute f s).route = f s.route := rfl
@[simp] theorem onRoute_est (f : Route → Route) (s : Part) : (onRoute f s).est = s.est := rfl
@[simp] theorem onRoute_form (f : Route → Route) (s : Part) : (onRoute f s).form = s.form := rfl
@[simp] theorem onRoute_res (f : Route → Route) (s : Part) : (onRoute f s).res = s.res := rfl
@[simp] theorem onRoute_seat (f : Route → Route) (s : Part) : (onRoute f s).seat = s.seat := rfl
@[simp] theorem onRoute_panel (f : Route → Route) (s : Part) : (onRoute f s).panel = s.panel := rfl
@[simp] theorem onRoute_disp (f : Route → Route) (s : Part) : (onRoute f s).disp = s.disp := rfl
@[simp] theorem onRoute_supply (f : Route → Route) (s : Part) : (onRoute f s).supply = s.supply := rfl
@[simp] theorem onRoute_host (f : Route → Route) (s : Part) : (onRoute f s).host = s.host := rfl
@[simp] theorem onRoute_out (f : Route → Route) (s : Part) : (onRoute f s).out = s.out := rfl

/-! ### onForm -/

@[simp] theorem onForm_unit (f : Formation → Formation) (s : Part) : (onForm f s).unit = s.unit := rfl
@[simp] theorem onForm_text (f : Formation → Formation) (s : Part) : (onForm f s).text = s.text := rfl
@[simp] theorem onForm_route (f : Formation → Formation) (s : Part) : (onForm f s).route = s.route := rfl
@[simp] theorem onForm_est (f : Formation → Formation) (s : Part) : (onForm f s).est = s.est := rfl
@[simp] theorem onForm_form (f : Formation → Formation) (s : Part) : (onForm f s).form = f s.form := rfl
@[simp] theorem onForm_res (f : Formation → Formation) (s : Part) : (onForm f s).res = s.res := rfl
@[simp] theorem onForm_seat (f : Formation → Formation) (s : Part) : (onForm f s).seat = s.seat := rfl
@[simp] theorem onForm_panel (f : Formation → Formation) (s : Part) : (onForm f s).panel = s.panel := rfl
@[simp] theorem onForm_disp (f : Formation → Formation) (s : Part) : (onForm f s).disp = s.disp := rfl
@[simp] theorem onForm_supply (f : Formation → Formation) (s : Part) : (onForm f s).supply = s.supply := rfl
@[simp] theorem onForm_host (f : Formation → Formation) (s : Part) : (onForm f s).host = s.host := rfl
@[simp] theorem onForm_out (f : Formation → Formation) (s : Part) : (onForm f s).out = s.out := rfl

/-! ### onRes -/

@[simp] theorem onRes_unit (f : Reservations → Reservations) (s : Part) : (onRes f s).unit = s.unit := rfl
@[simp] theorem onRes_text (f : Reservations → Reservations) (s : Part) : (onRes f s).text = s.text := rfl
@[simp] theorem onRes_route (f : Reservations → Reservations) (s : Part) : (onRes f s).route = s.route := rfl
@[simp] theorem onRes_est (f : Reservations → Reservations) (s : Part) : (onRes f s).est = s.est := rfl
@[simp] theorem onRes_form (f : Reservations → Reservations) (s : Part) : (onRes f s).form = s.form := rfl
@[simp] theorem onRes_res (f : Reservations → Reservations) (s : Part) : (onRes f s).res = f s.res := rfl
@[simp] theorem onRes_seat (f : Reservations → Reservations) (s : Part) : (onRes f s).seat = s.seat := rfl
@[simp] theorem onRes_panel (f : Reservations → Reservations) (s : Part) : (onRes f s).panel = s.panel := rfl
@[simp] theorem onRes_disp (f : Reservations → Reservations) (s : Part) : (onRes f s).disp = s.disp := rfl
@[simp] theorem onRes_supply (f : Reservations → Reservations) (s : Part) : (onRes f s).supply = s.supply := rfl
@[simp] theorem onRes_host (f : Reservations → Reservations) (s : Part) : (onRes f s).host = s.host := rfl
@[simp] theorem onRes_out (f : Reservations → Reservations) (s : Part) : (onRes f s).out = s.out := rfl

/-! ### onDisp -/

@[simp] theorem onDisp_unit (f : Display → Display) (s : Part) : (onDisp f s).unit = s.unit := rfl
@[simp] theorem onDisp_text (f : Display → Display) (s : Part) : (onDisp f s).text = s.text := rfl
@[simp] theorem onDisp_route (f : Display → Display) (s : Part) : (onDisp f s).route = s.route := rfl
@[simp] theorem onDisp_est (f : Display → Display) (s : Part) : (onDisp f s).est = s.est := rfl
@[simp] theorem onDisp_form (f : Display → Display) (s : Part) : (onDisp f s).form = s.form := rfl
@[simp] theorem onDisp_res (f : Display → Display) (s : Part) : (onDisp f s).res = s.res := rfl
@[simp] theorem onDisp_seat (f : Display → Display) (s : Part) : (onDisp f s).seat = s.seat := rfl
@[simp] theorem onDisp_panel (f : Display → Display) (s : Part) : (onDisp f s).panel = s.panel := rfl
@[simp] theorem onDisp_disp (f : Display → Display) (s : Part) : (onDisp f s).disp = f s.disp := rfl
@[simp] theorem onDisp_supply (f : Display → Display) (s : Part) : (onDisp f s).supply = s.supply := rfl
@[simp] theorem onDisp_host (f : Display → Display) (s : Part) : (onDisp f s).host = s.host := rfl
@[simp] theorem onDisp_out (f : Display → Display) (s : Part) : (onDisp f s).out = s.out := rfl

/-! ### onSupply -/

@[simp] theorem onSupply_unit (f : Supply → Supply) (s : Part) : (onSupply f s).unit = s.unit := rfl
@[simp] theorem onSupply_text (f : Supply → Supply) (s : Part) : (onSupply f s).text = s.text := rfl
@[simp] theorem onSupply_route (f : Supply → Supply) (s : Part) : (onSupply f s).route = s.route := rfl
@[simp] theorem onSupply_est (f : Supply → Supply) (s : Part) : (onSupply f s).est = s.est := rfl
@[simp] theorem onSupply_form (f : Supply → Supply) (s : Part) : (onSupply f s).form = s.form := rfl
@[simp] theorem onSupply_res (f : Supply → Supply) (s : Part) : (onSupply f s).res = s.res := rfl
@[simp] theorem onSupply_seat (f : Supply → Supply) (s : Part) : (onSupply f s).seat = s.seat := rfl
@[simp] theorem onSupply_panel (f : Supply → Supply) (s : Part) : (onSupply f s).panel = s.panel := rfl
@[simp] theorem onSupply_disp (f : Supply → Supply) (s : Part) : (onSupply f s).disp = s.disp := rfl
@[simp] theorem onSupply_supply (f : Supply → Supply) (s : Part) : (onSupply f s).supply = f s.supply := rfl
@[simp] theorem onSupply_host (f : Supply → Supply) (s : Part) : (onSupply f s).host = s.host := rfl
@[simp] theorem onSupply_out (f : Supply → Supply) (s : Part) : (onSupply f s).out = s.out := rfl

/-! ### onHost -/

@[simp] theorem onHost_unit (f : HostPort → HostPort) (s : Part) : (onHost f s).unit = s.unit := rfl
@[simp] theorem onHost_text (f : HostPort → HostPort) (s : Part) : (onHost f s).text = s.text := rfl
@[simp] theorem onHost_route (f : HostPort → HostPort) (s : Part) : (onHost f s).route = s.route := rfl
@[simp] theorem onHost_est (f : HostPort → HostPort) (s : Part) : (onHost f s).est = s.est := rfl
@[simp] theorem onHost_form (f : HostPort → HostPort) (s : Part) : (onHost f s).form = s.form := rfl
@[simp] theorem onHost_res (f : HostPort → HostPort) (s : Part) : (onHost f s).res = s.res := rfl
@[simp] theorem onHost_seat (f : HostPort → HostPort) (s : Part) : (onHost f s).seat = s.seat := rfl
@[simp] theorem onHost_panel (f : HostPort → HostPort) (s : Part) : (onHost f s).panel = s.panel := rfl
@[simp] theorem onHost_disp (f : HostPort → HostPort) (s : Part) : (onHost f s).disp = s.disp := rfl
@[simp] theorem onHost_supply (f : HostPort → HostPort) (s : Part) : (onHost f s).supply = s.supply := rfl
@[simp] theorem onHost_host (f : HostPort → HostPort) (s : Part) : (onHost f s).host = f s.host := rfl
@[simp] theorem onHost_out (f : HostPort → HostPort) (s : Part) : (onHost f s).out = s.out := rfl

/-! ### setProg -/

@[simp] theorem setProg_unit (g : Progress) (s : Part) : (setProg g s).unit = s.unit := rfl
@[simp] theorem setProg_text (g : Progress) (s : Part) : (setProg g s).text = s.text := rfl
@[simp] theorem setProg_route (g : Progress) (s : Part) : (setProg g s).route = { s.route with prog := g } := rfl
@[simp] theorem setProg_est (g : Progress) (s : Part) : (setProg g s).est = s.est := rfl
@[simp] theorem setProg_form (g : Progress) (s : Part) : (setProg g s).form = s.form := rfl
@[simp] theorem setProg_res (g : Progress) (s : Part) : (setProg g s).res = s.res := rfl
@[simp] theorem setProg_seat (g : Progress) (s : Part) : (setProg g s).seat = s.seat := rfl
@[simp] theorem setProg_panel (g : Progress) (s : Part) : (setProg g s).panel = s.panel := rfl
@[simp] theorem setProg_disp (g : Progress) (s : Part) : (setProg g s).disp = s.disp := rfl
@[simp] theorem setProg_supply (g : Progress) (s : Part) : (setProg g s).supply = s.supply := rfl
@[simp] theorem setProg_host (g : Progress) (s : Part) : (setProg g s).host = s.host := rfl
@[simp] theorem setProg_out (g : Progress) (s : Part) : (setProg g s).out = s.out := rfl

/-! ### sendLine -/

@[simp] theorem sendLine_unit (x : LineFrame) (s : Part) : (sendLine x s).unit = s.unit := rfl
@[simp] theorem sendLine_text (x : LineFrame) (s : Part) : (sendLine x s).text = s.text := rfl
@[simp] theorem sendLine_route (x : LineFrame) (s : Part) : (sendLine x s).route = s.route := rfl
@[simp] theorem sendLine_est (x : LineFrame) (s : Part) : (sendLine x s).est = s.est := rfl
@[simp] theorem sendLine_form (x : LineFrame) (s : Part) : (sendLine x s).form = s.form := rfl
@[simp] theorem sendLine_res (x : LineFrame) (s : Part) : (sendLine x s).res = s.res := rfl
@[simp] theorem sendLine_seat (x : LineFrame) (s : Part) : (sendLine x s).seat = s.seat := rfl
@[simp] theorem sendLine_panel (x : LineFrame) (s : Part) : (sendLine x s).panel = s.panel := rfl
@[simp] theorem sendLine_disp (x : LineFrame) (s : Part) : (sendLine x s).disp = s.disp := rfl
@[simp] theorem sendLine_supply (x : LineFrame) (s : Part) : (sendLine x s).supply = s.supply := rfl
@[simp] theorem sendLine_host (x : LineFrame) (s : Part) : (sendLine x s).host = s.host := rfl
@[simp] theorem sendLine_out (x : LineFrame) (s : Part) : (sendLine x s).out = { s.out with line := s.out.line ++ [x] } := rfl

/-! ### sendDisp -/

@[simp] theorem sendDisp_unit (x : DispFrame) (s : Part) : (sendDisp x s).unit = s.unit := rfl
@[simp] theorem sendDisp_text (x : DispFrame) (s : Part) : (sendDisp x s).text = s.text := rfl
@[simp] theorem sendDisp_route (x : DispFrame) (s : Part) : (sendDisp x s).route = s.route := rfl
@[simp] theorem sendDisp_est (x : DispFrame) (s : Part) : (sendDisp x s).est = s.est := rfl
@[simp] theorem sendDisp_form (x : DispFrame) (s : Part) : (sendDisp x s).form = s.form := rfl
@[simp] theorem sendDisp_res (x : DispFrame) (s : Part) : (sendDisp x s).res = s.res := rfl
@[simp] theorem sendDisp_seat (x : DispFrame) (s : Part) : (sendDisp x s).seat = s.seat := rfl
@[simp] theorem sendDisp_panel (x : DispFrame) (s : Part) : (sendDisp x s).panel = s.panel := rfl
@[simp] theorem sendDisp_disp (x : DispFrame) (s : Part) : (sendDisp x s).disp = s.disp := rfl
@[simp] theorem sendDisp_supply (x : DispFrame) (s : Part) : (sendDisp x s).supply = s.supply := rfl
@[simp] theorem sendDisp_host (x : DispFrame) (s : Part) : (sendDisp x s).host = s.host := rfl
@[simp] theorem sendDisp_out (x : DispFrame) (s : Part) : (sendDisp x s).out = { s.out with disp := s.out.disp ++ [x] } := rfl

/-! ### quiet -/

@[simp] theorem quiet_unit (s : Part) : (quiet s).unit = s.unit := rfl
@[simp] theorem quiet_text (s : Part) : (quiet s).text = s.text := rfl
@[simp] theorem quiet_route (s : Part) : (quiet s).route = s.route := rfl
@[simp] theorem quiet_est (s : Part) : (quiet s).est = s.est := rfl
@[simp] theorem quiet_form (s : Part) : (quiet s).form = s.form := rfl
@[simp] theorem quiet_res (s : Part) : (quiet s).res = s.res := rfl
@[simp] theorem quiet_seat (s : Part) : (quiet s).seat = s.seat := rfl
@[simp] theorem quiet_panel (s : Part) : (quiet s).panel = s.panel := rfl
@[simp] theorem quiet_disp (s : Part) : (quiet s).disp = s.disp := rfl
@[simp] theorem quiet_supply (s : Part) : (quiet s).supply = s.supply := rfl
@[simp] theorem quiet_host (s : Part) : (quiet s).host = s.host := rfl
@[simp] theorem quiet_out (s : Part) : (quiet s).out = {} := rfl

/-! ### mapLegs -/

@[simp] theorem mapLegs_unit (f : Leg → Leg) (s : Part) : (mapLegs f s).unit = s.unit := rfl
@[simp] theorem mapLegs_text (f : Leg → Leg) (s : Part) : (mapLegs f s).text = s.text := rfl
@[simp] theorem mapLegs_route (f : Leg → Leg) (s : Part) : (mapLegs f s).route = s.route := rfl
@[simp] theorem mapLegs_est (f : Leg → Leg) (s : Part) : (mapLegs f s).est = s.est := rfl
@[simp] theorem mapLegs_form (f : Leg → Leg) (s : Part) : (mapLegs f s).form = s.form := rfl
@[simp] theorem mapLegs_res (f : Leg → Leg) (s : Part) : (mapLegs f s).res = { s.res with legs := s.res.legs.map f } := rfl
@[simp] theorem mapLegs_seat (f : Leg → Leg) (s : Part) : (mapLegs f s).seat = s.seat := rfl
@[simp] theorem mapLegs_panel (f : Leg → Leg) (s : Part) : (mapLegs f s).panel = s.panel := rfl
@[simp] theorem mapLegs_disp (f : Leg → Leg) (s : Part) : (mapLegs f s).disp = s.disp := rfl
@[simp] theorem mapLegs_supply (f : Leg → Leg) (s : Part) : (mapLegs f s).supply = s.supply := rfl
@[simp] theorem mapLegs_host (f : Leg → Leg) (s : Part) : (mapLegs f s).host = s.host := rfl
@[simp] theorem mapLegs_out (f : Leg → Leg) (s : Part) : (mapLegs f s).out = s.out := rfl

/-! ### freeWhere -/

@[simp] theorem freeWhere_unit (f : Leg → Bool) (s : Part) : (freeWhere f s).unit = s.unit := rfl
@[simp] theorem freeWhere_text (f : Leg → Bool) (s : Part) : (freeWhere f s).text = s.text := rfl
@[simp] theorem freeWhere_route (f : Leg → Bool) (s : Part) : (freeWhere f s).route = s.route := rfl
@[simp] theorem freeWhere_est (f : Leg → Bool) (s : Part) : (freeWhere f s).est = s.est := rfl
@[simp] theorem freeWhere_form (f : Leg → Bool) (s : Part) : (freeWhere f s).form = s.form := rfl
@[simp] theorem freeWhere_res (f : Leg → Bool) (s : Part) : (freeWhere f s).res = { s.res with legs := s.res.legs.filter fun l => !f l } := rfl
@[simp] theorem freeWhere_seat (f : Leg → Bool) (s : Part) : (freeWhere f s).seat = s.seat := rfl
@[simp] theorem freeWhere_panel (f : Leg → Bool) (s : Part) : (freeWhere f s).panel = s.panel := rfl
@[simp] theorem freeWhere_disp (f : Leg → Bool) (s : Part) : (freeWhere f s).disp = s.disp := rfl
@[simp] theorem freeWhere_supply (f : Leg → Bool) (s : Part) : (freeWhere f s).supply = s.supply := rfl
@[simp] theorem freeWhere_host (f : Leg → Bool) (s : Part) : (freeWhere f s).host = s.host := rfl
@[simp] theorem freeWhere_out (f : Leg → Bool) (s : Part) : (freeWhere f s).out = s.out := rfl

/-! ### mapSensors -/

@[simp] theorem mapSensors_unit (f : Sensor → Sensor) (s : Part) : (mapSensors f s).unit = s.unit := rfl
@[simp] theorem mapSensors_text (f : Sensor → Sensor) (s : Part) : (mapSensors f s).text = s.text := rfl
@[simp] theorem mapSensors_route (f : Sensor → Sensor) (s : Part) : (mapSensors f s).route = s.route := rfl
@[simp] theorem mapSensors_est (f : Sensor → Sensor) (s : Part) : (mapSensors f s).est = s.est := rfl
@[simp] theorem mapSensors_form (f : Sensor → Sensor) (s : Part) : (mapSensors f s).form = s.form := rfl
@[simp] theorem mapSensors_res (f : Sensor → Sensor) (s : Part) : (mapSensors f s).res = s.res := rfl
@[simp] theorem mapSensors_seat (f : Sensor → Sensor) (s : Part) : (mapSensors f s).seat = { s.seat with sensors := s.seat.sensors.map fun r => r.map f } := rfl
@[simp] theorem mapSensors_panel (f : Sensor → Sensor) (s : Part) : (mapSensors f s).panel = s.panel := rfl
@[simp] theorem mapSensors_disp (f : Sensor → Sensor) (s : Part) : (mapSensors f s).disp = s.disp := rfl
@[simp] theorem mapSensors_supply (f : Sensor → Sensor) (s : Part) : (mapSensors f s).supply = s.supply := rfl
@[simp] theorem mapSensors_host (f : Sensor → Sensor) (s : Part) : (mapSensors f s).host = s.host := rfl
@[simp] theorem mapSensors_out (f : Sensor → Sensor) (s : Part) : (mapSensors f s).out = s.out := rfl

/-! ### sensorUpdate -/

@[simp] theorem sensorUpdate_unit (c p : Nat) (f : Sensor → Sensor) (s : Part) : (sensorUpdate c p f s).unit = s.unit := rfl
@[simp] theorem sensorUpdate_text (c p : Nat) (f : Sensor → Sensor) (s : Part) : (sensorUpdate c p f s).text = s.text := rfl
@[simp] theorem sensorUpdate_route (c p : Nat) (f : Sensor → Sensor) (s : Part) : (sensorUpdate c p f s).route = s.route := rfl
@[simp] theorem sensorUpdate_est (c p : Nat) (f : Sensor → Sensor) (s : Part) : (sensorUpdate c p f s).est = s.est := rfl
@[simp] theorem sensorUpdate_form (c p : Nat) (f : Sensor → Sensor) (s : Part) : (sensorUpdate c p f s).form = s.form := rfl
@[simp] theorem sensorUpdate_res (c p : Nat) (f : Sensor → Sensor) (s : Part) : (sensorUpdate c p f s).res = s.res := rfl
@[simp] theorem sensorUpdate_seat (c p : Nat) (f : Sensor → Sensor) (s : Part) : (sensorUpdate c p f s).seat = { s.seat with sensors := modifyAt c (modifyAt p f) s.seat.sensors } := rfl
@[simp] theorem sensorUpdate_panel (c p : Nat) (f : Sensor → Sensor) (s : Part) : (sensorUpdate c p f s).panel = s.panel := rfl
@[simp] theorem sensorUpdate_disp (c p : Nat) (f : Sensor → Sensor) (s : Part) : (sensorUpdate c p f s).disp = s.disp := rfl
@[simp] theorem sensorUpdate_supply (c p : Nat) (f : Sensor → Sensor) (s : Part) : (sensorUpdate c p f s).supply = s.supply := rfl
@[simp] theorem sensorUpdate_host (c p : Nat) (f : Sensor → Sensor) (s : Part) : (sensorUpdate c p f s).host = s.host := rfl
@[simp] theorem sensorUpdate_out (c p : Nat) (f : Sensor → Sensor) (s : Part) : (sensorUpdate c p f s).out = s.out := rfl

/-! ### putSlot -/

@[simp] theorem putSlot_unit (l : NoticeLevel) (i : Nat) (x : Option Slot) (s : Part) : (putSlot l i x s).unit = s.unit := rfl
@[simp] theorem putSlot_text (l : NoticeLevel) (i : Nat) (x : Option Slot) (s : Part) : (putSlot l i x s).text = s.text := rfl
@[simp] theorem putSlot_route (l : NoticeLevel) (i : Nat) (x : Option Slot) (s : Part) : (putSlot l i x s).route = s.route := rfl
@[simp] theorem putSlot_est (l : NoticeLevel) (i : Nat) (x : Option Slot) (s : Part) : (putSlot l i x s).est = s.est := rfl
@[simp] theorem putSlot_form (l : NoticeLevel) (i : Nat) (x : Option Slot) (s : Part) : (putSlot l i x s).form = s.form := rfl
@[simp] theorem putSlot_res (l : NoticeLevel) (i : Nat) (x : Option Slot) (s : Part) : (putSlot l i x s).res = s.res := rfl
@[simp] theorem putSlot_seat (l : NoticeLevel) (i : Nat) (x : Option Slot) (s : Part) : (putSlot l i x s).seat = s.seat := rfl
@[simp] theorem putSlot_panel (l : NoticeLevel) (i : Nat) (x : Option Slot) (s : Part) : (putSlot l i x s).panel = setSlots s.panel l ((slotsOf s.panel l).set i x) := rfl
@[simp] theorem putSlot_disp (l : NoticeLevel) (i : Nat) (x : Option Slot) (s : Part) : (putSlot l i x s).disp = s.disp := rfl
@[simp] theorem putSlot_supply (l : NoticeLevel) (i : Nat) (x : Option Slot) (s : Part) : (putSlot l i x s).supply = s.supply := rfl
@[simp] theorem putSlot_host (l : NoticeLevel) (i : Nat) (x : Option Slot) (s : Part) : (putSlot l i x s).host = s.host := rfl
@[simp] theorem putSlot_out (l : NoticeLevel) (i : Nat) (x : Option Slot) (s : Part) : (putSlot l i x s).out = s.out := rfl

/-! ### setBrightness -/

@[simp] theorem setBrightness_unit (b : Brightness) (s : Part) : (setBrightness b s).unit = s.unit := rfl
@[simp] theorem setBrightness_text (b : Brightness) (s : Part) : (setBrightness b s).text = s.text := rfl
@[simp] theorem setBrightness_route (b : Brightness) (s : Part) : (setBrightness b s).route = s.route := rfl
@[simp] theorem setBrightness_est (b : Brightness) (s : Part) : (setBrightness b s).est = s.est := rfl
@[simp] theorem setBrightness_form (b : Brightness) (s : Part) : (setBrightness b s).form = s.form := rfl
@[simp] theorem setBrightness_res (b : Brightness) (s : Part) : (setBrightness b s).res = s.res := rfl
@[simp] theorem setBrightness_seat (b : Brightness) (s : Part) : (setBrightness b s).seat = s.seat := rfl
@[simp] theorem setBrightness_panel (b : Brightness) (s : Part) : (setBrightness b s).panel = { s.panel with brightness := b } := rfl
@[simp] theorem setBrightness_disp (b : Brightness) (s : Part) : (setBrightness b s).disp = s.disp := rfl
@[simp] theorem setBrightness_supply (b : Brightness) (s : Part) : (setBrightness b s).supply = s.supply := rfl
@[simp] theorem setBrightness_host (b : Brightness) (s : Part) : (setBrightness b s).host = s.host := rfl
@[simp] theorem setBrightness_out (b : Brightness) (s : Part) : (setBrightness b s).out = s.out := rfl

/-! ### evalSource -/

@[simp] theorem evalSource_unit (s : Part) : (evalSource s).unit = s.unit := rfl
@[simp] theorem evalSource_text (s : Part) : (evalSource s).text = s.text := rfl
@[simp] theorem evalSource_route (s : Part) : (evalSource s).route = { s.route with prog := { s.route.prog with source := sourceOf s } } := rfl
@[simp] theorem evalSource_est (s : Part) : (evalSource s).est = s.est := rfl
@[simp] theorem evalSource_form (s : Part) : (evalSource s).form = s.form := rfl
@[simp] theorem evalSource_res (s : Part) : (evalSource s).res = s.res := rfl
@[simp] theorem evalSource_seat (s : Part) : (evalSource s).seat = s.seat := rfl
@[simp] theorem evalSource_panel (s : Part) : (evalSource s).panel = s.panel := rfl
@[simp] theorem evalSource_disp (s : Part) : (evalSource s).disp = s.disp := rfl
@[simp] theorem evalSource_supply (s : Part) : (evalSource s).supply = s.supply := rfl
@[simp] theorem evalSource_host (s : Part) : (evalSource s).host = s.host := rfl
@[simp] theorem evalSource_out (s : Part) : (evalSource s).out = s.out := rfl

/-! ### setEstimates -/

@[simp] theorem setEstimates_unit (s : Part) : (setEstimates s).unit = s.unit := rfl
@[simp] theorem setEstimates_text (s : Part) : (setEstimates s).text = s.text := rfl
@[simp] theorem setEstimates_route (s : Part) : (setEstimates s).route = s.route := rfl
@[simp] theorem setEstimates_est (s : Part) : (setEstimates s).est = newEstimates s := rfl
@[simp] theorem setEstimates_form (s : Part) : (setEstimates s).form = s.form := rfl
@[simp] theorem setEstimates_res (s : Part) : (setEstimates s).res = s.res := rfl
@[simp] theorem setEstimates_seat (s : Part) : (setEstimates s).seat = s.seat := rfl
@[simp] theorem setEstimates_panel (s : Part) : (setEstimates s).panel = s.panel := rfl
@[simp] theorem setEstimates_disp (s : Part) : (setEstimates s).disp = s.disp := rfl
@[simp] theorem setEstimates_supply (s : Part) : (setEstimates s).supply = s.supply := rfl
@[simp] theorem setEstimates_host (s : Part) : (setEstimates s).host = s.host := rfl
@[simp] theorem setEstimates_out (s : Part) : (setEstimates s).out = s.out := rfl

/-! ### setSummary -/

@[simp] theorem setSummary_unit (s : Part) : (setSummary s).unit = s.unit := rfl
@[simp] theorem setSummary_text (s : Part) : (setSummary s).text = s.text := rfl
@[simp] theorem setSummary_route (s : Part) : (setSummary s).route = s.route := rfl
@[simp] theorem setSummary_est (s : Part) : (setSummary s).est = s.est := rfl
@[simp] theorem setSummary_form (s : Part) : (setSummary s).form = s.form := rfl
@[simp] theorem setSummary_res (s : Part) : (setSummary s).res = s.res := rfl
@[simp] theorem setSummary_seat (s : Part) : (setSummary s).seat = { s.seat with summary := seatSummary s } := rfl
@[simp] theorem setSummary_panel (s : Part) : (setSummary s).panel = s.panel := rfl
@[simp] theorem setSummary_disp (s : Part) : (setSummary s).disp = s.disp := rfl
@[simp] theorem setSummary_supply (s : Part) : (setSummary s).supply = s.supply := rfl
@[simp] theorem setSummary_host (s : Part) : (setSummary s).host = s.host := rfl
@[simp] theorem setSummary_out (s : Part) : (setSummary s).out = s.out := rfl

/-! ### The state of the machine -/

@[simp] theorem part_mk (p : Part) (q : List Instr) : ({ part := p, pending := q } : State).part = p := rfl
@[simp] theorem pending_mk (p : Part) (q : List Instr) : ({ part := p, pending := q } : State).pending = q := rfl

/-- A command carried out answers the part its effect gives, the lines that are free having begun to send. -/
theorem carry_next (f : Part → Part) (s : State) : carry f s = .next { s with part := finish (f (quiet s.part)) } := rfl

theorem isRun_iff (s : Part) : isRun s = true ↔ s.supply.mode = .run := by simp [isRun]

end Sys2Proof.Machine
end

