-- ==== Sys2Proof/Laws/Requests.lean ====
section
/-! SUPPORT. From an operation to a command: what a command that is carried out leaves alone, what the request stage does
with a request, and where a queued reply goes. -/
namespace Sys2Proof.Machine

/-! ### What a command leaves alone -/

/-- A command whose effect on the part keeps all but `L` changes, as a step, nothing but `L` (log entry 10). -/
theorem Keeps.only {L : List Block} {f : Part → Part} {s : State} (h : Keeps L (quiet s.part) (f (quiet s.part))) :
    Only L s { s with part := finish (f (quiet s.part)) } := by
  have k : Keeps L (quiet s.part) (finish (f (quiet s.part))) := Keeps.step finish_keeps (by simp) h
  refine ⟨rfl, fun b hb => ?_⟩
  have := k.all b hb
  cases b <;> exact this

theorem frameEnd_host_keeps {s : Part} : Keeps [.host] s (frameEnd s) := onHostBut_keeps rfl rfl

/-- Handing a request to its owner changes the host port and what the owner changes. -/
theorem handRequest_keeps {L : List Block} {kind tag : Byte} {owner : Part → Part × Reply} (h : ∀ s, Keeps L s (owner s).1)
    {s : Part} : Keeps (.host :: L) s (handRequest kind tag owner s) := by
  have h1 : Keeps (.host :: L) s
      (owner (onHost (fun h => { h with inFlight := h.inFlight ++ [{ tag := tag, kind := kind, phase := .handed }] }) s)).1 :=
    Keeps.step (h _) (by simp [List.all_eq_true]; tauto) (Keeps.step (M := [.host]) (onHostBut_keeps rfl rfl) (by simp) Keeps.refl)
  unfold handRequest
  dsimp only
  revert h1
  generalize owner _ = p
  intro h1
  obtain ⟨s2, r⟩ := p
  cases r with
  | now r d => exact Keeps.step (M := [.host]) answer_keeps (by simp) h1
  | wait => exact Keeps.step (M := [.host]) (onHostBut_keeps rfl rfl) (by simp) h1

/-- A request changes the host port and what its owner changes. -/
theorem hostRequest_keeps {α : Type} {L : List Block} {kind tag : Byte} {body : Option α} {owner : α → Part → Part × Reply}
    (h : ∀ x s, Keeps L s (owner x s).1) {s : Part} : Keeps (.host :: L) s (hostRequest kind tag body owner s) := by
  have h0 : Keeps (.host :: L) s (frameEnd s) := Keeps.step frameEnd_host_keeps (by simp) Keeps.refl
  unfold hostRequest
  dsimp only
  split
  · split
    · exact Keeps.step (M := [.host]) (onHostBut_keeps (refuse_latched ..) (refuse_params ..)) (by simp) h0
    · exact Keeps.step (M := [.host]) (onHostBut_keeps (refuse_latched ..) (refuse_params ..)) (by simp) h0
    · exact Keeps.step (handRequest_keeps (h _)) (by simp [List.all_eq_true]; tauto) h0
  · exact Keeps.refl

/-! ### Where a queued frame goes -/

@[simp] theorem kick_host (s : Part) : (kick s).host = s.host := by
  unfold kick arbiter beginTransfer beginPoll
  (repeat' split) <;> rfl

theorem mem_nextFrame {b : Bool} {q : List QFrame} {x : QFrame} (h : x ∈ q) (hx : x ≠ .event) :
    x ∈ (nextFrame b q).2 ∨ (nextFrame b q).1 = some x := by
  induction q with
  | nil => simp at h
  | cons y t ih =>
    rcases List.mem_cons.mp h with rfl | ht
    · cases x <;> first | exact absurd rfl hx | exact Or.inr rfl
    · cases y with
      | event =>
        unfold nextFrame
        split
        · exact ih ht
        · exact Or.inl ht
      | _ => exact Or.inl ht

/-- Where a step ends, a queued frame other than EVENT still waits or is on the line (R190). -/
theorem mem_finish {s : Part} {x : QFrame} (h : x ∈ s.host.queue) (hx : x ≠ .event) :
    x ∈ (finish s).host.queue ∨ (finish s).host.sending = some (sentFrame s x) := by
  unfold finish
  rw [kick_host]
  unfold pump
  split
  · rcases mem_nextFrame (b := reported s.host == 0#14) h hx with k | k
    · exact Or.inl k
    · exact Or.inr (by simp [onHost, k])
  · exact Or.inl h

@[simp] theorem finish_inFlight (s : Part) : (finish s).host.inFlight = s.host.inFlight := by
  unfold finish pump
  rw [kick_host]
  split <;> rfl

/-! ### The request stage -/

/-- A request that the stage lets through is handed to its owner (R191). -/
theorem hostRequest_accepts {α : Type} {kind tag : Byte} {x : α} {owner : α → Part → Part × Reply} {s : State}
    (h : Accepts s tag) : hostRequest kind tag (some x) owner (quiet s.part) = handRequest kind tag (owner x) (frameEnd (quiet s.part)) := by
  obtain ⟨h1, h2, h3⟩ := h
  have hr : isRun (quiet s.part) = true := by simp [isRun, quiet, h1]
  have hs : stageFault (frameEnd (quiet s.part)).host tag = none := by
    have hl : ¬ Config.inFlightMax ≤ s.part.host.inFlight.length := by simp only [Config.inFlightMax]; omega
    have ha : (s.part.host.inFlight.any fun e => e.tag == tag) = false := by simpa using h3
    simp [stageFault, frameEnd, onHost, quiet, hl, ha]
  simp [hostRequest, hr, hs]

/-- A request answered at once by an owner that leaves the in-flight table alone is answered by the step (R191, R192). -/
theorem handRequest_answered {kind tag : Byte} {owner : Part → Part × Reply} {s : State} {r : Result} {d : List Byte}
    (h : Accepts s tag) (hk : requestKind kind = true) {x : Part}
    (hx : x = onHost (fun h => { h with inFlight := h.inFlight ++ [{ tag := tag, kind := kind, phase := .handed }] })
      (frameEnd (quiet s.part)))
    (ho : (owner x).2 = .now r d) (hi : (owner x).1.host.inFlight = x.host.inFlight) :
    Answered s { s with part := finish (handRequest kind tag owner (frameEnd (quiet s.part))) } kind tag r d := by
  have hf : x.host.inFlight = s.part.host.inFlight ++ [{ tag := tag, kind := kind, phase := .handed }] := by rw [hx]; rfl
  have hn : (s.part.host.inFlight.find? fun e => e.tag == tag) = none := by
    simpa [List.find?_eq_none] using h.2.2
  have hm : (s.part.host.inFlight.map fun e => if e.tag == tag then { e with phase := .sending } else e) =
      s.part.host.inFlight := by
    conv_rhs => rw [← List.map_id s.part.host.inFlight]
    exact List.map_congr_left fun e he => by simp [h.2.2 e he]
  have hq : handRequest kind tag owner (frameEnd (quiet s.part)) = answer tag r d (owner x).1 := by
    unfold handRequest
    dsimp only
    rw [← hx]
    generalize owner x = p at *
    obtain ⟨s2, y⟩ := p
    cases ho
    rfl
  have hg : ((owner x).1.host.inFlight.find? fun e => e.tag == tag) = some { tag := tag, kind := kind, phase := .handed } := by
    rw [hi, hf, List.find?_append, hn]
    simp
  rw [hq]
  unfold answer
  rw [hg]
  refine ⟨?_, ?_⟩
  · simp only [finish_inFlight]
    rw [hi, hf, List.map_append, hm]
    simp
  · have := mem_finish (s := { (owner x).1 with host := { (owner x).1.host with
        inFlight := (owner x).1.host.inFlight.map fun x => if x.tag == tag then { x with phase := .sending } else x
        queue := (owner x).1.host.queue ++ [.reply tag kind r d] } }) (x := .reply tag kind r d) (by simp) (by simp)
    simpa [sentFrame, replyKind, hk] using this

end Sys2Proof.Machine
end

