-- ==== Sys2Proof/Laws/Stores.lean ====
section
/-! SUPPORT. The basic laws of the lists the blocks hold: association lists with rising keys, the endpoint table and the
refresh queue, replacement in a list, the places of the notice slots, and the ids of destinations. -/
namespace Sys2Proof.Machine

/-! ### Association lists -/

@[simp] theorem assocGet_assocSet_self {α : Type} (k : Nat) (v : α) (l : List (Nat × α)) :
    assocGet k (assocSet k v l) = some v := by
  induction l with
  | nil => simp [assocSet, assocGet]
  | cons x t ih =>
    obtain ⟨j, w⟩ := x
    unfold assocSet
    split
    · simp [assocGet]
    · split
      · simp [assocGet]
      · rename_i h
        simp [assocGet, h, ih]

theorem assocGet_assocSet_ne {α : Type} {k i : Nat} (h : i ≠ k) (v : α) (l : List (Nat × α)) :
    assocGet i (assocSet k v l) = assocGet i l := by
  induction l with
  | nil => simp [assocSet, assocGet, Ne.symm h]
  | cons x t ih =>
    obtain ⟨j, w⟩ := x
    unfold assocSet
    split
    · simp [assocGet, Ne.symm h]
    · split
      · rename_i hj
        subst hj
        simp [assocGet, Ne.symm h]
      · simp only [assocGet, ih]

@[simp] theorem assocGet_assocErase_self {α : Type} (k : Nat) (l : List (Nat × α)) : assocGet k (assocErase k l) = none := by
  induction l with
  | nil => rfl
  | cons x t ih =>
    obtain ⟨j, w⟩ := x
    by_cases h : j = k
    · subst h
      simpa [assocErase] using ih
    · simp only [assocErase] at ih
      simp [assocErase, h, assocGet, ih]

theorem assocGet_assocErase_ne {α : Type} {k i : Nat} (h : i ≠ k) (l : List (Nat × α)) :
    assocGet i (assocErase k l) = assocGet i l := by
  induction l with
  | nil => rfl
  | cons x t ih =>
    obtain ⟨j, w⟩ := x
    simp only [assocErase] at ih
    by_cases hj : j = k
    · subst hj
      simp [assocErase, assocGet, Ne.symm h, ih]
    · simp [assocErase, hj, assocGet, ih]

theorem mem_keys_assocSet {α : Type} (k : Nat) (v : α) (l : List (Nat × α)) (i : Nat) :
    i ∈ (assocSet k v l).map (·.1) ↔ i = k ∨ i ∈ l.map (·.1) := by
  induction l with
  | nil => simp [assocSet]
  | cons x t ih =>
    obtain ⟨j, w⟩ := x
    unfold assocSet
    split
    · simp
    · split
      · rename_i hj
        subst hj
        simp
      · simp only [List.map_cons, List.mem_cons, ih]
        tauto

/-- Writing a key keeps the keys rising. -/
theorem KeysRise.assocSet {α : Type} {l : List (Nat × α)} (h : KeysRise l) (k : Nat) (v : α) : KeysRise (assocSet k v l) := by
  induction l with
  | nil => simp [KeysRise, Machine.assocSet]
  | cons x t ih =>
    obtain ⟨j, w⟩ := x
    simp only [KeysRise, List.map_cons, List.pairwise_cons] at h ih
    unfold Machine.assocSet
    split
    · rename_i hk
      simp only [KeysRise, List.map_cons, List.pairwise_cons, List.mem_cons]
      refine ⟨fun a ha => ?_, h⟩
      rcases ha with rfl | ha
      · exact hk
      · exact hk.trans (h.1 a ha)
    · split
      · rename_i hj
        subst hj
        simpa [KeysRise] using h
      · rename_i h1 h2
        simp only [KeysRise, List.map_cons, List.pairwise_cons]
        refine ⟨fun a ha => ?_, ih h.2⟩
        rcases (mem_keys_assocSet k v t a).mp ha with rfl | ha
        · omega
        · exact h.1 a ha

/-- Erasing a key keeps the keys rising. -/
theorem KeysRise.assocErase {α : Type} {l : List (Nat × α)} (h : KeysRise l) (k : Nat) : KeysRise (assocErase k l) :=
  List.Pairwise.sublist (List.Sublist.map _ List.filter_sublist) h

/-! ### The endpoint table and the refresh queue -/

@[simp] theorem epUpdate_addrs (a : EpAddr) (f : EpEntry → EpEntry) (h : ∀ e, (f e).addr = e.addr) (d : Display) :
    (epUpdate a f d).table.map (·.addr) = d.table.map (·.addr) := by
  simp only [epUpdate, List.map_map]
  refine List.map_congr_left fun e _ => ?_
  simp only [Function.comp_apply]
  split
  · exact h e
  · rfl

/-- The entry of an address after a change of it. -/
theorem epAt_epUpdate_self (a : EpAddr) (f : EpEntry → EpEntry) (h : ∀ e, (f e).addr = e.addr) (d : Display) :
    epAt (epUpdate a f d) a = (epAt d a).map f := by
  simp only [epAt, epUpdate]
  induction d.table with
  | nil => rfl
  | cons e t ih =>
    rw [List.map_cons, List.find?_cons, List.find?_cons]
    by_cases he : e.addr = a
    · simp [he, h]
    · rw [ih]
      simp only [beq_eq_false_iff_ne.mpr he, Bool.false_eq_true, if_false]

/-- The entry of another address after a change. -/
theorem epAt_epUpdate_ne {a b : EpAddr} (hab : b ≠ a) (f : EpEntry → EpEntry) (h : ∀ e, (f e).addr = e.addr) (d : Display) :
    epAt (epUpdate a f d) b = epAt d b := by
  simp only [epAt, epUpdate]
  induction d.table with
  | nil => rfl
  | cons e t ih =>
    rw [List.map_cons, List.find?_cons, List.find?_cons, ih]
    by_cases he : e.addr = a
    · have hb : (a == b) = false := by simpa using fun x => hab x.symm
      simp only [he, h, hb, beq_self_eq_true, if_true]
    · simp only [beq_iff_eq, he, if_false]

@[simp] theorem enqueue_table (a : EpAddr) (d : Display) : (enqueue a d).table = d.table := by unfold enqueue; split <;> rfl

@[simp] theorem enqueue_inFlight (a : EpAddr) (d : Display) : (enqueue a d).inFlight = d.inFlight := by
  unfold enqueue; split <;> rfl

@[simp] theorem enqueue_probes (a : EpAddr) (d : Display) : (enqueue a d).probes = d.probes := by unfold enqueue; split <;> rfl

@[simp] theorem mem_enqueue (a b : EpAddr) (d : Display) : b ∈ (enqueue a d).queue ↔ b = a ∨ b ∈ d.queue := by
  unfold enqueue
  split
  · rename_i h
    have : a ∈ d.queue := by simpa using h
    constructor
    · exact Or.inr
    · rintro (rfl | h) <;> assumption
  · simp [or_comm]

/-- An endpoint that joins the queue stands in it once. -/
theorem enqueue_nodup {a : EpAddr} {d : Display} (h : d.queue.Nodup) : (enqueue a d).queue.Nodup := by
  unfold enqueue
  split
  · exact h
  · rename_i hn
    have : a ∉ d.queue := by simpa using hn
    simp [List.nodup_append, h]
    exact fun b hb => by rintro rfl; exact this hb

/-! ### Lists -/

@[simp] theorem length_modifyAt {α : Type} (i : Nat) (f : α → α) (l : List α) : (modifyAt i f l).length = l.length := by
  induction l generalizing i with
  | nil => cases i <;> rfl
  | cons x t ih => cases i <;> simp [modifyAt, ih]

theorem getElem?_modifyAt {α : Type} (i j : Nat) (f : α → α) (l : List α) :
    (modifyAt i f l)[j]? = if i = j then (l[j]?).map f else l[j]? := by
  induction l generalizing i j with
  | nil => simp [modifyAt]
  | cons x t ih =>
    cases i <;> cases j <;> simp [modifyAt, ih]

/-- A stable sort only permutes. -/
theorem insertBy_perm {α : Type} (before : α → α → Bool) (x : α) (l : List α) : (insertBy before x l).Perm (x :: l) := by
  induction l with
  | nil => exact List.Perm.refl _
  | cons y t ih =>
    unfold insertBy
    split
    · exact List.Perm.refl _
    · exact (ih.cons y).trans (List.Perm.swap x y t)

/-! ### Notice slots -/

@[simp] theorem slotsOf_setSlots_self (q : Panels) (l : NoticeLevel) (x : List (Option Slot)) : slotsOf (setSlots q l x) l = x := by
  cases l <;> rfl

theorem slotsOf_setSlots_ne {l l' : NoticeLevel} (h : l' ≠ l) (q : Panels) (x : List (Option Slot)) :
    slotsOf (setSlots q l x) l' = slotsOf q l' := by
  cases l <;> cases l' <;> first | rfl | exact absurd rfl h

/-! ### Destinations (R86) -/

@[simp] theorem mem_once (x : Nat) (l : List Nat) : x ∈ once l ↔ x ∈ l := by
  induction l with
  | nil => simp [once]
  | cons y t ih => by_cases h : x = y <;> simp [once, ih, h]

theorem once_nodup (l : List Nat) : (once l).Nodup := by
  induction l with
  | nil => simp [once]
  | cons y t ih => simp [once, ih.filter]

end Sys2Proof.Machine
end

