-- ==== Sys2Proof/Tests/Slice0.lean ====
section
/-! SUPPORT. Own tests: the well-formedness smoke, a witness for the hypotheses of every statement that has some, and small
tests of commands whose expected results are read from the rules and worked sequences of spec/. -/
namespace Sys2Proof.Tests
-- One test after another: checked side by side, their threads take more memory than the check allows.
set_option Elab.async false
open Sys2Proof Sys2Proof.Machine

/-! ### States the tests start from -/

/-- A part in RUN with a small text pool. -/
def base : Part := { supply := { mode := .run }, text := { free := [0, 1, 2, 3] } }

/-- A state with no command waiting. -/
def at0 (p : Part) : State := { part := p, pending := [] }

/-- The part after a command. -/
def after (c : Instr) (p : Part) : Part :=
  match exec c (at0 p) with
  | .next t => t.part
  | _ => {}

/-- A coach with some seats, labelled from 1, all with seat unit and sensor, and one interior panel. -/
def coach (booked seats : Nat) : CoachRec :=
  { booked := booked, seats := (List.range seats).map fun i => { label := i + 1, unitFitted := true, sensorFitted := true }
    interiorA := true, interiorB := false, exterior1 := false, exterior2 := false }

/-- A scheduled time of day 0. -/
def hhmm (h m : Byte) : Option SchedTime := some { hh := h, mm := m, day := 0 }

/-- A stop record of portion 0. -/
def stop (name : Nat) (arr dep : Option SchedTime) (inbound : List Inbound) : StopRec :=
  { name := name, short := none, mask := 1#3, arr := arr, dep := dep, dwell := 30, approach := 200, side := .left
    inbound := inbound, divide := false, join := false, reverse := false, cancelled := false }

/-- One segment of 10 km. -/
def leg1000 : List Inbound := [{ mask := 1#3, length := 1000, recovery := 0 }]

/-- Three stops: 09:30, 09:52 to 09:54, 10:20. -/
def stops : List StopRec :=
  [stop 1 none (hhmm 0x09#8 0x30#8) [], stop 2 (hhmm 0x09#8 0x52#8) (hhmm 0x09#8 0x54#8) leg1000,
   stop 3 (hhmm 0x10#8 0x20#8) none leg1000]

/-- A text entry of one code in a block. -/
def text (block refs : Nat) : TextEntry := { v0 := { codes := [0x41#8], chain := [block] }, v1 := none, v2 := none, refs := refs }

/-- A part whose route has some progress. -/
def onWay (g : Progress) : Part :=
  { base with
    unit := { unitId := 7, coaches := [coach 1 2] }
    text := { entries := [(1, text 4 1), (2, text 5 1), (3, text 6 1)], free := [0, 1, 2, 3] }
    route := { id := 318, stops := stops, ownSeq := [0, 1, 2], prog := g, clock := 34200, clockSet := true } }

/-- Standing at the first stop. -/
def standing0 : Progress := { state := .standing, p := some 0, n := some 1 }

/-- Running to the second stop. -/
def running0 : Progress := { state := .departed, p := some 0, n := some 1, dep := some 34200 }

/-- The part while its table is loaded. -/
def loading : Part := onWay { state := .loading }

/-- A formation record of two units, this one second. -/
def record2 : FormRecord :=
  { epoch := 5, ownIndex := 2
    units := [{ unitId := 3, orientation := .forward, booked := [9], portion := 0, route := 318 },
              { unitId := 7, orientation := .forward, booked := [1], portion := 0, route := 318 }] }

/-- The same record with this unit first. -/
def record1 : FormRecord := { record2 with units := record2.units.reverse, ownIndex := 1 }

/-- A follower in RUN. -/
def follower : Part := { onWay standing0 with form := { role := .following, record := record2, heardCycle := some 65535 } }

/-- A leader in RUN. -/
def leader : Part :=
  { onWay standing0 with form := { role := .leading, record := record1, qualEnd := some .a, cab := { a := true, b := false } } }

/-- A part in BREAK_HOLD whose return qualification runs. -/
def held : Part := { base with supply := { mode := .breakHold, mainBroken := true, qualifying := true, hold := some 20, breakCount := 15 } }

/-- An endpoint of the small part. -/
def ep0 : EpAddr := { coach := 0, kind := .seat, number := 0 }

/-- A display line with one transfer of version 255 under way. -/
def sending (miss : Nat) : Part :=
  { onWay standing0 with
    seat := { sensors := [[{}, {}]] }
    disp := { table := [{ addr := ep0, content := 255, miss := miss }], inFlight := some (.transfer 255, ep0) } }

/-- The same line with another operation under way. -/
def operating (op : LineOp) (e : EpEntry) : Part :=
  { sending 0 with disp := { table := [e], inFlight := some (op, ep0) } }

/-- An ABSENT endpoint whose probe is due. -/
def absent0 : EpEntry := { addr := ep0, present := false, miss := 3, probeTime := some 0, probeDue := true }

/-- A notice of text handle 2 in a slot. -/
def notice (origin : Option Nat) (t : Option Nat) : Slot :=
  { origin := origin, noticeId := 65535, subPriority := 3, targets := .all, handle := 2, duration := 3600, remaining := t
    rotation := {} }

/-- A forward that waits for units 3 and 4 with forward number 255. -/
def forward (awaited : List Nat) : Forward :=
  { tag := 9#8, noticeId := 1, raise := none, dests := [3, 4], number := some 255, awaited := awaited, full := [] }
/-! ### Well-formedness: an ill-formed command for each check -/
theorem test_wf_unknown_kind : Instr.wf (.unknownKindFrame 28#8 0#8 []) = false := by decide
theorem test_wf_fall : Instr.wf (.mainLevelFall 1251) = false := by decide
theorem test_wf_rise : Instr.wf (.mainLevelRise 1099) = false := by decide
theorem test_wf_claim_deadline : Instr.wf (.claimDeadline 0) = false := by decide
theorem test_wf_beacon_leader : Instr.wf (.beacon { leader := 0, epoch := 0, cycle := 0, clock := 0, clockSet := false, route := 0, snap := ⟨.idle, none, none, none, none, none, none, false⟩ }) = false := by decide
theorem test_wf_beacon_clock : Instr.wf (.beacon { leader := 1, epoch := 0, cycle := 0, clock := 172800, clockSet := true, route := 0, snap := ⟨.idle, none, none, none, none, none, none, false⟩ }) = false := by decide
theorem test_wf_snapshot : Instr.wf (.beacon { leader := 1, epoch := 0, cycle := 0, clock := 0, clockSet := false, route := 0, snap := ⟨.standing, none, some 1, none, none, none, none, false⟩ }) = false := by decide
theorem test_wf_response : Instr.wf (.windowResponse 1 0 4) = false := by decide
theorem test_wf_grant : Instr.wf (.grant 0 1 0) = false := by decide
theorem test_wf_roll_call : Instr.wf (.rollCall 65536 0) = false := by decide
theorem test_wf_roll_answer : Instr.wf (.rollAnswer { position := 1, unitId := 1, booked := [], portion := 0, route := 0, front := .a }) = false := by decide
theorem test_wf_booked : Instr.wf (.rollAnswer { position := 2, unitId := 1, booked := [100], portion := 0, route := 0, front := .a }) = false := by decide
theorem test_wf_formation : Instr.wf (.formation 1 0 []) = false := by decide
theorem test_wf_unit_entry : Instr.wf (.formation 1 0 [{ unitId := 1, orientation := .forward, booked := [], portion := 3, route := 0 }]) = false := by decide
theorem test_wf_formation_req : Instr.wf (.formationReq 0 0) = false := by decide
theorem test_wf_notice_fwd : Instr.wf (.noticeFwd { origin := 1, noticeId := 0, number := 0, epoch := 0, dests := [], body := .clear }) = false := by decide
theorem test_wf_targets : Instr.wf (.noticeFwd { origin := 1, noticeId := 1, number := 0, epoch := 0, dests := [], body := .raise .staff 0 (.coaches []) 0 [] }) = false := by decide
theorem test_wf_variant : Instr.wf (.noticeFwd { origin := 1, noticeId := 1, number := 0, epoch := 0, dests := [], body := .raise .staff 0 .all 0 [{ slot := 256, codes := [] }] }) = false := by decide
theorem test_wf_notice_ans : Instr.wf (.noticeAns { origin := 1, noticeId := 1, number := 256, epoch := 0, unitId := 1, full := false }) = false := by decide
theorem test_wf_tally : Instr.wf (.tally { unitId := 1, epoch := 0, portion := 0, route := 0, coaches := [{ position := 25, booked := 1, freeEnd := 0, freeDivide := 0 }] }) = false := by decide
theorem test_wf_tally_positions : Instr.wf (.tally { unitId := 1, epoch := 0, portion := 0, route := 0, coaches := [⟨1, 1, 0, 0⟩, ⟨1, 2, 0, 0⟩] }) = false := by decide
theorem test_wf_absence : Instr.wf (.absenceTimeExpiry 65536) = false := by decide
theorem test_wf_answer_time : Instr.wf (.answerTimeExpiry 256) = false := by decide
theorem test_wf_ack : Instr.wf (.ack { coach := 8, kind := .seat, number := 0 } 0) = false := by decide
theorem test_wf_panel_number : Instr.wf (.ack { coach := 0, kind := .interior, number := 3 } 0) = false := by decide
theorem test_wf_poll_reply : Instr.wf (.pollReply ep0 (some 256) .nothing) = false := by decide
theorem test_wf_poll_level : Instr.wf (.pollReply ep0 none (.level 256)) = false := by decide
theorem test_wf_probe : Instr.wf (.probeTimeExpiry { coach := 0, kind := .exterior, number := 0 }) = false := by decide
theorem test_wf_evidence : Instr.wf (.evidenceAgeExpiry 0 96) = false := by decide
theorem test_wf_dwell : Instr.wf (.dwellExpiry (.slot .staff 4)) = false := by decide
theorem test_wf_notice_expiry : Instr.wf (.noticeExpiry .staff 4) = false := by decide
theorem test_wf_length : Instr.wf (.frameLengthError 1024) = false := by decide
theorem test_wf_body : Instr.wf (.time 0#8 (List.replicate 1025 0#8)) = false := by
  decide +kernel
theorem test_wf_start_bytes : Instr.wf (.frameStartByte (List.replicate 1031 0#8)) = false := by
  decide +kernel
theorem test_wf_crc_body : Instr.wf (.frameCrcError 1#8 0#8 (List.replicate 1025 0#8) 0#16) = false := by
  decide +kernel
/-! ### Witnesses: concrete states and operands that meet the hypotheses of each statement -/
theorem base_accepts : Accepts (at0 base) 7#8 := ⟨rfl, by decide, by decide⟩

/-- Three requests in flight, none of the tag. -/
def busy3 : Part := { base with host := { inFlight := [⟨1#8, 1#8, .waiting⟩, ⟨2#8, 1#8, .waiting⟩, ⟨3#8, 1#8, .sending⟩] } }
theorem witness_accepts_boundary :
    Accepts (at0 busy3) 0#8 := ⟨rfl, by decide, by decide⟩
theorem witness_ConfigSetStoresTheAdmittedValue :
    readConfigSet [5#8, 0#8, 63#8] = some (5, 63) ∧ base.host.params.admitted 5 63 = some 63 ∧
      readConfigSet [5#8, 0#8, 64#8] = some (5, 64) ∧ base.host.params.admitted 5 64 = none := by decide
theorem witness_ConfigGetReportsTheValueInForce :
    Accepts (at0 base) 7#8 ∧ (1#8).toNat = 1 ∧ (15#8).toNat = 15 ∧ 15 < (16#8).toNat := ⟨base_accepts, by decide, by decide, by decide⟩
theorem witness_QueriesAnswerAndChangeNothing :
    Accepts (at0 (onWay standing0)) 7#8 ∧ readPair [0#8, 1#8] = some (0, 1) ∧
      (seatAt (onWay standing0).unit 0 1).isSome = true ∧ (seatAt (onWay standing0).unit 0 2).isNone = true ∧
      readEndpointQuery [0#8, 0#8, 1#8, 64#8] = some (0, 1, 64) := ⟨⟨rfl, by decide, by decide⟩, by decide, by decide, by decide, by decide⟩
theorem witness_QueriesAnswerAndChangeNothing_endpoints :
    0 < (sending 0).disp.table.length ∧ base.disp.table = [] := by decide
theorem witness_QueriesAnswerAndChangeNothing_refusals :
    readEndpointQuery [0#8, 0#8, 2#8, 1#8] = some (0, 2, 1) ∧ readEndpointQuery [0#8, 0#8, 1#8, 0#8] = some (0, 1, 0) ∧
      readEndpointQuery [0#8, 0#8, 1#8, 65#8] = some (0, 1, 65) ∧ readEndpointQuery [3#8, 32#8, 1#8, 1#8] = some (800, 1, 1) ∧
      readEndpointQuery [0#8, 1#8, 1#8, 64#8] = some (1, 1, 64) ∧ (sending 0).disp.table.length = 1 ∧
      ¬ ((sending 0).disp.table = [] ∧ 1 = 0) := by decide
theorem witness_QueriesAnswerAndChangeNothing_picked :
    (((sending 0).disp.table.zipIdx.drop 0).filter fun x => 0 == 0 || !x.1.present).take 1 =
      [({ addr := ep0, content := 255 }, 0)] ∧ (((sending 0).disp.table.zipIdx.drop 0).filter fun x => 1 == 0 || !x.1.present).take 64 = [] := by decide

/-- A segment of two coaches, without seats. -/
def segment (index : Byte) (booked : Byte) : List Byte := [0#8, 7#8, 2#8, index, booked, 0#8, 0#8]
/-- A part that collected the first segment, of a coach numbered 1. -/
def staged : Part := { base with unit := { staging := some { unitId := 7, coachCount := 2, coaches := [{ coach 1 0 with interiorA := false }] } } }
/-- A segment as its body gives it. -/
def seg (index booked : Nat) : SegmentReq :=
  { unitId := 7, coachCount := 2, coachIndex := index, booked := booked, seatCount := 0, panels := 0, seats := [] }
theorem witness_TheDescriptionIsCollectedCommittedAndRenumbered_collect :
    Accepts (at0 base) 7#8 ∧ readUnitSetup (segment 0#8 1#8) = some (seg 0 1) ∧
      ((segmentChecks (seg 0 1) base).all fun c => !c.1) = true ∧ (seg 0 1).coachIndex + 1 ≠ (seg 0 1).coachCount := ⟨base_accepts, by decide, by decide, by decide⟩
theorem witness_TheDescriptionIsCollectedCommittedAndRenumbered_refused :
    readUnitSetup (segment 1#8 1#8) = some (seg 1 1) ∧ (segmentChecks (seg 1 1) base).find? (·.1) = some (true, .badField) := by decide
theorem witness_TheDescriptionIsCollectedCommittedAndRenumbered_commit :
    Accepts (at0 staged) 7#8 ∧ readUnitSetup (segment 1#8 2#8) = some (seg 1 2) ∧
      ((segmentChecks (seg 1 2) staged).all fun c => !c.1) = true ∧ (seg 1 2).coachIndex + 1 = (seg 1 2).coachCount ∧
      readUnitSetup (segment 1#8 1#8) = some (seg 1 1) ∧ ((segmentChecks (seg 1 1) staged).all fun c => !c.1) = true := ⟨⟨rfl, by decide, by decide⟩, by decide, by decide, by decide, by decide, by decide⟩
theorem witness_TheDescriptionIsCollectedCommittedAndRenumbered_renumber :
    Accepts (at0 (onWay standing0)) 7#8 ∧ readList [1#8, 99#8] = some [99] ∧ readList [1#8, 100#8] = some [100] ∧
      readList [2#8, 5#8, 5#8] = some [5, 5] ∧ readList [0#8] = some [] := ⟨⟨rfl, by decide, by decide⟩, by decide, by decide, by decide, by decide⟩
theorem witness_PortionSetTakesTheTag :
    Accepts (at0 (onWay standing0)) 7#8 ∧ hasRoute (onWay standing0).route.prog.state = true ∧
      placeAgain (callSeq stops 2) standing0 = none ∧ (placeAgain (callSeq stops 0) standing0).isSome = true ∧
      loading.route.prog.state = .loading ∧ (2#8).toNat ≠ (onWay standing0).unit.portionTag ∧
      (placeAgain (callSeq stops 0) running0).map (·.n) = some running0.n := ⟨⟨rfl, by decide, by decide⟩, by decide, by decide, by decide, by decide, by decide, by decide⟩
theorem witness_TextPutAndDropKeepTheirBlocks_put :
    Accepts (at0 base) 7#8 ∧ readTextPut [191#8, 0#8, 1#8, 0xFF#8] = some (191, 0, [0xFF#8]) ∧ admitted 0xFF#8 = true ∧
      (64 + 15) / 16 ≤ base.text.free.length := ⟨base_accepts, by decide, by decide, by decide⟩
theorem witness_TextPutAndDropKeepTheirBlocks_refused :
    readTextPut [192#8, 0#8, 0#8] = some (192, 0, []) ∧ admitted 0x7F#8 = false ∧
      readTextPut [1#8, 2#8, 1#8, 0x20#8] = some (1, 2, [0x20#8]) ∧ textKnown base.text 1 = false ∧
      textKnown (onWay standing0).text 1 = true ∧ ([] : List Nat).length < (1 + 15) / 16 := by decide
theorem witness_TextPutAndDropKeepTheirBlocks_drop :
    Accepts (at0 (onWay standing0)) 7#8 ∧ (191#8).toNat = 191 ∧ textAt (onWay standing0).text 191 = none ∧
      textAt (onWay standing0).text 1 = some (text 4 1) ∧ textAt { entries := [(1, text 4 0)], free := [] } 1 = some (text 4 0) := ⟨⟨rfl, by decide, by decide⟩, by decide, by decide, by decide, by decide⟩
theorem witness_RouteOpenAndClearEmptyTheTable :
    Accepts (at0 base) 7#8 ∧ readRouteOpen [0xFF#8, 0xFF#8, 0#8] = some (65535, 0) ∧ base.route.prog.state = .idle ∧
      base.res.legs = [] ∧ readRouteOpen [0#8, 1#8, 3#8] = some (1, 3) ∧ textKnown (onWay standing0).text 3 = true := ⟨base_accepts, by decide, by decide, by decide, by decide, by decide⟩
theorem witness_RouteOpenAndClearEmptyTheTable_refused :
    ¬ ((onWay running0).route.prog.state = .idle ∨ (onWay running0).route.prog.state = .terminated) ∧
      readRouteOpen [0#8, 0#8, 0#8] = some (0, 0) ∧ readRouteOpen [0#8, 1#8, 192#8] = some (1, 192) ∧
      readRouteOpen [0#8, 1#8, 191#8] = some (1, 191) ∧ textKnown base.text 191 = false := by decide

/-- A STOP-PUT body for index 3 of a loading table. -/
def stopBody : List Byte :=
  [3#8, 1#8, 0#8, 1#8, 1#8, 0x10#8, 0x30#8, 0#8, 0#8, 0#8, 0#8, 0#8, 0#8, 0#8, 0#8, 3#8, 0#8, 1#8, 1#8, 0#8, 1#8, 0#8, 0#8]
theorem witness_StopPutWritesARecord :
    Accepts (at0 loading) 7#8 ∧ (match readStopPut stopBody with
      | some x => !stopBad 3 x && !stopTimeBad x && textKnown loading.text x.name && x.short == 0 && stopBad 2 x
      | none => false) = true ∧ (match readStopPut (stopBody.set 5 0x24#8) with
      | some x => !stopBad 3 x && stopTimeBad x
      | none => false) = true ∧ (match readStopPut (stopBody.set 1 9#8) with
      | some x => !stopBad 3 x && !stopTimeBad x && !textKnown loading.text x.name
      | none => false) = true ∧ ((loading.route.stops[2]?).map recHandles) = some [3] := ⟨⟨rfl, by decide, by decide⟩, by decide, by decide, by decide, by decide⟩
theorem witness_RouteCloseStartsTheJourney :
    Accepts (at0 loading) 7#8 ∧ loading.route.prog.state = .loading ∧ closeFault stops 0 = none ∧ (closeFault stops 1).isSome = true := ⟨⟨rfl, by decide, by decide⟩, by decide, by decide, by decide⟩
theorem witness_StopAmendChangesARecordAhead :
    Accepts (at0 (onWay standing0)) 7#8 ∧ (match readStopAmend [1#8, 1#8, 0#8, 0#8, 0#8, 0#8, 0#8, 0#8, 0#8, 0#8, 0#8] with
      | some x => !amendBad stops x && !amendTimeBad x && decide (positionIndex standing0 < x.index) &&
          !cancelBad (onWay standing0) x && (timeFault (amended x stops)).isNone
      | none => false) = true ∧ underWay (onWay standing0).route.prog.state = true := ⟨⟨rfl, by decide, by decide⟩, by decide, by decide⟩

/-- A STOP-AMEND of a record: the changes, the new arrival hour and the new dwell. -/
def amending (index changes hour dwell : Nat) : AmendReq :=
  { index := index, changes := changes, side := 0, arr := { hh := byte hour, mm := 0#8, day := 0 }
    dep := { hh := 0#8, mm := 0#8, day := 0 }, dwell := dwell }
theorem witness_StopAmendChangesARecordAhead_refused :
    readStopAmend [1#8, 63#8, 0#8, 9#8, 0#8, 0#8, 0#8, 0#8, 0#8, 2#8, 88#8] = some (amending 1 63 9 600) ∧
      underWay loading.route.prog.state = false ∧ amendBad stops (amending 1 64 9 0) = true ∧ amendBad stops (amending 1 32 0 601) = true ∧
      amendBad stops (amending 1 32 0 600) = false ∧ amendTimeBad (amending 1 8 0x24 0) = true ∧ amendBad stops (amending 1 8 0x24 0) = false ∧
      ¬ positionIndex standing0 < (amending 0 32 0 600).index ∧ amendBad stops (amending 0 32 0 600) = false ∧
      cancelBad { onWay standing0 with route := { (onWay standing0).route with stops := stops.take 2 } } (amending 1 1 0 0) = true ∧
      cancelBad (onWay standing0) (amending 1 8 9 0) = false ∧ timeFault (amended (amending 1 8 9 0) stops) ≠ none := by decide
theorem witness_TheServiceClockIsSetAndAdvances :
    Accepts (at0 base) 7#8 ∧ readTime [0x23#8, 0x59#8, 0x59#8, 1#8] = some ⟨0x23#8, 0x59#8, 0x59#8, 1⟩ ∧
      ClockTime.ok ⟨0x23#8, 0x59#8, 0x59#8, 1⟩ = true ∧ ClockTime.ok ⟨0x24#8, 0#8, 0#8, 0⟩ = false := ⟨base_accepts, by decide, by decide, by decide⟩
theorem witness_TheServiceClockIsSetAndAdvances_ticks :
    (fun s : Part => s.route.clock = 172799 ∧ s.route.rangeLatched = false ∧ s.supply.mode = .run)
      { base with route := { clock := 172799 } } ∧ (onWay standing0).route.clock < 172799 ∧ held.supply.mode = .breakHold ∧
      State.reset.part.supply.mode ≠ .off := ⟨⟨rfl, rfl, rfl⟩, by decide, rfl, by decide⟩
theorem witness_DepartedLeavesTheStopUnlessItFollows :
    Accepts (at0 (onWay standing0)) 7#8 ∧ readIndexTime [0#8, 0x09#8, 0x31#8, 0x10#8, 0#8] = some (0, ⟨0x09#8, 0x31#8, 0x10#8, 0⟩) ∧
      ClockTime.ok ⟨0x09#8, 0x31#8, 0x10#8, 0⟩ = true ∧ (onWay standing0).route.prog.source = .own ∧ standing0.p = some 0 := ⟨⟨rfl, by decide, by decide⟩, by decide, by decide, by decide, by decide⟩
theorem witness_PositionMovesBetweenDepartedAndApproaching :
    Accepts (at0 (onWay running0)) 7#8 ∧ readPosition [0#8, 0#8, 0#8, 200#8] = some ((200 : Nat) : Int) ∧
      (onWay running0).route.prog.source = .own ∧ running0.state = .departed ∧ running0.p = some 0 ∧ running0.n = some 1 := ⟨⟨rfl, by decide, by decide⟩, by decide, by decide, by decide, by decide, by decide⟩
theorem witness_ArrivedBringsTheTrainToAStop :
    Accepts (at0 (onWay running0)) 7#8 ∧ readIndexTime [2#8, 0x10#8, 0x20#8, 0#8, 0#8] = some (2, ⟨0x10#8, 0x20#8, 0#8, 0⟩) ∧
      ClockTime.ok ⟨0x10#8, 0x20#8, 0#8, 0⟩ = true ∧ (onWay running0).route.prog.source = .own ∧ 2 < stops.length ∧
      2 ∈ (onWay running0).route.ownSeq := ⟨⟨rfl, by decide, by decide⟩, by decide, by decide, by decide, by decide, by decide⟩

/-- Running past a record that is cancelled. -/
def skipping : Part := { onWay running0 with route := { (onWay running0).route with ownSeq := [0, 2], prog := { running0 with n := some 2 } } }
theorem witness_ArrivedBringsTheTrainToAStop_halt :
    Accepts (at0 skipping) 7#8 ∧ 1 ∉ skipping.route.ownSeq ∧ 1 ≤ skipping.route.ownSeq.getLast?.getD 0 ∧ skipping.route.prog.p = some 0 := ⟨⟨rfl, by decide, by decide⟩, by decide, by decide, by decide⟩
theorem witness_DepartedLeavesTheStopUnlessItFollows_following :
    Accepts (at0 (onWay { running0 with source := .beacon })) 7#8 ∧ readPosition [0#8, 0#8, 0#8, 0#8] = some ((0 : Nat) : Int) ∧
      readIndexTime [63#8, 0#8, 0#8, 0#8, 0#8] = some (63, ⟨0#8, 0#8, 0#8, 0⟩) := ⟨⟨rfl, by decide, by decide⟩, by decide, by decide⟩
theorem witness_PositionMovesBetweenDepartedAndApproaching_negative :
    readPosition [0xFF#8, 0xFF#8, 0xFF#8, 0xFF#8] = some (-1) ∧ Accepts (at0 (onWay { running0 with source := .beacon })) 7#8 := ⟨by decide, ⟨rfl, by decide, by decide⟩⟩
theorem witness_ArrivedBringsTheTrainToAStop_refused :
    readIndexTime [64#8, 0#8, 0#8, 0#8, 0#8] = some (64, ⟨0#8, 0#8, 0#8, 0⟩) ∧ readIndexTime [63#8, 0x24#8, 0#8, 0#8, 1#8] = some (63, ⟨0x24#8, 0#8, 0#8, 1⟩) ∧
      readIndexTime [63#8, 0#8, 0#8, 0#8, 2#8] = some (63, ⟨0#8, 0#8, 0#8, 2⟩) ∧ ClockTime.ok ⟨0x24#8, 0#8, 0#8, 1⟩ = false ∧
      (onWay standing0).route.prog.state ≠ .departed ∧ (onWay standing0).route.prog.state ≠ .approaching ∧
      (onWay running0).route.stops.length ≤ 3 ∧ running0.p = some 0 ∧ (0 : Nat) ≤ 0 ∧
      (fun s : Part => s.route.ownSeq.getLast?.getD 0 < 2 ∧ 2 ∉ s.route.ownSeq)
      { onWay running0 with route := { (onWay running0).route with ownSeq := [0, 1] } } := by decide
theorem witness_StopAmendChangesARecordAhead_flip :
    cancelBad (onWay running0) (amending 1 1 0 0) = false ∧ amendBad stops (amending 1 1 0 0) = false ∧
      timeFault (amended (amending 1 1 0 0) stops) = none ∧ running0.state = .departed ∧
      firstAfter (callSeq (amended (amending 1 1 0 0) stops) 0) (positionIndex running0) ≠ running0.n := by decide
theorem witness_DepartedLeavesTheStopUnlessItFollows_refused :
    Accepts (at0 (onWay standing0)) 7#8 ∧ readIndexTime [64#8, 0#8, 0#8, 0#8, 1#8] = some (64, ⟨0#8, 0#8, 0#8, 1⟩) ∧
      readIndexTime [63#8, 0#8, 0#8, 0#8, 2#8] = some (63, ⟨0#8, 0#8, 0#8, 2⟩) ∧
      readIndexTime [63#8, 0#8, 0x60#8, 0#8, 1#8] = some (63, ⟨0#8, 0x60#8, 0#8, 1⟩) ∧ ClockTime.ok ⟨0#8, 0x60#8, 0#8, 1⟩ = false := ⟨⟨rfl, by decide, by decide⟩, by decide, by decide, by decide, by decide⟩

/-- A leg of seat 0 over the whole journey. -/
def leg0 (st : LegState) (ph : Phase) : Leg :=
  { id := 65535, coach := 0, seat := 0, frm := 0, till := 2, noRelease := false, state := st, phase := ph }
/-- The standing part with one leg. -/
def withLeg (l : Leg) : Part := { onWay standing0 with res := { legs := [l] } }
theorem witness_LegAddBooksTheSeat :
    Accepts (at0 (onWay standing0)) 7#8 ∧ (match readLegAdd [0xFF#8, 0xFE#8, 0#8, 1#8, 0#8, 2#8, 1#8] with
      | some x => ((legChecks x (onWay standing0)).find? (·.1)).isNone && x.id == 65534
      | none => false) = true ∧ (match readLegAdd [0xFF#8, 0xFF#8, 0#8, 1#8, 0#8, 2#8, 1#8] with
      | some x => (legChecks x (withLeg (leg0 .booked .ahead))).find? (·.1) == some (true, .conflict)
      | none => false) = true := ⟨⟨rfl, by decide, by decide⟩, by decide, by decide⟩
theorem witness_LegCancelAndRestoreActOnTheirLeg :
    Accepts (at0 (withLeg (leg0 .released .done))) 7#8 ∧ readTwo [0xFF#8, 0xFF#8] = some 65535 ∧ readTwo [0#8, 0#8] = some 0 ∧
      legOf (withLeg (leg0 .released .done)).res 65535 = some (leg0 .released .done) := ⟨⟨rfl, by decide, by decide⟩, by decide, by decide, by decide⟩
theorem witness_LegCancelAndRestoreActOnTheirLeg_refused :
    (∀ l ∈ (withLeg (leg0 .released .done)).res.legs, l.id ≠ 65534) ∧ readTwo [0xFF#8, 0xFE#8] = some 65534 ∧
      (leg0 .booked .ahead).state ≠ .released := by decide

/-- The body of a NOTICE-RAISE at STAFF for every coach. -/
def raiseBody : List Byte := [0xFF#8, 0xFF#8, 0#8, 3#8, 0#8, 0#8, 2#8, 0x0E#8, 0x10#8]
/-- The same request as its fields. -/
def raise0 : RaiseReq := { noticeId := 65535, level := 0, subPriority := 3, kind := 0, numbers := [], handle := 2, duration := 3600 }
theorem witness_NoticesAreRaisedAndCleared_raise :
    Accepts (at0 (onWay standing0)) 7#8 ∧ readNoticeRaise raiseBody = some raise0 ∧ raiseBad raise0 = false ∧
      (onWay standing0).unit.coaches ≠ [] ∧ textAt (onWay standing0).text 2 = some (text 5 1) ∧
      findNotice (onWay standing0).panel none 65535 = none ∧ firstEmpty (slotsOf (onWay standing0).panel .staff) = some 0 ∧
      destinations (onWay standing0) .all = [] ∧ destinations follower .all = [3] ∧ follower.form.queue.length < 16 := ⟨⟨rfl, by decide, by decide⟩, by decide, by decide, by decide, by decide, by decide, by decide, by decide, by decide, by decide⟩
theorem witness_NoticesAreRaisedAndCleared_refused :
    raiseBad { raise0 with noticeId := 0 } = true ∧ raiseBad { raise0 with level := 2 } = true ∧ raiseBad { raise0 with subPriority := 4 } = true ∧
      raiseBad { raise0 with duration := 3601 } = true ∧ raiseBad { raise0 with handle := 192 } = true ∧ raiseBad raise0 = false ∧ base.unit.coaches = [] ∧
      textKnown (onWay standing0).text 191 = false ∧ findNotice { staff := [some (notice none none)] } none 65535 ≠ none ∧
      firstEmpty (slotsOf { staff := List.replicate 4 (some (notice none none)) } (raiseLevel raise0)) = none := by decide
theorem witness_NoticesAreRaisedAndCleared_clear :
    Accepts (at0 follower) 7#8 ∧ readTwo [0xFF#8, 0xFF#8] = some 65535 ∧ clearDestinations follower = [3] ∧ clearDestinations base = [] ∧
      findNotice { staff := [none, none, none, some (notice none none)] } none 65535 = some (.staff, 3) := ⟨⟨rfl, by decide, by decide⟩, by decide, by decide, by decide, by decide⟩
theorem witness_EventClearUnlatchesItsKinds :
    Accepts (at0 base) 7#8 ∧ readTwo [0x3F#8, 0xFF#8] = some 16383 ∧ readTwo [0x40#8, 0#8] = some (2 ^ 14) := ⟨base_accepts, by decide, by decide⟩

/-- A frame on the line. -/
def onLine (kind : Byte) (entry : Option Byte) : Part :=
  { base with host := { inFlight := [⟨1#8, 0x1C#8, .sending⟩], sending := some { kind := kind, tag := 1#8, body := [0#8, 1#8], entry := entry } } }
theorem witness_RestartIsAnsweredThenActs :
    Accepts (at0 base) 7#8 ∧ (onLine 0x9C#8 (some 1#8)).supply.mode = .run ∧ (onLine 0x9C#8 (some 1#8)).host.sending.isSome = true ∧
      (onLine 0x9C#8 none).host.sending.isSome = true := ⟨base_accepts, by decide, by decide, by decide⟩
theorem witness_TheRequestStageRefusesInOrder :
    request (.unknownKindFrame 29#8 7#8 []) = some (29#8, 7#8, []) ∧ busy3.supply.mode = .run ∧
      busy3.host.inFlight.length < 4 ∧ (∃ e ∈ busy3.host.inFlight, e.tag = 3#8) ∧ 4 ≤ ((⟨9#8, 1#8, .waiting⟩ : InFlight) :: busy3.host.inFlight).length ∧
      request (.statusQuery 7#8 [0#8]) = some (0x19#8, 7#8, [0#8]) ∧ fitsKind 0x19#8 [0#8] = false ∧ fitsKind 0x19#8 [] = true ∧
      fitsKind 0x06#8 [1#8, 0#8, 1#8] = false ∧ fitsKind 0x06#8 [1#8, 0#8, 1#8, 0x41#8] = true ∧ Accepts (at0 base) 7#8 := ⟨rfl, rfl, by decide, by decide, by decide, rfl, by decide, by decide, by decide, by decide, base_accepts⟩

/-- Three refusals wait; a frame is on the line or none is. -/
def refusing (x : Option SentFrame) : Part :=
  { busy3 with host := { busy3.host with queue := [.refusal 4#8 1#8 .busy, .refusal 5#8 1#8 .busy, .refusal 6#8 1#8 .conflict], sending := x } }
/-- A refused request that finds three refusals waiting joins nothing. -/
theorem test_lost_refusal : (after (.statusQuery 3#8 []) (refusing (onLine 0x9C#8 none).host.sending)).host.queue = (refusing none).host.queue ∧
    (after (.statusQuery 3#8 []) (refusing none)).host.queue = (refusing none).host.queue.drop 1 := by decide
theorem witness_TheRequestStageRefusesInOrder_three :
    3 ≤ ((refusing none).host.queue.filter fun x => match x with
      | .refusal _ _ _ => true
      | _ => false).length ∧ (refusing none).supply.mode = .run ∧ (∃ e ∈ (refusing none).host.inFlight, e.tag = 3#8) ∧
      (refusing (onLine 0x9C#8 none).host.sending).host.sending.isSome = true ∧ (refusing none).host.sending = none := by decide

/-- A part that collects a frame. -/
def onFrame : Part := { base with host := { receiver := .inFrame, buffer := [0xA5#8] } }
theorem witness_TheReceiverHuntsAndCollects :
    base.supply.mode = .run ∧ base.host.receiver = .hunting ∧ EndsNoFrame (0xA5#8 :: [0#8, 1#8, 1#8, 7#8, 1#8, 0#8]) ∧
      onFrame.host.receiver = .inFrame ∧ EndsNoFrame (onFrame.host.buffer ++ 0xA5#8 :: []) ∧ 1024 < 1025 ∧
      (0#16 : BitVec 16) ≠ crc16 ([byte 0, byte 0, 1#8, 1#8] ++ []) := ⟨rfl, rfl, Or.inr (by decide), rfl, Or.inl (by decide), by decide, by decide +kernel⟩
theorem witness_ABreakInRunHoldsOrEndsTheState :
    (fun s : Part => s.supply.mode = .run ∧ s.supply.mainBroken = false ∧ s.supply.qualifying = true)
      { base with supply := { mode := .run, qualifying := true, breakCount := 6 } } := ⟨rfl, rfl, rfl⟩
theorem witness_AReturnFromAHoldIsWarm :
    held.supply.mode = .breakHold ∧ held.supply.mainBroken = true ∧ held.supply.qualifying = true := by decide
theorem witness_AReturnFromAHoldIsWarm_extended :
    (fun s : Part => s.supply.mode = .extendedHold ∧ s.supply.mainBroken = true ∧ s.supply.qualifying = true ∧
      underWay s.route.prog.state = true) { onWay { running0 with state := .approaching } with supply := { held.supply with mode := .extendedHold } } := ⟨rfl, rfl, rfl, rfl⟩

/-- A hold in a mode: a LEADING part without a cab, with a notice of unit 9 and one of its own. -/
def holding (m : SupplyMode) : Part :=
  { held with
    supply := { held.supply with mode := m }
    form := { leader.form with cab := { a := false, b := false } }
    panel := { staff := [some (notice (some 9) none), none, none, some (notice none none)] } }
theorem witness_AReturnFromAHoldIsWarm_role :
    (holding .breakHold).form.role = .leading ∧ qualifyingEnd (holding .breakHold).form = none ∧ qualifyingEnd leader.form = some .a ∧
      (holding .breakHold).supply.qualifying = true := by decide
theorem witness_AReturnFromAHoldIsWarm_notices :
    (holding .extendedHold).supply.mode = .extendedHold ∧ (0 : Nat) < 4 ∧ (3 : Nat) < 4 ∧
      slotAt (holding .extendedHold).panel .staff 0 = some (notice (some 9) none) ∧
      slotAt (holding .extendedHold).panel .staff 3 = some (notice none none) ∧ (holding .extendedHold).unit.unitId ≠ 9 := by decide
/-- R92, R82: the role after a hold without a cab, and the notices after an extended one. -/
theorem test_returns : (after (.mainReturn 3000) (holding .breakHold)).form.role = .formingFollower ∧
    (after (.mainReturn 3000) (holding .extendedHold)).panel.staff.map (·.isSome) = [false, false, false, true] := by
  decide +kernel
theorem witness_SupplyInputsAct_return :
    (fun s : Part => s.supply.mode = .off ∧ s.supply.mainBroken = true ∧ s.supply.qualifying = true)
      { supply := { mode := .off, mainBroken := true, qualifying := true } } ∧
      (fun s : Part => s.supply.mode = .coldStart ∧ s.supply.qualifying = true ∧ s.supply.mainBroken = false ∧ s.supply.retentionLow = false)
      { supply := { qualifying := true } } ∧
      (fun s : Part => s.supply.mode = .coldStart ∧ s.supply.qualifying = true ∧ s.supply.mainBroken = true)
      { supply := { qualifying := true, mainBroken := true } } := ⟨⟨rfl, rfl, rfl⟩, ⟨rfl, rfl, rfl, rfl⟩, ⟨rfl, rfl, rfl⟩⟩
theorem witness_SupplyTimesAndResetAct_hold :
    held.supply.mode = .breakHold ∧ held.supply.hold = some 20 ∧
      (fun s : Supply => s.mode = .extendedHold ∧ s.extHold = some 0) { mode := .extendedHold, extHold := some 0 } := ⟨rfl, rfl, rfl, rfl⟩
theorem witness_SupplyInputsAct :
    base.supply.mode = .run ∧ held.supply.mode = .breakHold ∧ base.supply.mode ≠ .off ∧
      (fun s : Supply => s.mode = .coldStart ∧ s.mainBroken = true) { mainBroken := true } ∧
      (fun s : Supply => s.mode = .coldStart ∧ s.mainBroken = false ∧ s.qualifying = true ∧ s.retentionLow = true)
        { qualifying := true, retentionLow := true } := ⟨rfl, rfl, by decide, ⟨rfl, rfl⟩, rfl, rfl, rfl, rfl⟩
theorem witness_SupplyTimesAndResetAct_clearing :
    (fun s : Supply => s.mode = .coldStart ∧ s.clearing = true) { clearing := true } := ⟨rfl, rfl⟩
theorem witness_SupplyTimesAndResetAct_reset :
    (fun s : Supply => s.resetAsserted = true) { resetAsserted := true } ∧ State.reset.part.supply.mode = .run ∧
      State.reset.part.supply.settle = some 0 := ⟨rfl, rfl, rfl⟩

/-- One end coupled, its debounce time running. -/
def debouncing (r : Role) : Part :=
  { base with form := { role := r, record := record2, coupledRaw := { a := true, b := false }, debounce := { a := some 2000, b := none }
                        cab := { a := false, b := true }, qualEnd := some .b } }
theorem witness_SensesStartAndEndTheDebounce :
    (debouncing .following).supply.mode = .run ∧ ((debouncing .following).form.debounce.get .a).isSome = true ∧
      qualifyingEnd (debouncing .leading).form ≠ none := by decide
theorem witness_SensesStartAndEndTheDebounce_loss :
    (fun f : Formation => f.role = .leading ∧ f.qualEnd = some .a ∧ (f.debounce.get .a).isSome = true ∧
      qualifyingEnd { f with coupled := f.coupled.set .a (f.coupledRaw.get .a) } = none)
      { role := .leading, qualEnd := some .a, cab := { a := true, b := false }, coupledRaw := { a := true, b := false }
        debounce := { a := some 500, b := none } } := ⟨rfl, rfl, rfl, by decide⟩
theorem witness_SensesStartAndEndTheDebounce_alone :
    (fun f : Formation => (f.debounce.get .a).isSome = true ∧ f.coupledRaw.a = false ∧ f.coupled.b = false)
      { role := .following, coupled := { a := true, b := false }, debounce := { a := some 500, b := none } } := ⟨rfl, rfl, rfl⟩

/-- A part that waits for ROLL. -/
def waiting : Part := { base with form := { role := .formingFollower, waiting := true, heardAnswers := 1 } }
/-- A part that forms as leader, some answers collected. -/
def calling (l : List RollAnswerFrame) : Part := { base with form := { role := .formingLeader, rollCall := some l, qualEnd := some .a } }
/-- An answer at a position. -/
def ans (p : Nat) : RollAnswerFrame := { position := p, unitId := p, booked := [], portion := 0, route := 0, front := .b }
theorem witness_ClaimsAndRollCallsTravelTheTrain :
    (debouncing .standalone).form.qualEnd = some .b ∧ (debouncing .standalone).form.role ≠ .leading ∧ waiting.form.waiting = true ∧
      waiting.form.role = .formingFollower := by decide
theorem witness_ARollCallClosesInAFormation :
    (calling []).form.rollCall = some [] ∧ (calling [ans 2]).form.rollCall = some [ans 2] ∧ (ans 2).position ≠ (ans 3).position ∧ (ans 2).position = (ans 2).position ∧
      slotAt { staff := [none, none, none, some (notice (some 9) none)] } .staff 3 = some (notice (some 9) none) ∧ (∀ u ∈ record2.units, u.unitId ≠ 9) ∧
      waiting.form.role = .formingFollower ∧ (∃ u ∈ record2.units, u.unitId = 7) ∧ (∀ u ∈ record2.units, u.unitId ≠ 0) := by decide

/-- A leader whose request window is open, unit 3 asking at level 3. -/
def leaderOpen : Part := { leader with form := { leader.form with windowOpen := true, responses := [(3, 3)] } }
theorem witness_TheLeaderRunsTheLineCycle :
    leader.supply.mode = .run ∧ leader.form.role = .leading ∧ leader.form.rollPending = false ∧ leader.form.qualEnd ≠ none ∧
      (∃ e ∈ leader.form.record.units.tail, e.unitId = 3) ∧ 3 ∉ leader.form.ended ∧ leaderOpen.form.windowOpen = true ∧
      leaderOpen.form.responses = [(3, 3)] ∧ (∃ e ∈ leaderOpen.form.record.units.tail, e.unitId = 3) ∧
      ((leaderOpen.unit.unitId, queueLevel leaderOpen.form.queue) ::
        leaderOpen.form.record.units.tail.map fun e => (e.unitId, (assocGet e.unitId leaderOpen.form.responses).getD 0))
        = [(7, 0), (3, 3)] := by decide
theorem witness_TheLeaderRunsTheLineCycle_call :
    (fun f : Formation => f.role = .leading ∧ f.rollPending = true ∧ f.qualEnd ≠ none ∧ f.grant = some 3)
      { leader.form with rollPending := true, grant := some 3 } := by decide
theorem witness_AFollowerTakesItsLeadersBeacon :
    follower.supply.mode = .run ∧ follower.form.role = .following ∧ leaderId follower.form.record = 3 ∧
      follower.form.record.epoch = 5 ∧ base.form.role = .standalone ∧
      (fun s : Part => s.form.role = .isolated ∧ 2 ≤ s.form.record.units.length ∧ leaderId s.form.record = 3)
        { follower with form := { follower.form with role := .isolated } } ∧
      (placeSnapshot follower.route.ownSeq { state := .departed, p := some 0, n := some 1, halt := none, d := some 200, arr := none, dep := some 34200, stale := false }).isSome = true ∧
      leaderId follower.form.record ≠ 8 ∧ waiting.form.role = .formingFollower := ⟨rfl, rfl, by decide, rfl, rfl, ⟨rfl, by decide, by decide⟩, by decide, by decide, rfl⟩
theorem witness_AFollowerTakesItsLeadersBeacon_alone :
    (fun s : Part => s.form.role = .isolated ∧ ¬ (3 = leaderId s.form.record ∧ 5 = s.form.record.epoch ∧ 2 ≤ s.form.record.units.length))
      { follower with form := { follower.form with role := .isolated, record := { record2 with units := record2.units.take 1, ownIndex := 1 } } } := by decide
theorem witness_TwoLeadersAreSettledByUnitId :
    leader.supply.mode = .run ∧ leader.form.role = .leading ∧ 7 ≤ leader.unit.unitId ∧ leader.unit.unitId < 8 ∧
      (calling []).form.role = .formingLeader ∧ (calling []).form.qualEnd ≠ none := by decide
theorem witness_AGrantedPartSendsItsItems :
    follower.supply.mode = .run ∧ follower.form.role = .following ∧ follower.form.heardCycle = some 65535 ∧
      (([forward []].find? fun y => y.tag == 9#8) = some (forward [])) := by decide

/-- A follower with an item of each kind and more than a turn takes. -/
def queued : Part :=
  { follower with form := { follower.form with
      queue := [.tally, .noticeAns 3 1 2 false, .noticeFwd 9#8, .formationReq, .noticeFwd 8#8], lastNumber := 255
      forwards := [forward [], { forward [] with tag := 8#8, noticeId := 2 }] } }
/-- A part that waits for ROLL keeps the record of its formation. -/
def waitingListed : Part := { follower with form := { follower.form with role := .formingFollower, ended := [3, 4] } }
theorem witness_AGrantedPartSendsItsItems_several :
    queued.supply.mode = .run ∧ queued.form.role = .following ∧ queued.form.heardCycle = some 65535 ∧ 4 < queued.form.queue.length := by decide
theorem witness_AGrantedPartSendsItsItems_waiting :
    waitingListed.form.role = .formingFollower ∧ leaderId waitingListed.form.record = 3 ∧ 3 ≠ waitingListed.unit.unitId ∧
      (fun f : Formation => f.role = .isolated ∧ leaderId f.record = 3) { follower.form with role := .isolated } := by decide

/-- A notice forwarded to unit 7. -/
def fwd (b : FwdBody) : NoticeFwdFrame := { origin := 3, noticeId := 65535, number := 255, epoch := 5, dests := [7], body := b }
/-- A text of one code. -/
def carried1 : List VariantText := [{ slot := 0, codes := [0x41#8] }]
theorem witness_ForwardedNoticesArePlacedAndAnswered :
    follower.form.role = .following ∧ (fwd .clear).epoch = follower.form.record.epoch ∧
      3 ∉ follower.form.ended ∧ follower.unit.unitId ∈ (fwd .clear).dests ∧ makeRemote [] follower.text = none ∧
      (makeRemote carried1 follower.text).map (·.1) = some 192 ∧ findNotice follower.panel (some 3) 65535 = none ∧
      findNotice { staff := [some (notice (some 3) none), none, none, none] } (some 3) 65535 = some (.staff, 0) := by decide
theorem witness_AnswersAndTimesEndForwards :
    follower.supply.mode = .run ∧ 3 ∉ follower.form.ended ∧
      ([forward [3]].find? fun e => e.number == some 255 && e.awaited.contains 3) = some (forward [3]) ∧
      ([3] : List Nat).erase 3 = [] ∧ ([3, 4] : List Nat).erase 3 ≠ [] ∧
      (([forward [3]].filter fun y => y.tag == 9#8) = [forward [3]]) ∧
      ([forward [3]].find? fun e => e.number == some 255) = some (forward [3]) ∧
      ([(255, 3), (0, 3)].foldl (fun l x => addLate l x) ((List.range 8).map fun n => (n, 3))) =
        [(1, 3), (2, 3), (3, 3), (4, 3), (5, 3), (6, 3), (7, 3), (255, 3)].tail ++ [(0, 3)] := by decide
theorem witness_TalliesAndTimesOfTheCouplerLine :
    follower.supply.mode = .run ∧ (∃ u ∈ otherUnits follower, u.unitId = 3) ∧
      tallyRecord { unitId := 3, epoch := 5, portion := 0, route := 1, coaches := [] } follower.form.record ≠ follower.form.record ∧
      tallyRecord { unitId := 3, epoch := 5, portion := 0, route := 318, coaches := [⟨1, 9, 0, 0⟩] } follower.form.record = follower.form.record ∧ 3 ∉ follower.form.ended ∧
      (fun f : Formation => f.spacing = true ∧ f.tallyPending = true) { spacing := true, tallyPending := true } ∧
      (fun f : Formation => f.role = .following ∧ f.beaconLoss = some 22) { role := .following, beaconLoss := some 22 } ∧
      (fun f : Formation => f.role = .leading ∧ ∃ x ∈ f.absence, x.1 = 3) { role := .leading, absence := [(3, 20)] } := ⟨rfl, by decide, by decide, by decide, by decide, ⟨rfl, rfl⟩, ⟨rfl, rfl⟩, rfl, by decide⟩
theorem witness_ATransferEndsInOneOfThreeWays :
    (sending 2).supply.mode = .run ∧ (sending 2).disp.inFlight = some (.transfer 255, ep0) ∧
      epAt (sending 2).disp ep0 = some { addr := ep0, content := 255, miss := 2 } ∧
      epAt (sending 1).disp ep0 = some { addr := ep0, content := 255, miss := 1 } := by decide
theorem witness_PollsAndProbesEnd :
    (operating .poll { addr := ep0, miss := 2 }).disp.inFlight = some (.poll, ep0) ∧
      (operating .probe absent0).disp.inFlight = some (.probe, ep0) ∧ epAt (operating .probe absent0).disp ep0 = some absent0 ∧
      sensorFitted (sending 0).unit 0 0 = true ∧
      (fun e : EpEntry => e.present = false ∧ e.probeTime = some 5 ∧ e.probeDue = false) { addr := ep0, present := false, probeTime := some 5 } ∧
      (fun e : EpEntry => e.present = false ∧ e.probeTime = some 0 ∧ e.probeDue = false) { addr := ep0, present := false, probeTime := some 0 } ∧
      (2 + 1 : Nat) = 3 := ⟨rfl, rfl, by decide, by decide, ⟨rfl, rfl, rfl⟩, ⟨rfl, rfl, rfl⟩, rfl⟩
/-- R121: the rows of its table at the thresholds 24 and 12 and the vacate hold 6. -/
theorem test_reading : (afterReading {} 24 { run := 1 }).occupied = true ∧ afterReading {} 24 {} = { run := 1, age := some 0 } ∧
    afterReading {} 23 { run := 1 } = { age := some 0 } ∧ (afterReading {} 12 { occupied := true, run := 6 }).occupied = false ∧
    afterReading {} 12 { occupied := true, run := 5 } = { occupied := true, run := 6, age := some 0 } ∧
    afterReading {} 13 { occupied := true, run := 6 } = { occupied := true, age := some 0 } := by decide
/-- Both kinds ready, and the mark at the last endpoint. -/
def rotating (op : LineOp) (last : Bool) (q p : List EpAddr) : Part :=
  { sending 0 with disp := {
      table := [{ addr := ep0, miss := 1 }, { addr := ⟨0, .seat, 1⟩ }, { absent0 with addr := ⟨0, .interior, 1⟩ }]
      queue := q, probes := p, mark := some ⟨0, .seat, 1⟩, lastTransfer := last, inFlight := some (op, ep0) } }
theorem witness_TheArbiterAlternatesAndPollsInRotation :
    ((rotating .poll false [ep0] []).disp.table.filter fun x => x.addr == ep0) = [{ addr := ep0, miss := 1 }] ∧
      (rotating .poll false [ep0] []).supply.mode = .run ∧ (rotating .poll false [ep0] []).disp.inFlight = some (.poll, ep0) ∧
      ((1 : Nat) < 2) ∧ (rotating (.transfer 0) true [] []).disp.inFlight = some (.transfer 0, ep0) ∧
      (operating .probe absent0).disp.inFlight = some (.probe, ep0) := by decide
theorem witness_TalliesAndTimesOfTheCouplerLine_entries :
    (3 : Nat) ≠ follower.unit.unitId ∧ (ownTallyEntries follower).map (·.position) = [2] ∧ 3 ∉ follower.form.ended := by decide
theorem witness_TimesOfSeatsAndPanelsAct :
    sensorAt (sending 0).seat 0 1 = some {} ∧ base.panel.brightness ≠ .dark ∧
      rotationAt { idleCtx := { inUse := true } } (.level .idle) = some { inUse := true } ∧
      slotAt { service := [none, none, none, some (notice none (some 0))] } .service 3 = some (notice none (some 0)) ∧
      State.reset.part.panel.stabling = some 600 := by decide
theorem witness_PositionsArePlacedOnTheCallingSequence :
    [0, 3].Pairwise (· < ·) ∧ 2 ≤ [0, 3].length ∧ (0 : Nat) ∈ [0, 3] ∧ (∀ y ∈ [0, 3], y ≤ 2 → y ≤ 0) ∧ 3 ∈ [0, 3] ∧
      (∀ y ∈ [0, 3], y ≤ 3) := by decide
theorem witness_TheClockAndTheBreakCountStayInRange_clock :
    ClockInRange (at0 { route := { clock := 172799 } }) := ⟨by decide, by decide⟩
theorem witness_TheClockAndTheBreakCountStayInRange_breaks :
    BreaksBounded (at0 { held with supply := { held.supply with breakCount := 5 } }) := by
  refine ⟨by decide, by decide, by decide, fun _ _ => by decide⟩
theorem witness_StoresStayWithinTheirBounds :
    WithinBounds (at0 busy3) := by unfold WithinBounds; decide
theorem witness_TheDisplayLineKeepsItsLaws : LineLaw (sending 0).disp := by
  refine ⟨by decide, by decide, fun a h => (by cases h), ?_, by decide, fun a h => (by cases h), ?_⟩
  · intro e h _ _
    obtain rfl := List.mem_singleton.mp h
    exact Or.inr (by decide)
  · exact ⟨⟨_, List.mem_singleton.mpr rfl, rfl, rfl⟩, by decide⟩
/-- A pool of which one entry holds block 0. -/
def pool : TextStore := { entries := [(1, text 0 0)], free := (List.range 1024).tail }
theorem witness_ThePoolKeepsItsBlocks : PoolLaw pool := by
  refine ⟨by unfold KeysRise; decide, List.Perm.of_eq ?_⟩
  decide +kernel
theorem witness_TheEstimateListIsRebuilt :
    Accepts (at0 (onWay running0)) 7#8 ∧ readTime [0x09#8, 0x31#8, 0#8, 0#8] = some ⟨0x09#8, 0x31#8, 0#8, 0⟩ ∧ ClockTime.ok ⟨0x09#8, 0x31#8, 0#8, 0⟩ = true ∧
      running0.p = some 0 ∧ ((onWay running0).route.ownSeq.filter fun i => decide (0 < i)) = [1, 2] ∧ standing0.state = .standing ∧
      ((onWay standing0).route.ownSeq.filter fun i => decide (1 < i)) = [2] := ⟨⟨rfl, by decide, by decide⟩, by decide, by decide, rfl, by decide, rfl, by decide⟩
theorem witness_TheEstimateListIsRebuilt_unset :
    (fun s : Part => s.route.clockSet = false ∧ s.route.prog.state = .standing ∧ s.route.prog.p = some 0)
      { onWay standing0 with route := { (onWay standing0).route with clockSet := false } } ∧
      (fun s : Part => s.route.clockSet = false ∧ s.route.prog.state = .halted ∧ s.route.prog.halt = some 1 ∧ s.route.prog.p = some 0)
      { skipping with route := { skipping.route with clockSet := false, prog := { running0 with state := .halted, halt := some 1 } } } := ⟨⟨rfl, rfl, rfl⟩, rfl, rfl, rfl, rfl⟩
theorem witness_AnArrivalRecomputesEverySeat :
    Accepts (at0 (onWay running0)) 7#8 ∧ readIndexTime [1#8, 0x09#8, 0x52#8, 0#8, 0#8] = some (1, ⟨0x09#8, 0x52#8, 0#8, 0⟩) ∧
      ClockTime.ok ⟨0x09#8, 0x52#8, 0#8, 0⟩ = true ∧ (onWay running0).route.prog.source = .own ∧ running0.p = some 0 ∧
      1 ∈ (onWay running0).route.ownSeq ∧ 1 < stops.length ∧ firstAfter [0, 1, 2] 1 = some 2 ∧ firstAfter [0, 1, 2] 2 = none ∧
      (seatAt (onWay running0).unit 0 1).isSome = true := ⟨⟨rfl, by decide, by decide⟩, by decide, by decide, rfl, rfl, by decide, by decide, by decide, by decide, by decide⟩
theorem witness_AnArrivalRecomputesEverySeat_legs :
    (leg0 .booked .ahead).active = true ∧ (leg0 .booked .ahead).frm ≤ 1 ∧ 1 < (leg0 .booked .ahead).till ∧
      ({ leg0 .booked .ahead with frm := 2 } : Leg).active = true ∧ [0, 1, 2].getLast? = some 2 := by decide
theorem witness_AnArrivalRebuildsTheTally :
    Accepts (at0 (onWay running0)) 7#8 ∧ readIndexTime [1#8, 0x09#8, 0x52#8, 0#8, 0#8] = some (1, ⟨0x09#8, 0x52#8, 0#8, 0⟩) ∧
      ClockTime.ok ⟨0x09#8, 0x52#8, 0#8, 0⟩ = true ∧ (onWay running0).route.prog.source = .own ∧ running0.p = some 0 ∧
      1 ∈ (onWay running0).route.ownSeq ∧ 1 < stops.length ∧ firstAfter [0, 1, 2] 1 = some 2 ∧ firstAfter [0, 1, 2] 2 = none ∧
      (onWay running0).seat.counts = [] ∧ otherUnits (onWay running0) = [] ∧ otherUnits follower ≠ [] ∧ LineItem.tally ∉ follower.form.queue := ⟨⟨rfl, by decide, by decide⟩, by decide, by decide, rfl, rfl, by decide, by decide, by decide, by decide, rfl, by decide, by decide, by decide⟩
theorem witness_EveryPanelShowsItsLevel :
    Accepts (at0 (onWay standing0)) 7#8 ∧ readConfigSet [10#8, 0#8, 1#8] = some (10, 1) ∧ 1 ≠ (onWay standing0).host.params.night ∧
      (onWay standing0).panel.brightness ≠ .dim ∧ (onWay running0).panel.standing = none ∧ ((onWay standing0).unit.coaches[0]?).isSome = true ∧
      ⟨0, .interior, 1⟩ ∈ coachEndpoints 0 (coach 1 2) := ⟨⟨rfl, by decide, by decide⟩, by decide, by decide, by decide, rfl, rfl, by decide⟩
theorem witness_DeadlinesAndPollsDecideTheLegs :
    (withLeg (leg0 .booked (.timed 34200))).route.clock = 34200 ∧ (operating .poll { addr := ep0 }).supply.mode = .run ∧
      (operating .poll { addr := ep0 }).disp.inFlight = some (.poll, ep0) ∧ ep0.kind = .seat ∧
      epAt (operating .poll { addr := ep0 }).disp ep0 = some { addr := ep0 } ∧ sensorFitted (operating .poll { addr := ep0 }).unit 0 0 = true ∧
      (leg0 .booked (.deferred 1)).state = .booked := by decide

/-- A reached deadline on fresh evidence of a vacant seat. -/
def vacant (count : Nat) : Part :=
  { withLeg (leg0 .booked (.timed 34200)) with
    res := { legs := [leg0 .booked (.timed 34200)], releaseCount := count }
    seat := { sensors := [[{ age := some 0 }, {}]] } }
/-- R112: the release count rises by one and stays at 65,535. -/
theorem test_release_count : (after (.claimDeadline 65535) (vacant 65534)).res.releaseCount = 65535 ∧
    (after (.claimDeadline 65535) (vacant 65535)).res.releaseCount = 65535 := by decide +kernel
theorem witness_DeadlinesAndPollsDecideTheLegs_counts :
    (leg0 .booked (.timed 34200)).state ≠ .released ∧ (34200 : Nat) ≤ (vacant 65535).route.clock ∧ (vacant 65535).supply.mode = .run ∧
      evidenceFresh (vacant 65535).seat 0 0 = true ∧ seatOccupied (vacant 65535).seat 0 0 = false ∧ (1 : Nat) ≤ 1 ∧
      (leg0 .booked (.deferred 1)).phase = .deferred 1 := by decide

theorem opened_untimed : ∀ l ∈ (withLeg (leg0 .booked .opened)).res.legs, ∀ d, l.phase = .timed d → 34200 < d := by
  intro l h d e
  have g : l = leg0 .booked .opened := by simpa [withLeg] using h
  subst g
  cases e
theorem witness_LegsFollowTheJourney :
    Accepts (at0 (withLeg (leg0 .booked .opened))) 7#8 ∧ readIndexTime [0#8, 0x09#8, 0x31#8, 0x10#8, 0#8] = some (0, ⟨0x09#8, 0x31#8, 0x10#8, 0⟩) ∧
      (withLeg (leg0 .booked .opened)).route.prog.state = .standing ∧ standing0.p = some 0 ∧
      (∀ l ∈ (withLeg (leg0 .booked .opened)).res.legs, ∀ d, l.phase = .timed d → 34200 < d) ∧
      firstAfter (onWay running0).route.ownSeq 1 ≠ none ∧ 1 ∉ skipping.route.ownSeq ∧ 1 ≤ skipping.route.ownSeq.getLast?.getD 0 := ⟨⟨rfl, by decide, by decide⟩, by decide, rfl, rfl, opened_untimed, by decide, by decide, by decide⟩

/-- The standing part as it is while its coaches have another tag. -/
def retagged (l : Leg) : Part := { withLeg l with unit := { (onWay standing0).unit with portionTag := 1 } }
theorem witness_LegsFollowTheJourney_tag :
    Accepts (at0 (retagged (leg0 .orphaned .done))) 7#8 ∧ (0#8).toNat ≠ (retagged (leg0 .orphaned .done)).unit.portionTag ∧
      placeAgain (callSeq stops 0) standing0 = some { state := .standing, p := 0, n := some 1, halt := none } ∧
      (callSeq stops 0).contains 0 = true ∧ (callSeq stops 0).contains 2 = true := ⟨⟨rfl, by decide, by decide⟩, by decide, by decide, by decide, by decide⟩
/-- Law of legs: one active leg over the whole journey. -/
theorem witness_LegsKeepTheirLaw : LegLaw (withLeg (leg0 .booked .opened)) := by
  unfold LegLaw
  decide
/-- Text handles 1 to 3 named by one stop each. -/
theorem witness_ReferenceCountsCountThePlaces : PortLaw (onWay standing0) ∧ RefLaw (onWay standing0) := by
  refine ⟨⟨by decide, by decide, by decide, by decide, by decide, by decide, by decide, by decide, by decide, by decide,
    by decide, fun t h => by cases h⟩, fun h => ?_⟩
  match h with
  | 0 => decide
  | 1 => decide
  | 2 => decide
  | 3 => decide
  | n + 4 =>
    have e : namedHandles (onWay standing0) = [1, 2, 3] := by decide
    have g : textAt (onWay standing0).text (n + 4) = none := by
      simp only [textAt, assocGet, onWay]
      simp
    rw [e, g]
    simp
/-- A request waiting with its forward, its item in the line queue, and a reply on its way. -/
def porting : Part :=
  { follower with
    form := { follower.form with forwards := [forward [3, 4]], queue := [.noticeFwd 9#8] }
    host := { inFlight := [⟨9#8, 0x17#8, .waiting⟩, ⟨1#8, 0x0D#8, .sending⟩], queue := [.reply 1#8 0x0D#8 .ok [], .event] } }
theorem witness_RequestsInFlightKeepTheirLaw : PortLaw porting := by
  refine ⟨by decide, by decide, by decide, by decide, by decide, by decide, by decide, by decide, by decide, by decide,
    by decide, fun t h => ?_⟩
  have e : t = 9#8 := by simpa [porting] using h
  exact ⟨forward [3, 4], by simp [porting], e ▸ rfl⟩
/-- A roll call with one answer, a tally of the last position, and a late answer. -/
theorem witness_TheFormationKeepsItsBounds :
    FormationBounds (at0 { calling [ans 2] with
      form := { (calling [ans 2]).form with trainTally := [⟨24, 99, 3, 0, 0, 5⟩], late := [(255, 3)] } }) := by
  refine ⟨by decide, by decide, by decide, by decide, ?_, by decide, by decide, by decide, by decide, by decide, by decide⟩
  intro l h
  obtain rfl := Option.some.inj h
  exact ⟨by decide, by decide⟩
theorem witness_AGainedEventIsReported :
    (onLine 0xC0#8 none).supply.mode = .run ∧ (onLine 0xC0#8 none).host.sending.isSome = true ∧ held.supply.mode ≠ .run ∧
      (after .mainBreak { base with supply := { mode := .run, qualifying := true } }).supply.mode ≠ .run ∧
      (∃ k < 14, (after (.clockTick) { base with route := { clock := 172799 } }).host.latched.getLsbD k = true) := by decide +kernel
/-! ### Small tests of commands; the expected results are read from the rules named -/
/-- The table of R63. -/
theorem test_delay_30 : delayMinutes 30 = 1 ∧ delayMinutes (-30) = -1 ∧ delayMinutes 29 = 0 := by decide +kernel
/-- R188: the register starts at 0xFFFF and there is no final inversion. -/
theorem test_crc_empty : crc16 [] = 0xFFFF#16 := by decide +kernel
/-- R188: the polynomial 0x1021 from 0xFFFF, on the digits 1 to 9 the value every table of that CRC gives. -/
theorem test_crc_check : crc16 [0x31#8, 0x32#8, 0x33#8, 0x34#8, 0x35#8, 0x36#8, 0x37#8, 0x38#8, 0x39#8] = 0x29B1#16 := by decide +kernel
/-- R38: 09:20:00 is 3600·9 + 60·20. -/
theorem test_time : (after (.time 7#8 [0x09#8, 0x20#8, 0x00#8, 0#8]) base).route.clock = 33600 := by decide +kernel
/-- R42. -/
theorem test_departed : (after (.departed 7#8 [0#8, 0x09#8, 0x31#8, 0x10#8, 0#8]) (onWay standing0)).route.prog.state = .departed := by decide +kernel
/-- R44: the last own calling stop ends the journey. -/
theorem test_arrived_last : (after (.arrived 7#8 [2#8, 0x10#8, 0x20#8, 0#8, 0#8]) (onWay running0)).route.prog.state = .terminated := by decide +kernel
/-- R43: d at most the approach distance 200. -/
theorem test_position : (after (.position 7#8 [0#8, 0#8, 0#8, 200#8]) (onWay running0)).route.prog.state = .approaching := by decide +kernel
/-- R14, R16: one block from the head. -/
theorem test_text_put : (after (.textPut 7#8 [1#8, 0#8, 1#8, 0x41#8]) base).text.free = [1, 2, 3] := by decide +kernel
/-- R19: a count above zero bars it. -/
theorem test_text_drop_in_use : (after (.textDrop 7#8 [1#8]) (onWay standing0)).text = (onWay standing0).text := by decide +kernel
/-- R98: standing at its from, with a sensor. -/
theorem test_leg_add : ((after (.legAdd 7#8 [0#8, 9#8, 0#8, 1#8, 0#8, 2#8, 0#8]) (onWay standing0)).res.legs.map (·.phase)) = [.opened] := by decide +kernel
/-- R178: the hold time starts at the default limit. -/
theorem test_hold_break : (after .mainBreak { base with supply := { mode := .run, qualifying := true } }).supply.hold = some 20 := by decide +kernel
/-- R178: the break at the limit. -/
theorem test_break_limit : (after .mainBreak { base with supply := { mode := .run, qualifying := true, breakCount := 6 } }).supply.lastOff = .limit := by decide +kernel
/-- R37: the clock does not advance at the top. -/
theorem test_tick_top : (after .clockTick { base with route := { clock := 172799 } }).route.clock = 172799 := by decide +kernel
/-- R163: the echoed version is shown. -/
theorem test_ack_wraps : ((after (.ack ep0 255) (sending 1)).disp.table.map (·.shown)) = [some 255] := by decide +kernel
/-- R163, R167: the third miss. -/
theorem test_third_miss : ((after .replyWindowExpiry (sending 2)).disp.table.map (·.present)) = [false] := by decide +kernel
/-- R71: one BEACON, then ROLL_CALL. -/
theorem test_claim : (after .claim (debouncing .standalone)).out.line.length = 2 := by decide +kernel
/-- R80: position 2 plus the answers heard. -/
theorem test_roll_sensed : (after (.rollSensed .a) waiting).out.line = [.rollAnswer { position := 3, unitId := 0, booked := [], portion := 0, route := 0, front := .a }] := by decide +kernel
/-- R79: the next epoch. -/
theorem test_silence : (after .rollAnswerSilence (calling [])).form.record.epoch = 1 := by decide +kernel
/-- R84. -/
theorem test_beacon_loss : (after .beaconLoss { follower with form := { follower.form with beaconLoss := some 22 } }).form.role = .isolated := by decide +kernel
/-- R192: the reply kind of a frame of unknown kind. -/
theorem test_reserved_kind : ((after (.unknownKindFrame 0x7F#8 7#8 []) base).host.sending.map (·.kind)) = some 0xFF#8 := by decide +kernel
/-- R89 and section 1.6 of the scope chapter: a set holds a member once. -/
theorem test_late_once : addLate [(255, 3), (0, 3)] (255, 3) = [(255, 3), (0, 3)] := by decide +kernel
/-- R189: in a frame 0xA5 is data. -/
theorem test_data_byte : (after (.frameStartByte []) onFrame).host.buffer = [0xA5#8, 0xA5#8] := by decide +kernel
/-- R76: the grant of unit 3 has ended, though unit 4 is granted since. -/
theorem test_ended_grant : frameTaken (after (.grant 3 4 65535) (after .releaseMark (after (.grant 3 3 65535) follower))) 3 5 = false := by decide +kernel
/-- R168: due at the same second, in address order. -/
theorem test_due_together : (after (.probeTimeExpiry ⟨0, .seat, 1⟩) { sending 0 with disp := { table := [{ absent0 with probeDue := false }, { absent0 with addr := ⟨0, .seat, 1⟩, probeDue := false }], inFlight := some (.transfer 255, ⟨1, .seat, 0⟩) } }).disp.probes = [ep0, ⟨0, .seat, 1⟩] := by decide +kernel
/-- R166: a poll was served last, so the transfer begins. -/
theorem test_turn_transfer : (after .replyWindowExpiry (rotating .poll false [⟨0, .seat, 1⟩] [])).disp.inFlight = some (.transfer 0, ⟨0, .seat, 1⟩) := by decide +kernel
/-- R164, R166: a transfer was served last; past the last PRESENT endpoint the rotation starts anew. -/
theorem test_turn_poll : (after (.ack ep0 0) (rotating (.transfer 0) true [⟨0, .seat, 1⟩] [])).disp.inFlight = some (.poll, ep0) := by decide +kernel
/-- R168: a probe due takes the poll turn. -/
theorem test_turn_probe : (after (.ack ep0 0) (rotating (.transfer 0) true [] [⟨0, .interior, 1⟩])).disp.inFlight = some (.probe, ⟨0, .interior, 1⟩) := by decide +kernel
/-- R189: the bytes after the start byte join the buffer, and 0xA5 among them is data. -/
theorem test_bytes_collected : (after (.frameStartByte [0#8, 2#8]) base).host.buffer = [0xA5#8, 0#8, 2#8] ∧ (after (.frameStartByte [7#8]) (after (.frameStartByte [0#8, 2#8]) base)).host.buffer = [0xA5#8, 0#8, 2#8, 0xA5#8, 7#8] := by decide +kernel
/-- R76: the next beacon ends a grant without RELEASE, the claim beacon too. -/
theorem test_claim_ends_grant : (after .claim { debouncing .standalone with form := { (debouncing .standalone).form with grant := some 3 } }).form.grant = none := by decide +kernel

/-- The leader approaches the second stop, where the train divides; the approach level shows its first divide page. -/
def dividing : Part :=
  { leader with
    route := { leader.route with stops := stops.map fun r => if r.name = 2 then { r with divide := true } else r
                                 prog := { running0 with state := .approaching, d := some 100 } }
    disp := { table := (coachEndpoints 0 (coach 1 2)).map fun a => { addr := a } } }
/-- The same part with its approach level shown, on the page after the first. -/
def dividingShown : Part :=
  { dividing with panel := {
      approachCtx := { pages := [.composed [] [], .composed [] []], index := 1, inUse := true }, coaches := [{ shown := .approach }] } }
/-- The lines of the interior panel, as last rendered. -/
def linesOf (s : Part) : List (List Byte) := ((epAt s.disp ⟨0, .interior, 1⟩).bind fun e => e.rendered.map (·.lines)).getD []
/-- R9, R141, R154: the divide page on show is rendered with the new number. -/
theorem test_divide_page_renumbered : (linesOf (after (.coachNumbers 7#8 [1#8, 5#8]) dividingShown))[1]? =
    some [0x63#8, 0x6f#8, 0x61#8, 0x63#8, 0x68#8, 0x65#8, 0x73#8, 0x20#8, 0x35#8, 0x2c#8, 0x20#8, 0x39#8] := by decide +kernel
/-- R76: a part that waits for a roll call hears its leader grant a unit anew, and takes its frames. -/
theorem test_granted_anew : frameTaken (after (.grant 3 4 0) waitingListed) 4 5 = true ∧ frameTaken (after (.grant 9 4 0) waitingListed) 4 5 = false := by decide +kernel

/-- A part that claims the lead of a train which unit 3 leads. -/
def claimant : Part := { waitingListed with form := { waitingListed.form with role := .formingLeader, rollCall := some [] } }
theorem witness_AGrantedPartSendsItsItems_leads :
    claimant.supply.mode = .run ∧ claimant.form.role = .formingLeader ∧ leaderId claimant.form.record = 3 ∧ 4 ∈ claimant.form.ended := by decide
/-- R73, R76: a claimant yields to the leader of its record and takes the frames of the unit that it granted. -/
theorem test_granted_while_claiming : (fun s : Part => frameTaken s 4 5 = true ∧ s.form.role = .formingFollower) (after (.grant 3 4 0) claimant) := by decide +kernel

/-- A running part with an exterior panel; the name of the last stop substitutes the next stop. -/
def outside : Part :=
  let p := onWay running0
  { p with
    unit := { unitId := 7, coaches := [{ coach 12 2 with exterior1 := true }] }
    text := { p.text with entries := [(1, text 4 1), (2, text 5 1), (3, { text 6 1 with v0 := { codes := [0x02#8], chain := [6] } })] }
    disp := { table := [{ addr := ⟨0, .exterior, 1⟩ }] } }
/-- Line 2 of the exterior panel, as last rendered. -/
def fieldOf (s : Part) : Option (List Byte) := (epAt s.disp ⟨0, .exterior, 1⟩).bind fun e => e.rendered.bind fun r => r.lines[1]?
/-- R23, R25, R155: a code is replaced, and a line beyond the first is discarded. -/
theorem test_exterior_codes : fieldOf (after (.textPut 7#8 [3#8, 0#8, 4#8, 0x5A#8, 0x01#8, 0x0A#8, 0x59#8]) outside) = some [0x5A#8, 0x31#8, 0x32#8] := by decide +kernel
/-- R16, R23: a changed text that the line substitutes raises the panel, another does not. -/
theorem test_exterior_uses : fieldOf (after (.textPut 7#8 [2#8, 0#8, 2#8, 0x59#8, 0x5A#8]) outside) = some [0x59#8, 0x5A#8] ∧ fieldOf (after (.textPut 7#8 [1#8, 0#8, 1#8, 0x59#8]) outside) = none := by decide +kernel

/-- A follower whose own entry was built from an old answer: its numbers, tag and route id are not the present ones. -/
def answeredLong : Part :=
  { follower with form := { follower.form with record := { record2 with units := record2.units.map fun u =>
      if u.unitId = 7 then { u with booked := [8], portion := 2, route := 99 } else u } } }
/-- The own entry of the formation record. -/
def ownOf (s : Part) : Option UnitEntry := s.form.record.units[1]?
/-- R9, R83: COACH-NUMBERS rewrites the numbers of the own entry alone. -/
theorem test_numbers_alone : (ownOf (after (.coachNumbers 7#8 [1#8, 5#8]) answeredLong)).map (fun u => (u.booked, u.portion, u.route)) = some ([5], 2, 99) := by decide +kernel
/-- R10, R83: PORTION-SET rewrites the tag of the own entry alone. -/
theorem test_tag_alone : (ownOf (after (.portionSet 7#8 [1#8]) { answeredLong with route := {} })).map (fun u => (u.booked, u.portion, u.route)) = some ([8], 1, 99) := by decide +kernel

/-- A follower between two other units without a description. -/
def betweenBare : Part :=
  let bare : UnitEntry := { unitId := 0, orientation := .forward, booked := [], portion := 0, route := 0 }
  { follower with form := { follower.form with record := { epoch := 5, units := bare :: record2.units.drop 1 ++ [bare], ownIndex := 2 } } }
/-- R86, section 1.6: an id that two other units carry is awaited once. -/
theorem test_equal_ids : (after (.noticeClear 7#8 [0#8, 1#8]) betweenBare).form.forwards.map (·.dests) = [[0]] := by decide +kernel
/-- R76, R86: level 3 first, oldest first, four items, a RELEASE; forward numbers follow 255 with 0. -/
theorem test_turn_order : (after (.grant 3 7 65535) queued).out.line.map (fun x => match x with
      | .noticeFwd f => f.number + 1000
      | .noticeAns _ => 2
      | .formationReq _ _ => 3
      | .release => 4
      | _ => 5) = [1000, 1001, 2, 3, 4] ∧ (after (.grant 3 7 65535) queued).form.queue = [.tally] := by decide +kernel
/-- R36: n changes, so d is absent and the state DEPARTED. -/
theorem test_amend_departs : (after (.stopAmend 7#8 [1#8, 1#8, 0#8, 0#8, 0#8, 0#8, 0#8, 0#8, 0#8, 0#8, 0#8]) (onWay { running0 with state := .approaching, d := some 5 })).route.prog = { running0 with n := some 2 } := by decide +kernel

end Sys2Proof.Tests
end

section
/-! Placing a position on the own calling sequence (R46): what the two searches over a rising sequence find, and what a
placing is once both have answered. -/
namespace Sys2Proof.Proofs.Placing
open Sys2Proof Sys2Proof.Machine

/-! ### The searches over a calling sequence -/

theorem firstAfter_eq_none_iff {c : List Nat} {x : Nat} : firstAfter c x = none ↔ ∀ y ∈ c, y ≤ x := by
  simp [firstAfter]

theorem lastUpTo_eq_none_iff {c : List Nat} {x : Nat} : lastUpTo c x = none ↔ ∀ y ∈ c, x < y := by
  simp [lastUpTo]

/-- On a rising sequence the first member found after an index is the least one above it: what stands before it is
not above the index, what stands behind it is greater. -/
theorem firstAfter_eq_some {c : List Nat} {x n : Nat} (hc : c.Pairwise (· < ·)) (hn : n ∈ c) (hxn : x < n)
    (hleast : ∀ y ∈ c, x < y → n ≤ y) : firstAfter c x = some n := by
  cases hfind : firstAfter c x with
  | none => exact absurd (firstAfter_eq_none_iff.mp hfind n hn) (by omega)
  | some m =>
    obtain ⟨hxm, before, behind, rfl, hbefore⟩ := List.find?_eq_some_iff_append.mp hfind
    have hnm : n ≤ m := hleast m (by simp) (by simpa using hxm)
    obtain ⟨-, htail, -⟩ := List.pairwise_append.mp hc
    obtain hn | hn := List.mem_append.mp hn
    · exact absurd (hbefore n hn) (by simpa using hxn)
    · obtain rfl | hn := List.mem_cons.mp hn
      · rfl
      · exact absurd (List.rel_of_pairwise_cons htail hn) (by omega)

/-- On a rising sequence the last member found up to an index is the greatest one at or below it. -/
theorem lastUpTo_eq_some {c : List Nat} {x q : Nat} (hc : c.Pairwise (· < ·)) (hq : q ∈ c) (hqx : q ≤ x)
    (hgreatest : ∀ y ∈ c, y ≤ x → y ≤ q) : lastUpTo c x = some q := by
  have hmem : q ∈ c.filter (· ≤ x) := by simp [hq, hqx]
  have hne : c.filter (· ≤ x) ≠ [] := List.ne_nil_of_mem hmem
  have hsorted : (c.filter (· ≤ x)).Pairwise (· ≤ ·) := (hc.imp Nat.le_of_lt).filter _
  have hle : q ≤ (c.filter (· ≤ x)).getLast hne := hsorted.rel_getLast hmem
  obtain ⟨hlast, hlastx⟩ := List.mem_filter.mp (List.getLast_mem hne)
  have hge := hgreatest _ hlast (by simpa using hlastx)
  rw [lastUpTo, List.getLast?_eq_some_getLast hne, le_antisymm hge hle]

/-- No stop lies between the last one up to `x` and `x` itself, so the search for the next stop finds the same from
either. -/
theorem firstAfter_of_no_stop_between {c : List Nat} {x q : Nat} (hqx : q ≤ x) (hgreatest : ∀ y ∈ c, y ≤ x → y ≤ q) :
    firstAfter c q = firstAfter c x := by
  refine List.find?_congr fun y hy => decide_eq_decide.mpr ⟨fun hqy => ?_, fun hxy => by omega⟩
  by_contra hxy
  exact absurd (hgreatest y hy (by omega)) (by omega)

/-! ### A placing, once the searches have answered -/

theorem placeStanding_eq_none {c : List Nat} {x : Nat} (h : c.length < 2 ∨ lastUpTo c x = none) :
    placeStanding c x = none := by
  obtain hshort | hlast := h
  · exact if_pos hshort
  · simp [placeStanding, hlast]

theorem placeLeft_eq_none {c : List Nat} {x : Nat} (h : c.length < 2 ∨ lastUpTo c x = none) :
    placeLeft c x = none := by
  obtain hshort | hlast := h
  · exact if_pos hshort
  · simp [placeLeft, hlast]

section
variable {c : List Nat} {x q : Nat} (hlen : 2 ≤ c.length) (hlast : lastUpTo c x = some q)
include hlen hlast

theorem placeStanding_terminated (hnext : firstAfter c x = none) :
    placeStanding c x = some { state := .terminated, p := q, n := none, halt := none } := by
  simp [placeStanding, Nat.not_lt.mpr hlen, hlast, hnext]

theorem placeStanding_before {n : Nat} (hnext : firstAfter c x = some n) :
    placeStanding c x = some (if q = x then { state := .standing, p := x, n := some n, halt := none }
                              else { state := .halted, p := q, n := some n, halt := some x }) := by
  simp only [placeStanding, Nat.not_lt.mpr hlen, hlast, hnext, if_false]
  exact (apply_ite some _ _ _).symm

theorem placeLeft_terminated (hnext : firstAfter c q = none) :
    placeLeft c x = some { state := .terminated, p := q, n := none, halt := none } := by
  simp [placeLeft, Nat.not_lt.mpr hlen, hlast, hnext]

theorem placeLeft_departed {n : Nat} (hnext : firstAfter c q = some n) :
    placeLeft c x = some { state := .departed, p := q, n := some n, halt := none } := by
  simp [placeLeft, Nat.not_lt.mpr hlen, hlast, hnext]

end

/-- Settles O45: a rising sequence fixes what both searches find, and the case of R46 follows from their answers. -/
theorem positionsArePlacedOnTheCallingSequence : Obligations.PositionsArePlacedOnTheCallingSequence := by
  intro c x hc
  refine ⟨fun h => ?unplaced, fun hlen q hq hqx hgreatest => ?placed⟩
  case unplaced =>
    have hnone : c.length < 2 ∨ lastUpTo c x = none := h.imp_right lastUpTo_eq_none_iff.mpr
    exact ⟨placeStanding_eq_none hnone, placeLeft_eq_none hnone⟩
  case placed =>
    have hlast : lastUpTo c x = some q := lastUpTo_eq_some hc hq hqx hgreatest
    have hsame : firstAfter c q = firstAfter c x := firstAfter_of_no_stop_between hqx hgreatest
    refine ⟨fun hend => ?terminated, fun n hn hxn hleast => ?before⟩
    case terminated =>
      have hnext : firstAfter c x = none := firstAfter_eq_none_iff.mpr hend
      exact ⟨placeStanding_terminated hlen hlast hnext, placeLeft_terminated hlen hlast (hsame.trans hnext)⟩
    case before =>
      have hnext : firstAfter c x = some n := firstAfter_eq_some hc hn hxn hleast
      exact ⟨placeStanding_before hlen hlast hnext, placeLeft_departed hlen hlast (hsame.trans hnext)⟩

end Sys2Proof.Proofs.Placing
end

section
/-! The minutes of an estimate entry (R63): the rounded delay as sign and magnitude, its symmetry and its
range. -/
namespace Sys2Proof.Proofs.Minutes
open Sys2Proof Sys2Proof.Machine

/-- The entry carries the delay it is built from. -/
@[simp] theorem estEntry_delay (stops : List StopRec) (threshold : Nat) (x : Nat × Int) :
    (estEntry stops threshold x).delay = some x.2 := rfl

/-- The minutes of an entry depend on its delay alone. -/
@[simp] theorem estEntry_minutes (stops : List StopRec) (threshold : Nat) (x : Nat × Int) :
    (estEntry stops threshold x).minutes = some (delayMinutes x.2) := rfl

/-- The formula of R63: the sign of the delay times its magnitude, rounded to the minute. -/
theorem delayMinutes_eq_sign_mul (d : Int) :
    delayMinutes d = (if d < 0 then -1 else 1) * ((|d| + 30) / 60) := by
  by_cases hneg : d < 0
  · rw [delayMinutes, if_pos hneg, if_pos hneg, abs_of_neg hneg, neg_one_mul]
  · rw [delayMinutes, if_neg hneg, if_neg hneg, abs_of_nonneg (not_lt.mp hneg), one_mul]

/-- The sign does not enter the magnitude of the minutes: halves round away from zero on both sides. -/
theorem abs_delayMinutes (d : Int) : |delayMinutes d| = (|d| + 30) / 60 := by
  have hmag : 0 ≤ (|d| + 30) / 60 := Int.ediv_nonneg (by positivity) (by decide)
  rw [delayMinutes_eq_sign_mul, abs_mul, abs_of_nonneg hmag]
  split <;> simp

/-- A delay within the saturation bound of R62 has minutes of at most three digits. -/
theorem abs_delayMinutes_le {d : Int} (hd : |d| ≤ 59940) : |delayMinutes d| ≤ 999 :=
  calc |delayMinutes d| = (|d| + 30) / 60 := abs_delayMinutes d
    _ ≤ (59940 + 30) / 60 := Int.ediv_le_ediv (by decide) (by omega)
    _ = 999 := by decide

/-- Settles O44: an entry's minutes are the rounded delay, whose sign and magnitude give the formula and the range; the
table of R63 is the rounding evaluated. -/
theorem minutesRoundHalvesAwayFromZero : Obligations.MinutesRoundHalvesAwayFromZero := by
  intro stops threshold j d
  refine ⟨estEntry_delay .., ?formula, fun hd m hm => ?range, ?table⟩
  case formula => rw [estEntry_minutes, delayMinutes_eq_sign_mul]
  case range =>
    obtain rfl : delayMinutes d = m := Option.some.inj hm
    exact abs_le.mp (abs_delayMinutes_le hd)
  case table =>
    simp only [estEntry_minutes]
    decide

end Sys2Proof.Proofs.Minutes
end

section
/-! CONFIG-GET (R202): the details of the parameters, the answer of an owner that changes nothing, and the cases of the
id. -/
namespace Sys2Proof.Proofs.ConfigGet
open Sys2Proof Sys2Proof.Machine

/-! ### Records of equal length, one after the other -/

/-- Where every record has `n` entries, the `n` entries from place `n * k` are the record of the element at place `k`. -/
theorem take_drop_flatten_map {α β : Type} {f : α → List β} {n : Nat} (hf : ∀ x, (f x).length = n) {l : List α} {k : Nat}
    {x : α} (hx : l[k]? = some x) : ((l.map f).flatten.drop (n * k)).take n = f x := by
  induction l generalizing k with
  | nil => simp at hx
  | cons y l ih =>
    cases k with
    | zero =>
      obtain rfl : y = x := by simpa using hx
      simp [← hf y]
    | succ k =>
      have hskip : n * (k + 1) = (f y).length + n * k := by rw [hf y, Nat.mul_succ, Nat.add_comm]
      rw [List.map_cons, List.flatten_cons, hskip, List.drop_length_add_append]
      exact ih (by simpa using hx)

/-! ### The details of the parameters -/

/-- Every id of 1..15 has a value in force (section 11.7). -/
theorem params_get_eq_some (q : Params) {id : Nat} (hlow : 1 ≤ id) (hhigh : id ≤ 15) : ∃ v, q.get id = some v := by
  interval_cases id <;> exact ⟨_, rfl⟩

@[simp] theorem length_paramDetail (q : Params) (id : Nat) : (paramDetail q id).length = 3 := rfl

theorem paramDetail_of_get {q : Params} {id v : Nat} (hv : q.get id = some v) :
    paramDetail q id = [byte id, byte (v / 256), byte v] := by
  rw [paramDetail, hv]
  rfl

/-- The detail of all fifteen parameters, in the order of their ids (R202). -/
def allParams (q : Params) : List Byte := ((List.range 15).map fun i => paramDetail q (i + 1)).flatten

theorem length_allParams (q : Params) : (allParams q).length = 45 := by
  simp [allParams, List.length_flatten, Function.comp_def]

theorem take_drop_allParams (q : Params) {k : Nat} (hk : k < 15) :
    ((allParams q).drop (3 * k)).take 3 = paramDetail q (k + 1) :=
  take_drop_flatten_map (fun _ => length_paramDetail ..) (by simp [hk])

/-! ### The owner, by the id -/

theorem ownConfigGet_zero (s : Part) : ownConfigGet 0 s = takenWith (allParams s.host.params) s := rfl

theorem ownConfigGet_of_le {id : Nat} (hlow : 1 ≤ id) (hhigh : id ≤ 15) (s : Part) :
    ownConfigGet id s = takenWith (paramDetail s.host.params id) s := by
  rw [ownConfigGet, if_neg (by omega), if_pos hhigh]

theorem ownConfigGet_of_gt {id : Nat} (h : 15 < id) (s : Part) : ownConfigGet id s = refused .badField s := by
  rw [ownConfigGet, if_neg (by omega), if_neg (by omega)]

/-! ### From the owner to the step -/

theorem exec_configGet (tag id : Byte) (s : State) :
    exec (.configGet tag [id]) s =
      .next { s with part := finish (hostRequest 0x02#8 tag (some id.toNat) ownConfigGet (quiet s.part)) } := rfl

/-- The part as the request stage hands it to the owner of a request: the frame received, its entry made (R189, R191). -/
def handed (kind tag : Byte) (s : Part) : Part :=
  onHost (fun h => { h with inFlight := h.inFlight ++ [{ tag := tag, kind := kind, phase := .handed }] })
    (frameEnd (quiet s))

@[simp] theorem handed_params (kind tag : Byte) (s : Part) : (handed kind tag s).host.params = s.host.params := rfl

/-- The owner sees the parameters in force, for the request stage writes none: an answer that it gives by them alone,
changing nothing, is the step's answer. -/
theorem answered_of_ownConfigGet {s : State} {tag : Byte} {id : Nat} {r : Result} {d : List Byte} (h : Accepts s tag)
    (howner : ∀ x : Part, x.host.params = s.part.host.params → ownConfigGet id x = (x, .now r d)) :
    Answered s { s with part := finish (hostRequest 0x02#8 tag (some id) ownConfigGet (quiet s.part)) } 0x02#8 tag r d := by
  rw [hostRequest_accepts h]
  have hanswer := howner (handed 0x02#8 tag s.part) (handed_params ..)
  exact handRequest_answered h (by decide) rfl (congrArg Prod.snd hanswer) (congrArg (·.1.host.inFlight) hanswer)

/-- Settles O5: the id chooses the owner's case, the owner changes nothing, and its answer is the step's. -/
theorem configGetReportsTheValueInForce : Obligations.ConfigGetReportsTheValueInForce := by
  intro s tag id h
  refine ⟨_, exec_configGet tag id s, (hostRequest_keeps fun _ _ => ownConfigGet_keeps).only, fun hlow hhigh => ?one,
    fun hzero => ?all, fun hgt => ?unknown⟩
  case one =>
    obtain ⟨v, hv⟩ := params_get_eq_some s.part.host.params hlow hhigh
    have hdetail : paramDetail s.part.host.params id.toNat = [id, byte (v / 256), byte v] := by
      rw [paramDetail_of_get hv, byte, BitVec.ofNat_toNat, BitVec.setWidth_eq]
    refine ⟨v, hv, answered_of_ownConfigGet h fun x hx => ?_⟩
    rw [ownConfigGet_of_le hlow hhigh, hx, hdetail, takenWith]
  case all =>
    subst hzero
    refine ⟨allParams s.part.host.params, length_allParams _, answered_of_ownConfigGet h fun x hx => ?_, fun k hk => ?_⟩
    · rw [← hx]
      exact ownConfigGet_zero x
    · obtain ⟨v, hv⟩ := params_get_eq_some s.part.host.params (Nat.le_add_left 1 k) hk
      exact ⟨v, hv, (take_drop_allParams _ hk).trans (paramDetail_of_get hv)⟩
  case unknown => exact answered_of_ownConfigGet h fun x _ => ownConfigGet_of_gt hgt x

end Sys2Proof.Proofs.ConfigGet
end

section
/-! Every command has one effect on the part: the command as a function of the part, and what
follows for every step. -/
namespace Sys2Proof.Proofs.Effects
open Sys2Proof Sys2Proof.Machine

/-- What a command does to the part, between the quiet of its beginning and the lines that begin to send at its end. -/
def effect : Instr → Part → Part
  | .configSet tag body => hostRequest 0x01#8 tag (readConfigSet body) ownConfigSet
  | .configGet tag body => hostRequest 0x02#8 tag (readOne body) ownConfigGet
  | .unitSetup tag body => hostRequest 0x03#8 tag (readUnitSetup body) ownUnitSetup
  | .coachNumbers tag body => hostRequest 0x04#8 tag (readList body) ownCoachNumbers
  | .portionSet tag body => hostRequest 0x05#8 tag (readOne body) ownPortionSet
  | .textPut tag body => hostRequest 0x06#8 tag (readTextPut body) ownTextPut
  | .textDrop tag body => hostRequest 0x07#8 tag (readOne body) ownTextDrop
  | .routeOpen tag body => hostRequest 0x08#8 tag (readRouteOpen body) ownRouteOpen
  | .stopPut tag body => hostRequest 0x09#8 tag (readStopPut body) ownStopPut
  | .routeClose tag body => hostRequest 0x0A#8 tag (readNone body) ownRouteClose
  | .routeClear tag body => hostRequest 0x0B#8 tag (readNone body) ownRouteClear
  | .stopAmend tag body => hostRequest 0x0C#8 tag (readStopAmend body) ownStopAmend
  | .time tag body => hostRequest 0x0D#8 tag (readTime body) ownTime
  | .departed tag body => hostRequest 0x0E#8 tag (readIndexTime body) ownDeparted
  | .arrived tag body => hostRequest 0x0F#8 tag (readIndexTime body) ownArrived
  | .position tag body => hostRequest 0x10#8 tag (readPosition body) ownPositionReport
  | .legAdd tag body => hostRequest 0x11#8 tag (readLegAdd body) ownLegAdd
  | .legCancel tag body => hostRequest 0x12#8 tag (readTwo body) ownLegCancel
  | .legRestore tag body => hostRequest 0x13#8 tag (readTwo body) ownLegRestore
  | .seatQuery tag body => hostRequest 0x14#8 tag (readPair body) ownSeatQuery
  | .tallyQuery tag body => hostRequest 0x15#8 tag (readNone body) ownTallyQuery
  | .noticeRaise tag body => hostRequest 0x16#8 tag (readNoticeRaise body) (ownNoticeRaise tag)
  | .noticeClear tag body => hostRequest 0x17#8 tag (readTwo body) (ownNoticeClear tag)
  | .levelQuery tag body => hostRequest 0x18#8 tag (readNone body) ownLevelQuery
  | .statusQuery tag body => hostRequest 0x19#8 tag (readNone body) ownStatusQuery
  | .endpointQuery tag body => hostRequest 0x1A#8 tag (readEndpointQuery body) ownEndpointQuery
  | .eventClear tag body => hostRequest 0x1B#8 tag (readTwo body) ownEventClear
  | .restart tag body => hostRequest 0x1C#8 tag (readNone body) ownRestart
  | .unknownKindFrame kind tag _ => unknownKind kind tag
  | .frameGapTimeout => dropFrame
  | .frameSent => frameSent
  | .mainLevelFall mv => onSupply (levelFalls mv)
  | .mainLevelRise mv => onSupply (levelRises mv)
  | .mainBreak => mainBreak
  | .mainReturn mv => mainReturn mv
  | .retentionLow => retentionFails
  | .retentionOk => retentionRecovers
  | .holdTimeExpiry => holdExpires
  | .extendedHoldExpiry => extendedExpires
  | .clearingEnd => clearingEnds
  | .resetAssert => assertReset
  | .resetRelease => releaseReset
  | .settleLimitReached => settled
  | .clockTick => clockTick
  | .claimDeadline i => claimDeadline i
  | .coupledSenseChange e c => senseChanges e c
  | .couplingEvent e => couplingEvent e
  | .cabActiveChange e a => cabChanges e a
  | .rollSensed e => inRun (rollSensed e)
  | .claim => inRun claimLead
  | .lineCycle => inRun lineCycle
  | .requestWindowEnd => inRun windowEnds
  | .beacon f => inRun (hearBeacon f)
  | .windowResponse u c l => inRun (hearResponse u c l)
  | .openSlotMark => inRun hearMark
  | .grant l u c => inRun (hearGrant l u c)
  | .releaseMark => inRun (onForm endGrant)
  | .rollCall u _ => inRun (hearRollCall u)
  | .rollAnswer f => inRun (hearAnswer f)
  | .rollAnswerSilence => inRun rollSilence
  | .formation l e us => inRun (hearFormation l e us)
  | .formationReq u e => inRun (hearFormationReq u e)
  | .noticeFwd f => inRun (hearNoticeFwd f)
  | .noticeAns f => inRun (hearNoticeAns f)
  | .tally f => inRun (hearTally f)
  | .beaconLoss => inRun lossExpires
  | .absenceTimeExpiry u => inRun (absenceExpires u)
  | .answerTimeExpiry n => inRun (answerExpires n)
  | .spacingTimeExpiry => inRun spacingExpires
  | .lineQueueWithdrawal => inRun withdraw
  | .ack a v => inRun (ackArrives a v)
  | .pollReply a h x => inRun (replyArrives a h x)
  | .replyWindowExpiry => inRun windowExpired
  | .probeTimeExpiry a => inRun (probeFallsDue a)
  | .evidenceAgeExpiry c p => evidenceExpires c p
  | .dwellExpiry x => dwellEnds x
  | .noticeExpiry l i => noticeExpires l i
  | .stablingExpiry => stablingEnds
  | .frameStartByte rest => beginFrame rest
  | .frameLengthError n => lengthError n
  | .frameCrcError kind tag body crc => crcError kind tag body crc

/-- The part after a command: its effect on the quiet part, and then the lines that are free begin to send. -/
def after (c : Instr) (x : Part) : Part := finish (effect c (quiet x))

/-- Every command is carried out, and it leaves the queue of waiting commands alone. -/
theorem exec_eq (c : Instr) (s : State) : exec c s = .next { s with part := after c s.part } := by
  cases c <;> rfl

/-- What a step can do: nothing with no command waiting, and else what the front command does. -/
theorem step_cases {s t : State} (h : step s = .next t) :
    t = s ∨ ∃ c rest, s.pending = c :: rest ∧ t = { part := after c s.part, pending := rest } := by
  unfold step at h
  split at h
  · cases h
    exact Or.inl rfl
  · rename_i c rest hp
    rw [exec_eq] at h
    cases h
    exact Or.inr ⟨c, rest, hp, rfl⟩

/-- An invariant of the part that no command breaks is kept by every step. -/
theorem step_preserves {I : Part → Prop} (hafter : ∀ c x, I x → I (after c x)) {s t : State} (hs : I s.part)
    (h : step s = .next t) : I t.part := by
  obtain rfl | ⟨c, rest, -, rfl⟩ := step_cases h
  · exact hs
  · exact hafter c _ hs

/-- Settles O1: the front command is the one a step takes off the queue. -/
theorem stepCarriesOutTheFrontCommand : Obligations.StepCarriesOutTheFrontCommand :=
  fun _ _ => rfl

/-- Settles O2: every command is an effect on the part alone. -/
theorem everyCommandIsCarriedOut : Obligations.EveryCommandIsCarriedOut :=
  fun c s => ⟨_, exec_eq c s, rfl⟩

/-- Settles O3: the state right after reset, field by field, and the end of the clearing evaluated on the cold part. -/
theorem resetHoldsTheStartValues : Obligations.ResetHoldsTheStartValues := by
  refine ⟨rfl, rfl, ?_, rfl, ?_, ?_, rfl, ?_, ?_, ?_, rfl, ?_⟩
  case refine_1 => exact ⟨rfl, rfl, rfl, rfl, rfl⟩
  case refine_2 => exact ⟨rfl, by simp [State.reset, Part.afterColdStart, Config.textBlocks]⟩
  case refine_3 => exact ⟨rfl, rfl, rfl, rfl, rfl, rfl, rfl, rfl⟩
  case refine_4 => exact ⟨rfl, rfl, rfl, rfl, rfl, rfl, rfl, rfl, rfl, rfl, rfl, rfl⟩
  case refine_5 => exact ⟨rfl, rfl, rfl⟩
  case refine_6 => exact ⟨rfl, rfl, rfl, rfl, rfl, rfl⟩
  case refine_7 => exact ⟨rfl, rfl, rfl, rfl, rfl⟩

/-- The pool right after reset: no chain holds a block, and the free list holds them all. -/
theorem poolLaw_reset : PoolLaw State.reset.part.text := by
  refine ⟨by simp [KeysRise, State.reset, Part.afterColdStart], ?_⟩
  simp [heldBlocks, State.reset, Part.afterColdStart, Config.textBlocks]

/-- No place names a handle right after reset, and no entry has a count. -/
theorem refLaw_reset : RefLaw State.reset.part := fun _ => rfl

theorem lineLaw_reset : LineLaw State.reset.part.disp := by
  simp [LineLaw, State.reset, Part.afterColdStart]

theorem formationBounds_reset : FormationBounds State.reset := by
  simp [FormationBounds, State.reset, Part.afterColdStart]

theorem portLaw_reset : PortLaw State.reset.part := by
  simp [PortLaw, replyTags, State.reset, Part.afterColdStart]

theorem legLaw_reset : LegLaw State.reset.part := by
  simp [LegLaw, State.reset, Part.afterColdStart]

/-- Settles O60: right after reset every store is empty, and each law holds of empty stores. -/
theorem resetKeepsEveryInvariant : Obligations.ResetKeepsEveryInvariant := by
  refine ⟨⟨by decide, by simp [State.reset]⟩, ?_, ?_, poolLaw_reset, lineLaw_reset, formationBounds_reset, portLaw_reset,
    legLaw_reset, refLaw_reset⟩
  · simp [BreaksBounded, Holding, State.reset, Part.afterColdStart]
  · simp [WithinBounds, State.reset, Part.afterColdStart]

end Sys2Proof.Proofs.Effects
end

section
/-! The Text Store's two laws: what each of its operations does to the blocks of the pool and to the reference counts
(R14 to R21). -/
namespace Sys2Proof.Proofs.Texts
open Sys2Proof Sys2Proof.Machine

/-! ### The blocks of an association list of entries -/

/-- The blocks that the chains of some entries hold. -/
def held (l : List (Nat × TextEntry)) : List Nat := (l.map fun e => e.2.blocks).flatten

/-- The blocks of an entry that may be absent. -/
def blocksOf (e : Option TextEntry) : List Nat := (e.map (·.blocks)).getD []

theorem poolLaw_iff (t : TextStore) :
    PoolLaw t ↔ KeysRise t.entries ∧ ∀ b, (held t.entries).count b + t.free.count b = (List.range 1024).count b := by
  simp only [PoolLaw, List.perm_iff_count, List.count_append, heldBlocks, held]

theorem assocGet_eq_none_of_lt {α : Type} {k : Nat} {l : List (Nat × α)} (h : ∀ i ∈ l.map (·.1), k < i) :
    assocGet k l = none := by
  induction l with
  | nil => rfl
  | cons x t ih =>
    obtain ⟨j, v⟩ := x
    have hj : k < j := h j (by simp)
    rw [assocGet, if_neg (by omega)]
    exact ih fun i hi => h i (by simp_all)

theorem keysRise_cons {α : Type} {x : Nat × α} {l : List (Nat × α)} (h : KeysRise (x :: l)) :
    (∀ i ∈ l.map (·.1), x.1 < i) ∧ KeysRise l := List.pairwise_cons.mp h

/-- Writing an entry exchanges the blocks of the one it replaces for its own. -/
theorem count_held_assocSet {l : List (Nat × TextEntry)} (hl : KeysRise l) (h : Nat) (e : TextEntry) (b : Nat) :
    (held (assocSet h e l)).count b + (blocksOf (assocGet h l)).count b = e.blocks.count b + (held l).count b := by
  induction l with
  | nil => simp [held, assocSet, assocGet, blocksOf]
  | cons x t ih =>
    obtain ⟨j, w⟩ := x
    obtain ⟨hfirst, hrest⟩ := keysRise_cons hl
    unfold assocSet
    split
    · rename_i hlt
      have hnone : assocGet h ((j, w) :: t) = none := assocGet_eq_none_of_lt fun i hi => by
        obtain rfl | hi := List.mem_cons.mp hi
        · exact hlt
        · exact hlt.trans (hfirst i hi)
      simp [hnone, held, blocksOf]
    · split
      · rename_i heq
        simp [held, assocGet, heq, blocksOf]
        omega
      · rename_i hne
        have := ih hrest
        simp only [held, List.map_cons, List.flatten_cons, List.count_append, assocGet, if_neg hne] at this ⊢
        omega

/-- Erasing a handle takes the blocks of its entry. -/
theorem count_held_assocErase {l : List (Nat × TextEntry)} (hl : KeysRise l) (h b : Nat) :
    (held (assocErase h l)).count b + (blocksOf (assocGet h l)).count b = (held l).count b := by
  induction l with
  | nil => simp [held, assocErase, assocGet, blocksOf]
  | cons x t ih =>
    obtain ⟨j, w⟩ := x
    obtain ⟨hfirst, hrest⟩ := keysRise_cons hl
    have := ih hrest
    by_cases heq : j = h
    · subst heq
      have hnone : assocGet j t = none := assocGet_eq_none_of_lt hfirst
      simp only [assocErase, held, hnone, blocksOf] at this
      simp [assocErase, held, assocGet, blocksOf]
      simpa [add_comm] using this
    · simp only [assocErase, held] at this
      simp only [assocErase, held, List.filter_cons, bne_iff_ne, ne_eq, heq, not_false_eq_true, if_true, List.map_cons,
        List.flatten_cons, List.count_append, assocGet, if_false]
      omega

/-! ### The operations of the store and the pool -/

/-- An operation keeps the law of the pool where it exchanges blocks between the chains and the free list. -/
theorem PoolLaw.exchange {t u : TextStore} (ht : PoolLaw t) (hkeys : KeysRise u.entries)
    (hcount : ∀ b, (held u.entries).count b + u.free.count b = (held t.entries).count b + t.free.count b) : PoolLaw u :=
  (poolLaw_iff u).mpr ⟨hkeys, fun b => (hcount b).trans (((poolLaw_iff t).mp ht).2 b)⟩

theorem count_take_add_drop (k : Nat) (l : List Nat) (b : Nat) : (l.take k).count b + (l.drop k).count b = l.count b := by
  rw [← List.count_append, List.take_append_drop]

/-- A slot's variant exchanged: its new chain for its old one. -/
theorem count_blocks_setVariant (e : TextEntry) {slot : Nat} (hslot : slot ≤ 2) (v : Variant) (b : Nat) :
    (e.setVariant slot v).blocks.count b + (e.chain slot).count b = v.chain.count b + e.blocks.count b := by
  obtain rfl | rfl | rfl : slot = 0 ∨ slot = 1 ∨ slot = 2 := by omega
  all_goals
    simp [TextEntry.setVariant, TextEntry.blocks, TextEntry.chain, TextEntry.variant]
    omega

theorem putVariant_pool {h slot : Nat} {codes : List Byte} {t : TextStore} (hslot : slot ≤ 2) (ht : PoolLaw t) :
    PoolLaw (putVariant h slot codes t) := by
  have hkeys := ht.1
  unfold putVariant
  dsimp only
  have hfree := fun b => count_take_add_drop (blocksNeeded codes.length) t.free b
  split
  · rename_i e he
    refine PoolLaw.exchange ht (hkeys.assocSet ..) fun b => ?_
    have hset := count_held_assocSet hkeys h (e.setVariant slot ⟨codes, t.free.take (blocksNeeded codes.length)⟩) b
    have hvar := count_blocks_setVariant e hslot ⟨codes, t.free.take (blocksNeeded codes.length)⟩ b
    have := hfree b
    simp only [textAt] at he
    simp only [he, blocksOf, Option.map_some, Option.getD_some] at hset
    simp only [List.count_append] at hvar ⊢
    omega
  · rename_i he
    refine PoolLaw.exchange ht (hkeys.assocSet ..) fun b => ?_
    have hset := count_held_assocSet hkeys h
      ⟨⟨codes, t.free.take (blocksNeeded codes.length)⟩, none, none, 0⟩ b
    have := hfree b
    simp only [textAt] at he
    simp [he, blocksOf, TextEntry.blocks, TextEntry.chain, TextEntry.variant] at hset ⊢
    omega

theorem dropEntry_pool {h : Nat} {t : TextStore} (ht : PoolLaw t) : PoolLaw (dropEntry h t) := by
  unfold dropEntry
  split
  · rename_i e he
    refine PoolLaw.exchange ht (ht.1.assocErase h) fun b => ?_
    have := count_held_assocErase ht.1 h b
    simp only [textAt] at he
    simp only [he, blocksOf, Option.map_some, Option.getD_some] at this
    simp only [List.count_append]
    omega
  · exact ht

/-- A count rewritten keeps every chain. -/
theorem recount_pool {h n : Nat} {e : TextEntry} {t : TextStore} (he : textAt t h = some e) (ht : PoolLaw t) :
    PoolLaw { t with entries := assocSet h { e with refs := n } t.entries } := by
  refine PoolLaw.exchange ht (ht.1.assocSet ..) fun b => ?_
  have := count_held_assocSet ht.1 h { e with refs := n } b
  simp only [textAt] at he
  simp only [he, blocksOf, Option.map_some, Option.getD_some] at this
  have hsame : ({ e with refs := n } : TextEntry).blocks = e.blocks := rfl
  rw [hsame] at this
  show (held (assocSet h { e with refs := n } t.entries)).count b + t.free.count b = _
  omega

theorem retain_pool {h : Nat} {t : TextStore} (ht : PoolLaw t) : PoolLaw (retain h t) := by
  unfold retain
  split
  · rename_i e he
    exact recount_pool he ht
  · exact ht

theorem release_pool {h : Nat} {t : TextStore} (ht : PoolLaw t) : PoolLaw (release h t) := by
  unfold release
  split
  · rename_i e he
    dsimp only
    split
    · exact dropEntry_pool (recount_pool he ht)
    · exact recount_pool he ht
  · exact ht

theorem retainAll_pool {hs : List Nat} {t : TextStore} (ht : PoolLaw t) : PoolLaw (retainAll hs t) := by
  induction hs generalizing t with
  | nil => exact ht
  | cons h hs ih => exact ih (retain_pool ht)

theorem releaseAll_pool {hs : List Nat} {t : TextStore} (ht : PoolLaw t) : PoolLaw (releaseAll hs t) := by
  induction hs generalizing t with
  | nil => exact ht
  | cons h hs ih => exact ih (release_pool ht)

theorem textAt_freeRemote {t : TextStore} {h : Nat} (hfree : freeRemote t = some h) : textAt t h = none := by
  unfold freeRemote at hfree
  obtain ⟨i, -, hi⟩ := List.exists_of_findSome?_eq_some hfree
  split at hi
  · simp at hi
  · rename_i hk
    obtain rfl : 192 + i = h := by simpa using hi
    simpa [textKnown] using hk

theorem count_takeVariant (codes : Option (List Byte)) (free : List Nat) (b : Nat) :
    (((takeVariant codes free).1.map (·.chain)).getD []).count b + (takeVariant codes free).2.count b = free.count b := by
  cases codes with
  | none => simp [takeVariant]
  | some cs => exact count_take_add_drop ..

/-- What a remote entry made is: a free handle's, without a count, its chains off the head of the free list. -/
theorem makeRemote_some {vs : List VariantText} {t u : TextStore} {h : Nat} (hm : makeRemote vs t = some (h, u)) :
    textAt t h = none ∧ ∃ e, e.refs = 0 ∧ u.entries = assocSet h e t.entries ∧
      ∀ b, e.blocks.count b + u.free.count b = t.free.count b := by
  unfold makeRemote at hm
  split at hm
  · split at hm
    · rename_i h' c0 hfree _
      split at hm
      · obtain ⟨rfl, rfl⟩ : h' = h ∧ _ = u := by simpa using hm
        refine ⟨textAt_freeRemote hfree, _, rfl, rfl, fun b => ?_⟩
        have h0 := count_take_add_drop (blocksNeeded c0.length) t.free b
        have h1 := count_takeVariant (carried vs 1) (t.free.drop (blocksNeeded c0.length)) b
        have h2 := count_takeVariant (carried vs 2)
          (takeVariant (carried vs 1) (t.free.drop (blocksNeeded c0.length))).2 b
        simp only [TextEntry.blocks, TextEntry.chain, TextEntry.variant, Option.map_some, Option.getD_some,
          List.count_append]
        omega
      · simp at hm
    · simp at hm
  · simp at hm

theorem makeRemote_pool {vs : List VariantText} {t u : TextStore} {h : Nat} (hm : makeRemote vs t = some (h, u))
    (ht : PoolLaw t) : PoolLaw u := by
  obtain ⟨hnone, e, -, hentries, hcount⟩ := makeRemote_some hm
  refine PoolLaw.exchange ht (hentries ▸ ht.1.assocSet ..) fun b => ?_
  have hset := count_held_assocSet ht.1 h e b
  have := hcount b
  simp only [textAt] at hnone
  simp only [hnone, blocksOf, Option.map_none, Option.getD_none, List.count_nil] at hset
  rw [hentries]
  omega

/-! ### The operations of the store and the reference counts -/

theorem refCount_eq (t : TextStore) (h : Nat) : refCount t h = ((assocGet h t.entries).map (·.refs)).getD 0 := rfl

/-- The counts after an entry is written. -/
theorem refCount_assocSet (a : Nat) (e : TextEntry) (l : List (Nat × TextEntry)) (free : List Nat) (h : Nat) :
    refCount { entries := assocSet a e l, free := free } h =
      if h = a then e.refs else ((assocGet h l).map (·.refs)).getD 0 := by
  split
  · rename_i heq
    simp [refCount_eq, heq]
  · rename_i hne
    rw [refCount_eq, assocGet_assocSet_ne hne]

theorem refCount_dropEntry (a : Nat) (t : TextStore) (h : Nat) :
    refCount (dropEntry a t) h = if h = a then 0 else refCount t h := by
  unfold dropEntry
  split
  · split
    · rename_i heq
      simp [refCount_eq, heq]
    · rename_i hne
      rw [refCount_eq, assocGet_assocErase_ne hne, refCount_eq]
  · rename_i hnone
    split
    · rename_i heq
      simp [refCount, heq, hnone]
    · rfl

theorem refCount_retain {a : Nat} {t : TextStore} (ha : textKnown t a = true) (h : Nat) :
    refCount (retain a t) h = refCount t h + if h = a then 1 else 0 := by
  obtain ⟨e, he⟩ := Option.isSome_iff_exists.mp ha
  unfold retain
  rw [he]
  dsimp only
  rw [refCount_assocSet]
  split
  · rename_i heq
    simp [refCount, heq, he]
  · rw [refCount_eq, add_zero]

theorem refCount_release (a : Nat) (t : TextStore) (h : Nat) :
    refCount (release a t) h = refCount t h - if h = a then 1 else 0 := by
  unfold release
  split
  · rename_i e he
    have hset : refCount { t with entries := assocSet a { e with refs := e.refs - 1 } t.entries } h =
        refCount t h - if h = a then 1 else 0 := by
      rw [refCount_assocSet]
      split
      · rename_i heq
        simp [refCount, heq, he]
      · rw [refCount_eq, Nat.sub_zero]
    dsimp only
    split
    · rename_i hzero
      rw [refCount_dropEntry, hset]
      split
      · rename_i heq
        have : refCount t a = e.refs := by simp [refCount, he]
        have hz : e.refs - 1 = 0 := eq_of_beq (Bool.and_eq_true _ _ ▸ hzero).2
        rw [heq, this, hz]
      · rfl
    · exact hset
  · rename_i hnone
    split
    · rename_i heq
      simp [refCount, heq, hnone]
    · rfl

theorem textKnown_retain (a h : Nat) (t : TextStore) : textKnown (retain a t) h = textKnown t h := by
  unfold retain
  split
  · rename_i e he
    simp only [textKnown, textAt] at he ⊢
    by_cases heq : h = a
    · simp [heq, he]
    · rw [assocGet_assocSet_ne heq]
  · rfl

/-- Each retained handle counts one more for each time it stands in the list. -/
theorem refCount_retainAll {hs : List Nat} {t : TextStore} (hk : ∀ a ∈ hs, textKnown t a = true) (h : Nat) :
    refCount (retainAll hs t) h = refCount t h + hs.count h := by
  induction hs generalizing t with
  | nil => rfl
  | cons a hs ih =>
    have hstep : refCount (retainAll hs (retain a t)) h = refCount (retain a t) h + hs.count h :=
      ih fun b hb => by rw [textKnown_retain]; exact hk b (by simp [hb])
    rw [retainAll, List.foldl_cons]
    rw [retainAll] at hstep
    rw [hstep, refCount_retain (hk a (by simp)), List.count_cons]
    simp only [beq_iff_eq, eq_comm (a := a)]
    omega

/-- Each released handle counts one less for each time it stands in the list. -/
theorem refCount_releaseAll (hs : List Nat) (t : TextStore) (h : Nat) :
    refCount (releaseAll hs t) h = refCount t h - hs.count h := by
  induction hs generalizing t with
  | nil => rfl
  | cons a hs ih =>
    rw [releaseAll, List.foldl_cons]
    have := ih (release a t)
    rw [releaseAll] at this
    rw [this, refCount_release, List.count_cons]
    simp only [beq_iff_eq, eq_comm (a := a)]
    omega

/-- A variant written leaves every count. -/
theorem refCount_putVariant (a slot : Nat) (codes : List Byte) (t : TextStore) (h : Nat) :
    refCount (putVariant a slot codes t) h = refCount t h := by
  unfold putVariant
  dsimp only
  split
  · rename_i e he
    rw [refCount_assocSet]
    split
    · rename_i heq
      have : (e.setVariant slot ⟨codes, t.free.take (blocksNeeded codes.length)⟩).refs = e.refs := by
        unfold TextEntry.setVariant
        split <;> rfl
      simp [refCount, heq, he, this]
    · rfl
  · rename_i hnone
    rw [refCount_assocSet]
    split
    · rename_i heq
      simp [refCount, heq, hnone]
    · rfl

/-- A remote entry begins without a count. -/
theorem refCount_makeRemote {vs : List VariantText} {t u : TextStore} {a : Nat} (hm : makeRemote vs t = some (a, u)) (h : Nat) :
    refCount u h = refCount t h := by
  obtain ⟨hnone, e, he, hentries, -⟩ := makeRemote_some hm
  rw [refCount_eq, hentries, ← refCount_eq ⟨assocSet a e t.entries, []⟩, refCount_assocSet]
  split
  · rename_i heq
    simp [refCount, heq, hnone, he]
  · rfl

theorem textKnown_makeRemote {vs : List VariantText} {t u : TextStore} {a : Nat} (hm : makeRemote vs t = some (a, u)) :
    textKnown u a = true := by
  obtain ⟨-, e, -, hentries, -⟩ := makeRemote_some hm
  simp [textKnown, textAt, hentries]

end Sys2Proof.Proofs.Texts
end

section
/-! The laws of the display line, address by address, and what each operation of the line does to them (R158 to R173). -/
namespace Sys2Proof.Proofs.DisplayLine
open Sys2Proof Sys2Proof.Machine

/-! ### The law of one address -/

/-- The operation under way to an address. -/
def opTo (d : Display) (a : EpAddr) : Option LineOp :=
  match d.inFlight with
  | some (op, b) => if b = a then some op else none
  | none => none

/-- The entry is that of a PRESENT endpoint. -/
def isPresent (e : Option EpEntry) : Prop := ∃ x, e = some x ∧ x.present = true

/-- The entry is that of an ABSENT endpoint whose probe is due. -/
def isDue (e : Option EpEntry) : Prop := ∃ x, e = some x ∧ x.present = false ∧ x.probeDue = true

/-- The laws of the display line for one address: its entry, whether it is queued, whether it stands in the probe list, and
the operation under way to it. -/
structure AddrLaw (e : Option EpEntry) (queued listed : Prop) (op : Option LineOp) : Prop where
  queue : queued → isPresent e
  outdated : ∀ x, e = some x → x.present = true → x.shown ≠ some x.content → queued ∨ ∃ v, op = some (.transfer v)
  probe : listed → isDue e
  transfer : ∀ v, op = some (.transfer v) → isPresent e ∧ ¬ queued
  poll : op = some .poll → isPresent e
  probing : op = some .probe → isDue e ∧ ¬ listed

/-- The laws of the display line: no address twice in table, queue and probe list, and the law of each address. -/
structure PointLaw (d : Display) : Prop where
  table : (d.table.map (·.addr)).Nodup
  queue : d.queue.Nodup
  probes : d.probes.Nodup
  addr : ∀ a, AddrLaw (epAt d a) (a ∈ d.queue) (a ∈ d.probes) (opTo d a)

/-- Where no address stands twice, the entry of an address is the one in the table. -/
theorem epAt_eq_some_iff {d : Display} (hd : (d.table.map (·.addr)).Nodup) {a : EpAddr} {e : EpEntry} :
    epAt d a = some e ↔ e ∈ d.table ∧ e.addr = a := by
  constructor
  · intro h
    exact ⟨List.mem_of_find?_eq_some h, by simpa using List.find?_some h⟩
  · rintro ⟨hmem, rfl⟩
    cases hfind : epAt d e.addr with
    | none => exact absurd (by simpa [epAt] using hfind : ∀ x ∈ d.table, x.addr ≠ e.addr) fun h => h e hmem rfl
    | some x =>
      have hx : x ∈ d.table := List.mem_of_find?_eq_some hfind
      have haddr : x.addr = e.addr := by simpa using List.find?_some hfind
      rw [List.inj_on_of_nodup_map hd hx hmem haddr]

theorem isPresent_iff {d : Display} (hd : (d.table.map (·.addr)).Nodup) (a : EpAddr) :
    isPresent (epAt d a) ↔ listedAs d a true := by
  simp only [isPresent, listedAs, epAt_eq_some_iff hd, and_assoc]

theorem isDue_iff {d : Display} (hd : (d.table.map (·.addr)).Nodup) (a : EpAddr) :
    isDue (epAt d a) ↔ awaitsProbe d a := by
  simp only [isDue, awaitsProbe, epAt_eq_some_iff hd, and_assoc]

theorem transferTo_iff (d : Display) (a : EpAddr) : transferTo d a = true ↔ ∃ v, opTo d a = some (.transfer v) := by
  unfold transferTo opTo
  split
  · rename_i v x h
    simp [h]
  · rename_i h
    split
    · rename_i op x hop
      split
      · simp only [Bool.false_eq_true, Option.some.injEq, false_iff, not_exists]
        rintro v rfl
        exact h v x hop
      · simp
    · simp

/-- The laws of the display line are those of its addresses. -/
theorem lineLaw_iff (d : Display) : LineLaw d ↔ PointLaw d := by
  constructor
  · rintro ⟨htable, hqueue, hpresent, hout, hprobes, hdue, hop⟩
    refine ⟨htable, hqueue, hprobes, fun a => ⟨fun h => (isPresent_iff htable a).mpr (hpresent a h), ?_,
      fun h => (isDue_iff htable a).mpr (hdue a h), ?_, ?_, ?_⟩⟩
    · intro x hx hpres hshown
      obtain ⟨hmem, rfl⟩ := (epAt_eq_some_iff htable).mp hx
      exact (hout x hmem hpres hshown).imp id (transferTo_iff d _).mp
    all_goals
      unfold opTo
      split
      · rename_i op b h
        rw [h] at hop
        by_cases hb : b = a
        · subst hb
          cases op <;> simp_all [isPresent_iff htable, isDue_iff htable]
        · simp [hb]
      · simp
  · rintro ⟨htable, hqueue, hprobes, haddr⟩
    refine ⟨htable, hqueue, fun a h => (isPresent_iff htable a).mp ((haddr a).queue h), fun e he hpres hshown => ?_, hprobes,
      fun a h => (isDue_iff htable a).mp ((haddr a).probe h), ?_⟩
    · exact ((haddr e.addr).outdated e ((epAt_eq_some_iff htable).mpr ⟨he, rfl⟩) hpres hshown).imp id (transferTo_iff d _).mpr
    · split
      · rename_i v a h
        have := (haddr a).transfer v (by simp [opTo, h])
        exact ⟨(isPresent_iff htable a).mp this.1, this.2⟩
      · rename_i a h
        exact (isPresent_iff htable a).mp ((haddr a).poll (by simp [opTo, h]))
      · rename_i a h
        have := (haddr a).probing (by simp [opTo, h])
        exact ⟨(isDue_iff htable a).mp this.1, this.2⟩
      · trivial

/-! ### Changes of the table that no law sees -/

theorem epAt_map (g : EpEntry → EpEntry) (hg : ∀ e, (g e).addr = e.addr) (l : List EpEntry) (d : Display) (a : EpAddr) :
    epAt { d with table := l.map g } a = (epAt { d with table := l } a).map g := by
  simp only [epAt, List.find?_map]
  congr 2
  funext e
  simp [hg]

/-- A change of the entries that leaves presence, probe, content and shown version keeps the law of each address. -/
theorem AddrLaw.map {e : Option EpEntry} {q p : Prop} {op : Option LineOp} {g : EpEntry → EpEntry}
    (hg : ∀ x, (g x).present = x.present ∧ (g x).probeDue = x.probeDue ∧ (g x).content = x.content ∧ (g x).shown = x.shown)
    (h : AddrLaw e q p op) : AddrLaw (e.map g) q p op := by
  have hpres : isPresent e → isPresent (e.map g) := by
    rintro ⟨x, rfl, hx⟩
    exact ⟨g x, rfl, by rw [(hg x).1, hx]⟩
  have hdue : isDue e → isDue (e.map g) := by
    rintro ⟨x, rfl, hx, hx'⟩
    exact ⟨g x, rfl, by rw [(hg x).1, hx], by rw [(hg x).2.1, hx']⟩
  refine ⟨fun k => hpres (h.queue k), fun y hy hp hs => ?_, fun k => hdue (h.probe k),
    fun v k => ⟨hpres (h.transfer v k).1, (h.transfer v k).2⟩, fun k => hpres (h.poll k),
    fun k => ⟨hdue (h.probing k).1, (h.probing k).2⟩⟩
  obtain ⟨x, rfl, rfl⟩ := Option.map_eq_some_iff.mp hy
  obtain ⟨h1, -, h3, h4⟩ := hg x
  exact h.outdated x rfl (h1 ▸ hp) (by rwa [h3, h4] at hs)

/-- Changes of the entries that no law sees keep the laws. -/
theorem PointLaw.mapTable {d : Display} {g : EpEntry → EpEntry} (haddr : ∀ e, (g e).addr = e.addr)
    (hg : ∀ x, (g x).present = x.present ∧ (g x).probeDue = x.probeDue ∧ (g x).content = x.content ∧ (g x).shown = x.shown)
    (h : PointLaw d) : PointLaw { d with table := d.table.map g } := by
  refine ⟨?_, h.queue, h.probes, fun a => ?_⟩
  · have hsame : ((·.addr) ∘ g : EpEntry → EpAddr) = (·.addr) := funext haddr
    simpa [hsame] using h.table
  · rw [epAt_map g haddr d.table d a]
    exact (h.addr a).map hg

theorem PointLaw.beatProbes {d : Display} (h : PointLaw d) : PointLaw (beatProbes d) := by
  refine h.mapTable (g := fun e => if e.probeDue then e else { e with probeTime := countDown e.probeTime }) ?_ ?_
  all_goals
    intro e
    split <;> simp

/-- Rendering writes what no law sees. -/
theorem PointLaw.rendered {d : Display} (h : PointLaw d) (a : EpAddr) (c : Option PanelContent) :
    PointLaw (epUpdate a (fun e => { e with rendered := c }) d) := by
  refine h.mapTable (g := fun e => if e.addr == a then { e with rendered := c } else e) ?_ ?_
  all_goals
    intro e
    split <;> simp

/-! ### Changes at one address -/

/-- A change that touches one address keeps the laws where it keeps those of that address. -/
theorem PointLaw.update {d d' : Display} (a : EpAddr) (h : PointLaw d)
    (htable : d'.table.map (·.addr) = d.table.map (·.addr)) (hqueue : d'.queue.Nodup) (hprobes : d'.probes.Nodup)
    (hother : ∀ b, b ≠ a → epAt d' b = epAt d b ∧ (b ∈ d'.queue ↔ b ∈ d.queue) ∧ (b ∈ d'.probes ↔ b ∈ d.probes) ∧
      opTo d' b = opTo d b)
    (ha : AddrLaw (epAt d' a) (a ∈ d'.queue) (a ∈ d'.probes) (opTo d' a)) : PointLaw d' := by
  refine ⟨htable ▸ h.table, hqueue, hprobes, fun b => ?_⟩
  by_cases hb : b = a
  · exact hb ▸ ha
  · obtain ⟨h1, h2, h3, h4⟩ := hother b hb
    rw [h1, h2, h3, h4]
    exact h.addr b

@[simp] theorem opTo_enqueue (a b : EpAddr) (d : Display) : opTo (enqueue a d) b = opTo d b := by
  simp only [opTo, enqueue_inFlight]

@[simp] theorem epAt_enqueue (a b : EpAddr) (d : Display) : epAt (enqueue a d) b = epAt d b := by
  simp only [epAt, enqueue_table]

@[simp] theorem epUpdate_queue (a : EpAddr) (f : EpEntry → EpEntry) (d : Display) : (epUpdate a f d).queue = d.queue := rfl
@[simp] theorem epUpdate_probes (a : EpAddr) (f : EpEntry → EpEntry) (d : Display) : (epUpdate a f d).probes = d.probes := rfl
@[simp] theorem epUpdate_inFlight (a : EpAddr) (f : EpEntry → EpEntry) (d : Display) :
    (epUpdate a f d).inFlight = d.inFlight := rfl
@[simp] theorem opTo_epUpdate (a b : EpAddr) (f : EpEntry → EpEntry) (d : Display) : opTo (epUpdate a f d) b = opTo d b := rfl

/-- A PRESENT endpoint to which no transfer is under way may join the queue. -/
theorem PointLaw.enqueue {d : Display} {a : EpAddr} (h : PointLaw d) (hpres : isPresent (epAt d a))
    (hop : ∀ v, opTo d a ≠ some (.transfer v)) : PointLaw (enqueue a d) := by
  refine h.update a (by simp) (enqueue_nodup h.queue) (by simpa using h.probes) (fun b hb => by simp [hb]) ?_
  have ha := h.addr a
  simp only [epAt_enqueue, mem_enqueue, true_or, enqueue_probes, opTo_enqueue]
  exact ⟨fun _ => hpres, fun _ _ _ _ => Or.inl trivial, ha.probe, fun v k => absurd k (hop v), ha.poll, ha.probing⟩

/-- A content version raised, the endpoint queued as R160 states, keeps the laws. -/
theorem PointLaw.raiseContent {d : Display} (h : PointLaw d) (a : EpAddr) : PointLaw (raiseContent a d) := by
  unfold Machine.raiseContent
  split
  · exact h
  · rename_i e he
    have ha := h.addr a
    rw [he] at ha
    have haddr : ∀ x : EpEntry, ({ x with content := (x.content + 1) % 256 } : EpEntry).addr = x.addr := fun _ => rfl
    have hself := epAt_epUpdate_self a (fun x : EpEntry => { x with content := (x.content + 1) % 256 }) haddr d
    rw [he] at hself
    dsimp only
    split
    · rename_i hc
      obtain ⟨hpres, hnot⟩ := Bool.and_eq_true _ _ ▸ hc
      have hop : ∀ v, opTo d a ≠ some (.transfer v) := fun v hv =>
        absurd ((transferTo_iff d a).mpr ⟨v, hv⟩) (by simpa using hnot)
      refine h.update a (by simp) (enqueue_nodup h.queue) (by simpa using h.probes) (fun b hb => ?_) ?_
      · simp [hb, epAt_epUpdate_ne hb _ haddr]
      · simp only [epAt_enqueue, hself, mem_enqueue, true_or, enqueue_probes, opTo_enqueue, epUpdate_probes, opTo_epUpdate]
        refine ⟨fun _ => ⟨_, rfl, hpres⟩, fun _ _ _ _ => Or.inl trivial, fun k => ?_, fun v k => absurd k (hop v),
          fun _ => ⟨_, rfl, hpres⟩, fun k => ?_⟩
        · obtain ⟨x, hx, hx', -⟩ := ha.probe k
          cases hx
          simp [hpres] at hx'
        · obtain ⟨⟨x, hx, hx', -⟩, -⟩ := ha.probing k
          cases hx
          simp [hpres] at hx'
    · rename_i hc
      refine h.update a (by simp) h.queue h.probes (fun b hb => by simp [epAt_epUpdate_ne hb _ haddr]) ?_
      simp only [hself, epUpdate_queue, epUpdate_probes, opTo_epUpdate]
      have hpres : ∀ {o : Option EpEntry}, isPresent (some e) → o = some e → isPresent (o.map
          fun x => { x with content := (x.content + 1) % 256 }) := by
        rintro _ ⟨x, hx, hx'⟩ rfl
        cases hx
        exact ⟨_, rfl, hx'⟩
      have hdue : ∀ {o : Option EpEntry}, isDue (some e) → o = some e → isDue (o.map
          fun x => { x with content := (x.content + 1) % 256 }) := by
        rintro _ ⟨x, hx, hx', hx''⟩ rfl
        cases hx
        exact ⟨_, rfl, hx', hx''⟩
      refine ⟨fun k => hpres (ha.queue k) rfl, fun x hx hp _ => ?_, fun k => hdue (ha.probe k) rfl,
        fun v k => ⟨hpres (ha.transfer v k).1 rfl, (ha.transfer v k).2⟩, fun k => hpres (ha.poll k) rfl,
        fun k => ⟨hdue (ha.probing k).1 rfl, (ha.probing k).2⟩⟩
      obtain rfl : { e with content := (e.content + 1) % 256 } = x := by simpa using hx
      have hp' : e.present = true := hp
      exact Or.inr ((transferTo_iff d a).mp (by simpa [hp'] using hc))

theorem PointLaw.raiseAll {d : Display} (h : PointLaw d) (l : List EpAddr) : PointLaw (raiseAll l d) := by
  induction l generalizing d with
  | nil => exact h
  | cons a l ih => exact ih (h.raiseContent a)

theorem PointLaw.renderPanel {d : Display} (h : PointLaw d) (s : Part) (a : EpAddr) : PointLaw (renderPanel s d a) :=
  (h.rendered a _).raiseContent a

theorem PointLaw.renderPanels {d : Display} (h : PointLaw d) (s : Part) (l : List EpAddr) :
    PointLaw (l.foldl (Machine.renderPanel s) d) := by
  induction l generalizing d with
  | nil => exact h
  | cons a l ih => exact ih (h.renderPanel s a)

/-! ### A new table, and the line stopped and restarted -/

theorem mapFrom_eq_map_zipIdx {α β : Type} (f : Nat → α → β) (i : Nat) (l : List α) :
    mapFrom f i l = (l.zipIdx i).map fun x => f x.2 x.1 := by
  induction l generalizing i with
  | nil => rfl
  | cons x l ih => simp [mapFrom, ih]

/-- Lists told apart by the index they stand at hold nothing twice together. -/
theorem nodup_flatten_mapFrom {α β : Type} {f : Nat → α → List β} {key : β → Nat} (hf : ∀ i x, (f i x).Nodup)
    (hkey : ∀ i x, ∀ y ∈ f i x, key y = i) (i : Nat) (l : List α) :
    (mapFrom f i l).flatten.Nodup ∧ ∀ y ∈ (mapFrom f i l).flatten, i ≤ key y := by
  induction l generalizing i with
  | nil => simp [mapFrom]
  | cons x l ih =>
    obtain ⟨hnodup, hle⟩ := ih (i + 1)
    refine ⟨?_, ?_⟩
    · simp only [mapFrom, List.flatten_cons]
      refine List.nodup_append.mpr ⟨hf i x, hnodup, fun a ha b hb => ?_⟩
      rintro rfl
      have := hle a hb
      have := hkey i x a ha
      omega
    · intro y hy
      simp only [mapFrom, List.flatten_cons, List.mem_append] at hy
      obtain hy | hy := hy
      · exact (hkey i x y hy).ge
      · have := hle y hy
        omega

theorem coachEndpoints_coach (c : Nat) (r : CoachRec) : ∀ a ∈ coachEndpoints c r, a.coach = c := by
  intro a ha
  simp only [coachEndpoints, mapFrom_eq_map_zipIdx, List.mem_append, List.mem_flatten, List.mem_map] at ha
  obtain (((⟨l, ⟨x, -, rfl⟩, ha⟩ | ha) | ha) | ha) | ha := ha
  all_goals
    split at ha <;> simp_all

theorem coachEndpoints_nodup (c : Nat) (r : CoachRec) : (coachEndpoints c r).Nodup := by
  have hseats : (mapFrom (fun i (x : SeatRec) =>
      if x.unitFitted then [({ coach := c, kind := .seat, number := i } : EpAddr)] else []) 0 r.seats).flatten.Nodup := by
    refine (nodup_flatten_mapFrom (key := (·.number)) (fun i x => ?_) (fun i x y hy => ?_) 0 r.seats).1
    · split <;> simp
    · split at hy <;> simp_all
  have hkind : ∀ a ∈ (mapFrom (fun i (x : SeatRec) =>
      if x.unitFitted then [({ coach := c, kind := .seat, number := i } : EpAddr)] else []) 0 r.seats).flatten,
      a.kind = .seat := by
    intro a ha
    simp only [mapFrom_eq_map_zipIdx, List.mem_flatten, List.mem_map] at ha
    obtain ⟨l, ⟨x, -, rfl⟩, ha⟩ := ha
    split at ha <;> simp_all
  unfold coachEndpoints
  simp only [List.append_assoc]
  refine List.nodup_append.mpr ⟨hseats, ?_, fun a ha b hb => ?_⟩
  · cases r.interiorA <;> cases r.interiorB <;> cases r.exterior1 <;> cases r.exterior2 <;> simp
  · rintro rfl
    have := hkind a ha
    cases r.interiorA <;> cases r.interiorB <;> cases r.exterior1 <;> cases r.exterior2 <;> simp_all <;> grind

theorem endpointList_nodup (cs : List CoachRec) : (endpointList cs).Nodup :=
  (nodup_flatten_mapFrom (key := (·.coach)) coachEndpoints_nodup coachEndpoints_coach 0 cs).1

theorem find?_map_addr (l : List EpAddr) (a : EpAddr) :
    (l.map fun b => ({ addr := b } : EpEntry)).find? (fun e => e.addr == a) = if a ∈ l then some { addr := a } else none := by
  induction l with
  | nil => rfl
  | cons b l ih =>
    rw [List.map_cons, List.find?_cons]
    by_cases hb : b = a
    · simp [hb]
    · rw [ih]
      simp [beq_eq_false_iff_ne.mpr hb, Ne.symm hb]

theorem PointLaw.newTable (cs : List CoachRec) : PointLaw (newTable cs) := by
  refine ⟨?_, endpointList_nodup cs, List.nodup_nil, fun a => ?_⟩
  · simpa [Machine.newTable, Function.comp_def] using endpointList_nodup cs
  · have hat : epAt (Machine.newTable cs) a = if a ∈ endpointList cs then some { addr := a } else none :=
      find?_map_addr ..
    rw [hat]
    by_cases ha : a ∈ endpointList cs <;>
      constructor <;> simp [Machine.newTable, opTo, ha, isPresent, isDue]

theorem PointLaw.idle {d : Display} (h : PointLaw d) (hd : ∀ v a, d.inFlight = some (.transfer v, a) → False) :
    PointLaw { d with inFlight := none } := by
  refine ⟨h.table, h.queue, h.probes, fun a => ?_⟩
  have ha := h.addr a
  refine ⟨ha.queue, fun x hx hp hs => (ha.outdated x hx hp hs).imp id ?_, ha.probe, ?_, ?_, ?_⟩
  · rintro ⟨v, hv⟩
    unfold opTo at hv
    split at hv
    · rename_i op b hop
      split at hv
      · cases hv
        exact absurd hop fun k => hd v b k
      · simp at hv
    · simp at hv
  all_goals simp [opTo]

/-- The line freed and the endpoint of its operation changed and queued as it may be. -/
theorem PointLaw.ended {d d' : Display} {a : EpAddr} {op : LineOp} (h : PointLaw d) (hop : d.inFlight = some (op, a))
    (htable : d'.table.map (·.addr) = d.table.map (·.addr)) (hidle : d'.inFlight = none) (hqueue : d'.queue.Nodup)
    (hprobes : d'.probes = d.probes) (hother : ∀ b, b ≠ a → epAt d' b = epAt d b ∧ (b ∈ d'.queue ↔ b ∈ d.queue))
    (ha : AddrLaw (epAt d' a) (a ∈ d'.queue) (a ∈ d.probes) none) : PointLaw d' := by
  have hno : ∀ b, opTo d' b = none := fun b => by simp [opTo, hidle]
  refine h.update a htable hqueue (hprobes ▸ h.probes) (fun b hb => ?_) (by rw [hprobes, hno]; exact ha)
  obtain ⟨h1, h2⟩ := hother b hb
  exact ⟨h1, h2, by rw [hprobes], by rw [hno, opTo, hop]; simp [Ne.symm hb]⟩

theorem PointLaw.abandon {d : Display} (h : PointLaw d) : PointLaw (abandon d) := by
  unfold Machine.abandon
  split
  · rename_i v a hop
    have hself : opTo d a = some (.transfer v) := by simp [opTo, hop]
    obtain ⟨hpres, -⟩ := (h.addr a).transfer v hself
    refine h.ended hop (by simp) (by simp) (enqueue_nodup h.queue) (by simp) (fun b hb => ⟨by simp [epAt], by simp [hb]⟩) ?_
    have hat : epAt (Machine.enqueue a { d with inFlight := none }) a = epAt d a := by simp [epAt]
    rw [hat]
    exact ⟨fun _ => hpres, fun _ _ _ _ => Or.inl (by simp), (h.addr a).probe, by simp, by simp, by simp⟩
  · rename_i hop
    exact h.idle fun v a k => hop v a k

theorem PointLaw.warmDisplay {d : Display} (h : PointLaw d) : PointLaw (warmDisplay d) := by
  have haddr : ∀ e : EpEntry, (resetEntry e).addr = e.addr := fun _ => rfl
  have htable : ((Machine.warmDisplay d).table.map (·.addr)) = d.table.map (·.addr) := by
    simp [Machine.warmDisplay, Function.comp_def, haddr]
  have hnodup : ((Machine.warmDisplay d).table.map (·.addr)).Nodup := htable ▸ h.table
  refine ⟨hnodup, h.table, List.nodup_nil, fun a => ?_⟩
  have hpresent : ∀ x, epAt (Machine.warmDisplay d) a = some x → x.present = true ∧ x.addr ∈ d.table.map (·.addr) := by
    intro x hx
    obtain ⟨hmem, -⟩ := (epAt_eq_some_iff hnodup).mp hx
    obtain ⟨e, he, rfl⟩ := List.mem_map.mp hmem
    exact ⟨rfl, List.mem_map.mpr ⟨e, he, rfl⟩⟩
  refine ⟨fun k => ?_, fun x hx _ _ => Or.inl ?_, ?_, ?_, ?_, ?_⟩
  · obtain ⟨e, he, rfl⟩ := List.mem_map.mp k
    exact ⟨resetEntry e, (epAt_eq_some_iff hnodup).mpr ⟨List.mem_map.mpr ⟨e, he, rfl⟩, rfl⟩, rfl⟩
  · obtain ⟨-, rfl⟩ := (epAt_eq_some_iff hnodup).mp hx
    exact (hpresent x hx).2
  all_goals simp [Machine.warmDisplay, opTo]

/-! ### The beginning of an operation -/

theorem PointLaw.beginTransfer {s : Part} (h : PointLaw s.disp) (hidle : s.disp.inFlight = none) :
    PointLaw (beginTransfer s).disp := by
  unfold Machine.beginTransfer
  split
  · exact h
  · rename_i a t hq
    have hnodup : (a :: t).Nodup := hq ▸ h.queue
    obtain ⟨hat, ht⟩ := List.nodup_cons.mp hnodup
    obtain ⟨x, hx, hxp⟩ := (h.addr a).queue (hq ▸ List.mem_cons_self)
    have hno : ∀ b, opTo s.disp b = none := fun b => by simp [opTo, hidle]
    rw [hx]
    refine h.update a rfl ht h.probes (fun b hb => ⟨rfl, by simp [hq, hb], Iff.rfl, by rw [hno]; simp [opTo, Ne.symm hb]⟩) ?_
    have hat' : epAt (sendDisp (.transfer a x.content (transferContent s x)) (onDisp (fun d =>
        { d with queue := t, inFlight := some (.transfer x.content, a), lastTransfer := true }) s)).disp a = epAt s.disp a := rfl
    rw [hat']
    refine ⟨fun k => absurd k hat, fun _ _ _ _ => Or.inr ⟨x.content, by simp [opTo]⟩, (h.addr a).probe,
      fun _ _ => ⟨⟨x, hx, hxp⟩, hat⟩, fun k => ?_, fun k => ?_⟩ <;> simp [opTo] at k

theorem rotationNext_present {d : Display} (hd : (d.table.map (·.addr)).Nodup) {a : EpAddr} (ha : rotationNext d = some a) :
    isPresent (epAt d a) := by
  have hmem : a ∈ (d.table.filter (·.present)).map (·.addr) := by
    unfold rotationNext at ha
    dsimp only at ha
    split at ha
    · cases hf : ((d.table.filter (·.present)).map (·.addr)).find? fun b => addrLt _ b with
      | none => rw [hf] at ha; exact List.mem_of_head? (by simpa using ha)
      | some b => rw [hf] at ha; simp at ha; exact ha ▸ List.mem_of_find?_eq_some hf
    · exact List.mem_of_head? ha
  obtain ⟨e, he, rfl⟩ := List.mem_map.mp hmem
  obtain ⟨he, hp⟩ := List.mem_filter.mp he
  exact ⟨e, (epAt_eq_some_iff hd).mpr ⟨he, rfl⟩, hp⟩

theorem PointLaw.beginPoll {s : Part} (h : PointLaw s.disp) (hidle : s.disp.inFlight = none) :
    PointLaw (beginPoll s).disp := by
  have hno : ∀ b, opTo s.disp b = none := fun b => by simp [opTo, hidle]
  unfold Machine.beginPoll
  split
  · rename_i a t hp
    have hnodup : (a :: t).Nodup := hp ▸ h.probes
    obtain ⟨hat, ht⟩ := List.nodup_cons.mp hnodup
    have hdue := (h.addr a).probe (hp ▸ List.mem_cons_self)
    refine h.update a rfl h.queue ht (fun b hb => ⟨rfl, Iff.rfl, by simp [hp, hb], by rw [hno]; simp [opTo, Ne.symm hb]⟩) ?_
    obtain ⟨x, hx, hxp, hxd⟩ := hdue
    refine ⟨(h.addr a).queue, fun y hy hyp _ => ?_, fun k => absurd k hat, ?_, ?_, fun _ => ⟨⟨x, hx, hxp, hxd⟩, hat⟩⟩
    · have hy' : epAt s.disp a = some y := hy
      rw [hx] at hy'
      cases hy'
      simp [hxp] at hyp
    all_goals simp [opTo]
  · split
    · rename_i a ha
      have hpres := rotationNext_present h.table ha
      refine h.update a rfl h.queue h.probes (fun b hb => ⟨rfl, Iff.rfl, Iff.rfl, by rw [hno]; simp [opTo, Ne.symm hb]⟩) ?_
      refine ⟨(h.addr a).queue, fun y hy hyp hs => (((h.addr a).outdated y hy hyp hs)).imp id ?_, (h.addr a).probe, ?_,
        fun _ => hpres, ?_⟩
      · rintro ⟨v, hv⟩
        simp [hno] at hv
      all_goals simp [opTo]
    · exact h

theorem PointLaw.kick {s : Part} (h : PointLaw s.disp) : PointLaw (kick s).disp := by
  unfold Machine.kick
  split
  · rename_i hc
    have hidle : s.disp.inFlight = none := by simp_all
    unfold arbiter
    split
    · exact h.beginTransfer hidle
    · split
      · exact h.beginPoll hidle
      · exact h
  · exact h

/-! ### The end of an operation -/

section
variable {s : Part} {a : EpAddr}

/-- The line freed and the entry of an address changed. -/
def endAt (a : EpAddr) (f : EpEntry → EpEntry) (d : Display) : Display := epUpdate a f { d with inFlight := none }

@[simp] theorem endAt_queue (f : EpEntry → EpEntry) (d : Display) : (endAt a f d).queue = d.queue := rfl
@[simp] theorem endAt_probes (f : EpEntry → EpEntry) (d : Display) : (endAt a f d).probes = d.probes := rfl
@[simp] theorem endAt_inFlight (f : EpEntry → EpEntry) (d : Display) : (endAt a f d).inFlight = none := rfl

theorem epAt_endAt_self (f : EpEntry → EpEntry) (h : ∀ e, (f e).addr = e.addr) (d : Display) :
    epAt (endAt a f d) a = (epAt d a).map f := epAt_epUpdate_self a f h { d with inFlight := none }

theorem epAt_endAt_ne {b : EpAddr} (hb : b ≠ a) (f : EpEntry → EpEntry) (h : ∀ e, (f e).addr = e.addr) (d : Display) :
    epAt (endAt a f d) b = epAt d b := epAt_epUpdate_ne hb f h { d with inFlight := none }

theorem endAt_addrs (f : EpEntry → EpEntry) (h : ∀ e, (f e).addr = e.addr) (d : Display) :
    (endAt a f d).table.map (·.addr) = d.table.map (·.addr) := epUpdate_addrs a f h { d with inFlight := none }

/-- An operation ends and its endpoint is not queued: its entry must fit. -/
theorem PointLaw.settle {d : Display} {op : LineOp} {f : EpEntry → EpEntry} (h : PointLaw d)
    (hop : d.inFlight = some (op, a)) (hf : ∀ e, (f e).addr = e.addr)
    (ha : AddrLaw ((epAt d a).map f) (a ∈ d.queue) (a ∈ d.probes) none) : PointLaw (endAt a f d) :=
  h.ended hop (endAt_addrs f hf d) rfl h.queue rfl (fun b hb => ⟨epAt_endAt_ne hb f hf d, Iff.rfl⟩)
    (by rw [epAt_endAt_self f hf]; exact ha)

/-- An operation ends and its PRESENT endpoint joins the queue. -/
theorem PointLaw.settleQueued {d : Display} {op : LineOp} {f : EpEntry → EpEntry} (h : PointLaw d)
    (hop : d.inFlight = some (op, a)) (hf : ∀ e, (f e).addr = e.addr) (hpres : isPresent ((epAt d a).map f))
    (hdue : a ∉ d.probes) : PointLaw (Machine.enqueue a (endAt a f d)) := by
  refine h.ended hop (by simpa using endAt_addrs f hf d) (by simp) (enqueue_nodup h.queue) (by simp)
    (fun b hb => ⟨by simp [epAt_endAt_ne hb f hf], by simp [hb]⟩) ?_
  rw [epAt_enqueue, epAt_endAt_self f hf]
  exact ⟨fun _ => hpres, fun _ _ _ _ => Or.inl (by simp), fun k => absurd k hdue, by simp, by simp, by simp⟩

theorem isPresent.map {e : Option EpEntry} {f : EpEntry → EpEntry} (h : isPresent e) (hf : ∀ x, (f x).present = x.present) :
    isPresent (e.map f) := by
  obtain ⟨x, rfl, hx⟩ := h
  exact ⟨f x, rfl, by rw [hf, hx]⟩

theorem AddrLaw.not_listed {e : Option EpEntry} {q p : Prop} {op : Option LineOp} (h : AddrLaw e q p op)
    (hpres : isPresent e) : ¬ p := by
  obtain ⟨x, rfl, hx⟩ := hpres
  intro hp
  obtain ⟨y, hy, hy', -⟩ := h.probe hp
  cases hy
  simp [hx] at hy'

theorem AddrLaw.not_queued {e : Option EpEntry} {q p : Prop} {op : Option LineOp} (h : AddrLaw e q p op)
    (hdue : isDue e) : ¬ q := by
  obtain ⟨x, rfl, hx, -⟩ := hdue
  intro hq
  obtain ⟨y, hy, hy'⟩ := h.queue hq
  cases hy
  simp [hx] at hy'

theorem opTo_of_inFlight {d : Display} {op : LineOp} (hop : d.inFlight = some (op, a)) : opTo d a = some op := by
  simp [opTo, hop]

theorem PointLaw.ackTransfer {v w : Nat} (h : PointLaw s.disp) (hop : s.disp.inFlight = some (.transfer v, a)) :
    PointLaw (ackTransfer a v w s).disp := by
  have ha := h.addr a
  rw [opTo_of_inFlight hop] at ha
  obtain ⟨hpres, hnot⟩ := ha.transfer v rfl
  have hunlisted := ha.not_listed hpres
  unfold Machine.ackTransfer
  split
  · dsimp only
    split
    · rename_i hcontent
      refine h.settle hop (f := fun e => { e with shown := some v, miss := 0 }) (fun _ => rfl) ?_
      refine ⟨fun k => absurd k hnot, fun x hx _ hs => ?_, fun k => absurd k hunlisted, by simp, by simp, by simp⟩
      have hx' : epAt (onEntry a (fun e => { e with shown := some v, miss := 0 }) (freeLine s)).disp a = some x :=
        (epAt_endAt_self (fun e : EpEntry => { e with shown := some v, miss := 0 }) (fun _ => rfl) s.disp).trans hx
      have hv : x.content = v := by simpa [contentOf, hx'] using hcontent
      obtain ⟨y, -, rfl⟩ := Option.map_eq_some_iff.mp hx
      exact absurd (by simpa using hv.symm) hs
    · exact h.settleQueued hop (f := fun e => { e with shown := some v, miss := 0 }) (fun _ => rfl)
        (hpres.map fun _ => rfl) hunlisted
  · exact h.settleQueued hop (f := fun e => { e with shown := none, miss := 0 }) (fun _ => rfl)
      (hpres.map fun _ => rfl) hunlisted

theorem PointLaw.pollEnded {st : EpEntry → Option EpStatus} {lost : Bool} (h : PointLaw s.disp)
    (hop : s.disp.inFlight = some (.poll, a)) :
    let d := endAt a (fun e => { e with miss := 0, status := st e, shown := if lost then none else e.shown }) s.disp
    PointLaw (if lost then Machine.enqueue a d else d) := by
  have ha := h.addr a
  rw [opTo_of_inFlight hop] at ha
  have hpres := ha.poll rfl
  have hunlisted := ha.not_listed hpres
  dsimp only
  cases lost
  · refine h.settle hop (f := fun e => { e with miss := 0, status := st e, shown := if false then none else e.shown })
      (fun _ => rfl) ?_
    refine ⟨fun k => (ha.queue k).map fun _ => rfl, fun x hx hp hs => ?_, fun k => absurd k hunlisted, by simp, by simp, by simp⟩
    obtain ⟨y, hy, rfl⟩ := Option.map_eq_some_iff.mp hx
    have := ha.outdated y hy hp (by simpa using hs)
    simpa using this
  · exact h.settleQueued hop (f := fun e => { e with miss := 0, status := st e, shown := if true then none else e.shown })
      (fun _ => rfl) (hpres.map fun _ => rfl) hunlisted

theorem PointLaw.probeReturned {st : EpEntry → Option EpStatus} (h : PointLaw s.disp)
    (hop : s.disp.inFlight = some (.probe, a)) :
    PointLaw (Machine.enqueue a (endAt a (fun e => { e with
      present := true, miss := 0, shown := none, probeTime := none, probeDue := false, status := st e }) s.disp)) := by
  have ha := h.addr a
  rw [opTo_of_inFlight hop] at ha
  obtain ⟨⟨x, hx, -⟩, hunlisted⟩ := ha.probing rfl
  refine h.settleQueued hop (f := fun e => { e with
    present := true, miss := 0, shown := none, probeTime := none, probeDue := false, status := st e }) (fun _ => rfl) ?_ hunlisted
  exact ⟨_, by rw [hx]; rfl, rfl⟩

theorem PointLaw.probeMissed (h : PointLaw s.disp) (hop : s.disp.inFlight = some (.probe, a)) :
    PointLaw (probeMissed a s).disp := by
  have ha := h.addr a
  rw [opTo_of_inFlight hop] at ha
  obtain ⟨hdue, hunlisted⟩ := ha.probing rfl
  refine h.settle hop (f := fun e => { e with probeDue := false, probeTime := some Config.probeSeconds }) (fun _ => rfl) ?_
  refine ⟨fun k => absurd k (ha.not_queued hdue), fun x hx hp _ => ?_, fun k => absurd k hunlisted, by simp, by simp, by simp⟩
  obtain ⟨y, hy, rfl⟩ := Option.map_eq_some_iff.mp hx
  obtain ⟨z, hz, hz', -⟩ := hdue
  rw [hy] at hz
  cases hz
  exact absurd hp (by simp [hz'])

/-- A miss counted where the endpoint stays PRESENT, after a transfer with the endpoint queued. -/
theorem PointLaw.missCounted {op : LineOp} {transfer : Bool} (h : PointLaw s.disp) (hop : s.disp.inFlight = some (op, a))
    (hpoll : op = .poll ∧ transfer = false ∨ (∃ v, op = .transfer v) ∧ transfer = true) :
    let d := endAt a (fun e => { e with miss := e.miss + 1 }) s.disp
    PointLaw (if transfer then Machine.enqueue a d else d) := by
  have ha := h.addr a
  rw [opTo_of_inFlight hop] at ha
  obtain ⟨rfl, rfl⟩ | ⟨⟨v, rfl⟩, rfl⟩ := hpoll
  · have hpres := ha.poll rfl
    refine h.settle hop (f := fun e => { e with miss := e.miss + 1 }) (fun _ => rfl) ?_
    refine ⟨fun k => (ha.queue k).map fun _ => rfl, fun x hx hp hs => ?_, fun k => absurd k (ha.not_listed hpres), by simp,
      by simp, by simp⟩
    obtain ⟨y, hy, rfl⟩ := Option.map_eq_some_iff.mp hx
    simpa using ha.outdated y hy hp hs
  · obtain ⟨hpres, -⟩ := ha.transfer v rfl
    exact h.settleQueued hop (f := fun e => { e with miss := e.miss + 1 }) (fun _ => rfl) (hpres.map fun _ => rfl)
      (ha.not_listed hpres)

/-- A PRESENT endpoint goes ABSENT at the end of its operation, and leaves the queue. -/
theorem PointLaw.wentAbsent {op : LineOp} (h : PointLaw s.disp) (hop : s.disp.inFlight = some (op, a))
    (hnot : op ≠ .probe) {t : Option Nat} :
    PointLaw (epUpdate a (fun e => { e with present := false, probeTime := t, probeDue := false })
      { endAt a (fun e => { e with miss := e.miss + 1 }) s.disp with
        queue := s.disp.queue.filter (· != a) }) := by
  have ha := h.addr a
  rw [opTo_of_inFlight hop] at ha
  have hpres : isPresent (epAt s.disp a) := by
    cases op with
    | transfer v => exact (ha.transfer v rfl).1
    | poll => exact ha.poll rfl
    | probe => exact absurd rfl hnot
  have hf : ∀ e : EpEntry, ({ e with miss := e.miss + 1 } : EpEntry).addr = e.addr := fun _ => rfl
  have hg : ∀ e : EpEntry, ({ e with present := false, probeTime := t, probeDue := false } : EpEntry).addr = e.addr := fun _ => rfl
  have hat : ∀ b, epAt { endAt a (fun e => { e with miss := e.miss + 1 }) s.disp with
      queue := s.disp.queue.filter (· != a) } b = epAt (endAt a (fun e => { e with miss := e.miss + 1 }) s.disp) b :=
    fun _ => rfl
  refine h.ended hop ?_ rfl (h.queue.filter _) rfl (fun b hb => ⟨?_, by simp [hb]⟩) ?_
  · rw [epUpdate_addrs a _ hg]
    exact endAt_addrs _ hf s.disp
  · rw [epAt_epUpdate_ne hb _ hg, hat, epAt_endAt_ne hb _ hf]
  · rw [epAt_epUpdate_self a _ hg]
    refine ⟨fun k => by simp at k, fun x hx hp _ => ?_, fun k => absurd k (ha.not_listed hpres), by simp, by simp, by simp⟩
    obtain ⟨y, -, rfl⟩ := Option.map_eq_some_iff.mp hx
    simp at hp

end

/-! ### Probes fall due -/

theorem mem_dueWith {d : Display} {x : EpEntry} (hx : x ∈ d.table) (hr : probeRuns x = true) {a : EpAddr}
    (ha : a ∈ dueWith d x) : ∃ e ∈ d.table, e.addr = a ∧ probeRuns e = true := by
  unfold dueWith at ha
  split at ha
  · obtain ⟨e, he, rfl⟩ := List.mem_map.mp ha
    obtain ⟨he, hc⟩ := List.mem_filter.mp he
    exact ⟨e, he, rfl, (Bool.and_eq_true _ _ ▸ hc).1⟩
  · obtain rfl : a = x.addr := by simpa using ha
    exact ⟨x, hx, rfl, hr⟩

theorem dueWith_nodup {d : Display} (hd : (d.table.map (·.addr)).Nodup) (x : EpEntry) : (dueWith d x).Nodup := by
  unfold dueWith
  split
  · exact hd.sublist (List.Sublist.map _ List.filter_sublist)
  · simp

/-- ABSENT endpoints whose probe times run may fall due together. -/
theorem PointLaw.fallDue {d : Display} {l : List EpAddr} (h : PointLaw d) (hl : l.Nodup)
    (hruns : ∀ a ∈ l, ∃ e ∈ d.table, e.addr = a ∧ probeRuns e = true) : PointLaw (fallDue l d) := by
  have hg : ∀ e : EpEntry, (if l.contains e.addr then probeDueEntry e else e).addr = e.addr := fun e => by split <;> rfl
  have hrun : ∀ a ∈ l, ∃ e, epAt d a = some e ∧ e.present = false ∧ e.probeDue = false := by
    intro a ha
    obtain ⟨e, he, haddr, hr⟩ := hruns a ha
    refine ⟨e, (epAt_eq_some_iff h.table).mpr ⟨he, haddr⟩, ?_⟩
    simp only [probeRuns, Bool.and_eq_true, Bool.not_eq_true'] at hr
    exact ⟨hr.1.1, hr.2⟩
  have hnotin : ∀ a ∈ l, a ∉ d.probes := by
    intro a ha hp
    obtain ⟨e, he, -, hdue⟩ := hrun a ha
    obtain ⟨x, hx, -, hx'⟩ := (h.addr a).probe hp
    rw [he] at hx
    cases hx
    simp [hdue] at hx'
  refine ⟨?_, h.queue, ?_, fun a => ?_⟩
  · have hsame : ((·.addr) ∘ fun e : EpEntry => if l.contains e.addr then probeDueEntry e else e) = (·.addr) := funext hg
    simp only [Machine.fallDue, List.map_map, hsame]
    exact h.table
  · refine List.nodup_append.mpr ⟨h.probes, hl, fun a ha b hb => ?_⟩
    rintro rfl
    exact hnotin a hb ha
  · have hat : epAt (Machine.fallDue l d) a = (epAt d a).map fun e => if l.contains e.addr then probeDueEntry e else e :=
      epAt_map _ hg d.table { d with probes := d.probes ++ l } a
    have hself : (∀ x, epAt d a = some x → x.addr = a) := fun x hx => ((epAt_eq_some_iff h.table).mp hx).2
    have ha := h.addr a
    have hmem : a ∈ (Machine.fallDue l d).probes ↔ a ∈ d.probes ∨ a ∈ l := by simp [Machine.fallDue]
    rw [hat, hmem]
    show AddrLaw _ (a ∈ d.queue) _ (opTo d a)
    by_cases hal : a ∈ l
    · obtain ⟨e, he, hp, hdue⟩ := hrun a hal
      have hne : ∀ {o}, isPresent o → o = epAt d a → False := by
        rintro _ ⟨x, rfl, hx⟩ hxe
        rw [he] at hxe
        cases hxe
        simp [hp] at hx
      have hnd : ¬ isDue (epAt d a) := by
        rintro ⟨x, hx, -, hx'⟩
        rw [he] at hx
        cases hx
        simp [hdue] at hx'
      have heq : (epAt d a).map (fun e => if l.contains e.addr then probeDueEntry e else e) = some (probeDueEntry e) := by
        simp [he, hself e he, hal]
      rw [heq]
      refine ⟨fun k => (hne (ha.queue k) rfl).elim, fun x hx hxp _ => ?_, fun _ => ⟨_, rfl, hp, rfl⟩,
        fun v k => (hne (ha.transfer v k).1 rfl).elim, fun k => (hne (ha.poll k) rfl).elim, fun k => absurd (ha.probing k).1 hnd⟩
      cases hx
      have hp' : e.present = true := hxp
      simp [hp] at hp'
    · have heq : (epAt d a).map (fun e => if l.contains e.addr then probeDueEntry e else e) = epAt d a := by
        cases he : epAt d a with
        | none => rfl
        | some e => simp [hself e he, hal]
      rw [heq]
      simpa [hal] using ha

theorem PointLaw.probeFallsDue {s : Part} (h : PointLaw s.disp) (a : EpAddr) : PointLaw (probeFallsDue a s).disp := by
  unfold Machine.probeFallsDue
  split
  · rename_i x hx
    split
    · rename_i hr
      have hmem := ((epAt_eq_some_iff h.table).mp hx).1
      exact h.fallDue (dueWith_nodup h.table x) fun b hb => mem_dueWith hmem hr hb
    · exact h
  · exact h

end Sys2Proof.Proofs.DisplayLine
end

section
/-! The law of legs (R94 to R111): what the operations of the Reservation Store do to the order of the pool, the claim windows
and the seats that active legs hold. -/
namespace Sys2Proof.Proofs.Legs
open Sys2Proof Sys2Proof.Machine

/-- The law of legs over a pool and an own calling sequence. -/
structure LegsLaw (legs : List Leg) (seq : List Nat) : Prop where
  ids : (legs.map (·.id)).Nodup
  order : legs.Pairwise fun a b => a.before b = true
  window : ∀ l ∈ legs, l.state ≠ .booked → l.phase = .done
  forward : ∀ l ∈ legs, l.frm < l.till
  stops : ∀ l ∈ legs, l.active = true → l.frm ∈ seq ∧ l.till ∈ seq
  apart : ∀ a ∈ legs, ∀ b ∈ legs, a.id ≠ b.id → a.active = true → b.active = true → a.coach = b.coach →
    a.seat = b.seat → a.till ≤ b.frm ∨ b.till ≤ a.frm

theorem legLaw_iff (s : Part) : LegLaw s ↔ LegsLaw s.res.legs s.route.ownSeq :=
  ⟨fun ⟨h1, h2, h3, h4, h5, h6⟩ => ⟨h1, h2, h3, h4, h5, h6⟩, fun h => ⟨h.ids, h.order, h.window, h.forward, h.stops, h.apart⟩⟩

/-- Two legs have the same record but for state and phase. -/
def SameRecord (a b : Leg) : Prop :=
  a.id = b.id ∧ a.coach = b.coach ∧ a.seat = b.seat ∧ a.frm = b.frm ∧ a.till = b.till

theorem before_iff (a b : Leg) : a.before b = true ↔
    a.coach < b.coach ∨ (a.coach = b.coach ∧ (a.seat < b.seat ∨ (a.seat = b.seat ∧
      (a.frm < b.frm ∨ (a.frm = b.frm ∧ a.id < b.id))))) := by
  simp [Leg.before]

theorem before_trans {a b c : Leg} (h : a.before b = true) (k : b.before c = true) : a.before c = true := by
  rw [before_iff] at *
  omega

theorem before_total {a b : Leg} (h : a.id ≠ b.id) (k : ¬ a.before b = true) : b.before a = true := by
  rw [before_iff] at *
  omega

theorem SameRecord.before {a a' b b' : Leg} (ha : SameRecord a' a) (hb : SameRecord b' b) (h : a.before b = true) :
    a'.before b' = true := by
  obtain ⟨a1, a2, a3, a4, -⟩ := ha
  obtain ⟨b1, b2, b3, b4, -⟩ := hb
  rw [before_iff] at *
  omega

/-! ### Legs freed and legs changed -/

theorem LegsLaw.sublist {l l' : List Leg} {seq : List Nat} (h : LegsLaw l seq) (hs : l'.Sublist l) : LegsLaw l' seq where
  ids := h.ids.sublist (hs.map _)
  order := h.order.sublist hs
  window := fun x hx => h.window x (hs.subset hx)
  forward := fun x hx => h.forward x (hs.subset hx)
  stops := fun x hx => h.stops x (hs.subset hx)
  apart := fun a ha b hb => h.apart a (hs.subset ha) b (hs.subset hb)

/-- States and phases changed: the law holds again where windows and active legs are as it asks. -/
theorem LegsLaw.mapAll {legs : List Leg} {seq seq' : List Nat} {f : Leg → Leg} (h : LegsLaw legs seq)
    (hf : ∀ l ∈ legs, SameRecord (f l) l) (hwindow : ∀ l ∈ legs, (f l).state ≠ .booked → (f l).phase = .done)
    (hstops : ∀ l ∈ legs, (f l).active = true → l.frm ∈ seq' ∧ l.till ∈ seq')
    (hapart : ∀ a ∈ legs, ∀ b ∈ legs, a.id ≠ b.id → (f a).active = true → (f b).active = true → a.coach = b.coach →
      a.seat = b.seat → a.till ≤ b.frm ∨ b.till ≤ a.frm) : LegsLaw (legs.map f) seq' := by
  refine ⟨?_, ?_, ?_, ?_, ?_, ?_⟩
  · rw [List.map_map, List.map_congr_left fun l hl => show ((·.id) ∘ f) l = l.id from (hf l hl).1]
    exact h.ids
  · exact List.pairwise_map.mpr (h.order.imp_of_mem fun ha hb k => (hf _ ha).before (hf _ hb) k)
  · simpa using hwindow
  · simp only [List.mem_map, forall_exists_index, and_imp, forall_apply_eq_imp_iff₂]
    intro l hl
    obtain ⟨-, -, -, h4, h5⟩ := hf l hl
    rw [h4, h5]
    exact h.forward l hl
  · simp only [List.mem_map, forall_exists_index, and_imp, forall_apply_eq_imp_iff₂]
    intro l hl hact
    obtain ⟨-, -, -, h4, h5⟩ := hf l hl
    rw [h4, h5]
    exact hstops l hl hact
  · simp only [List.mem_map, forall_exists_index, and_imp, forall_apply_eq_imp_iff₂]
    intro a ha b hb hid hacta hactb hcoach hseat
    obtain ⟨a1, a2, a3, a4, a5⟩ := hf a ha
    obtain ⟨b1, b2, b3, b4, b5⟩ := hf b hb
    rw [a4, a5, b4, b5]
    exact hapart a ha b hb (by rwa [a1, b1] at hid) hacta hactb (by rwa [a2, b2] at hcoach) (by rwa [a3, b3] at hseat)

/-- A change of states and phases that makes no leg active. -/
theorem LegsLaw.map {legs : List Leg} {seq seq' : List Nat} {f : Leg → Leg} (h : LegsLaw legs seq)
    (hf : ∀ l ∈ legs, SameRecord (f l) l)
    (hwindow : ∀ l ∈ legs, (l.state ≠ .booked → l.phase = .done) → (f l).state ≠ .booked → (f l).phase = .done)
    (hactive : ∀ l ∈ legs, (l.state ≠ .booked → l.phase = .done) → (f l).active = true →
      l.active = true ∧ (l.frm ∈ seq → l.frm ∈ seq') ∧ (l.till ∈ seq → l.till ∈ seq')) :
    LegsLaw (legs.map f) seq' := by
  refine h.mapAll hf (fun l hl => hwindow l hl (h.window l hl)) (fun l hl hact => ?_)
    fun a ha b hb hid hacta hactb => h.apart a ha b hb hid (hactive a ha (h.window a ha) hacta).1
      (hactive b hb (h.window b hb) hactb).1
  obtain ⟨hl', h1, h2⟩ := hactive l hl (h.window l hl) hact
  exact ⟨h1 (h.stops l hl hl').1, h2 (h.stops l hl hl').2⟩

theorem active_of_booked {l : Leg} (h : l.state = .booked) : l.active = true := by simp [Leg.active, h]

theorem LegsLaw.openWindows {s : Part} {k : Nat} (h : LegsLaw s.res.legs s.route.ownSeq) :
    LegsLaw (openWindows k s).res.legs s.route.ownSeq := by
  refine h.map (fun l _ => ?_) (fun l _ hw => ?_) (fun l _ hw => ?_)
  all_goals split
  · simp [SameRecord]
  · simp [SameRecord]
  · rename_i hc
    have hb : l.state = .booked := by simp_all
    exact fun hn => absurd hb hn
  · exact hw
  · rename_i hc
    have hb : l.state = .booked := by simp_all
    exact fun _ => ⟨active_of_booked hb, id, id⟩
  · exact fun hact => ⟨hact, id, id⟩

theorem sameRecord_decideLeg (s : Part) (l : Leg) : SameRecord (decideLeg s l) l := by
  unfold decideLeg SameRecord
  split
  · split <;> simp
  · simp

/-- Legs whose reached deadline is decided keep the law, whichever of them are. -/
theorem LegsLaw.decide {s : Part} {p : Leg → Bool} {legs : List Leg} {seq : List Nat} {clock : Nat}
    (h : LegsLaw legs seq) :
    LegsLaw (legs.map fun l => if p l && deadlineReached clock l then decideLeg s l else l) seq := by
  have hbooked : ∀ l : Leg, (l.state ≠ .booked → l.phase = .done) → (p l && deadlineReached clock l) = true →
      l.state = .booked := by
    intro l hw hc
    by_contra hn
    have hd := (Bool.and_eq_true _ _ ▸ hc).2
    simp [deadlineReached, hw hn] at hd
  refine h.map (fun l _ => ?_) (fun l _ hw => ?_) (fun l _ hw => ?_)
  · split
    · exact sameRecord_decideLeg s l
    · simp [SameRecord]
  · split
    · rename_i hc
      have hb := hbooked l hw hc
      unfold decideLeg
      split
      · split <;> simp
      · simp [hb]
    · exact hw
  · split
    · rename_i hc
      exact fun _ => ⟨active_of_booked (hbooked l hw hc), id, id⟩
    · exact fun hact => ⟨hact, id, id⟩

/-- Legs in OPEN may be given a deadline. -/
theorem LegsLaw.timed {legs : List Leg} {seq : List Nat} {p : Leg → Bool} {d : Nat} (h : LegsLaw legs seq) :
    LegsLaw (legs.map fun l => if l.phase == .opened && p l then { l with phase := .timed d } else l) seq := by
  refine h.map (fun l _ => ?_) (fun l _ hw => ?_) (fun l _ hw => ?_)
  all_goals split
  · simp [SameRecord]
  · simp [SameRecord]
  · rename_i hc
    intro hn
    have := hw hn
    simp_all
  · exact hw
  · exact fun hact => ⟨hact, id, id⟩
  · exact fun hact => ⟨hact, id, id⟩

theorem sameRecord_reportLeg (o : Bool) (l : Leg) : SameRecord (reportLeg o l) l := by
  unfold reportLeg SameRecord
  (repeat' split) <;> simp

theorem reportLeg_of_not_booked {o : Bool} {l : Leg} (h : l.state ≠ .booked) : reportLeg o l = l := by
  simp [reportLeg, h]

theorem reportLeg_window (o : Bool) (l : Leg) (hw : l.state ≠ .booked → l.phase = .done)
    (hn : (reportLeg o l).state ≠ .booked) : (reportLeg o l).phase = .done := by
  by_cases hb : l.state = .booked
  · unfold reportLeg at *
    (repeat' split) <;> simp_all
  · rw [reportLeg_of_not_booked hb]
    exact hw hb

theorem LegsLaw.report {legs : List Leg} {seq : List Nat} {o : Bool} {p : Leg → Bool} (h : LegsLaw legs seq) :
    LegsLaw (legs.map fun l => if p l then reportLeg o l else l) seq := by
  refine h.map (fun l _ => ?_) (fun l _ hw => ?_) (fun l _ hw => ?_)
  all_goals split
  · exact sameRecord_reportLeg o l
  · simp [SameRecord]
  · exact reportLeg_window o l hw
  · exact hw
  · intro hact
    refine ⟨?_, id, id⟩
    by_cases hb : l.state = .booked
    · exact active_of_booked hb
    · rwa [reportLeg_of_not_booked hb] at hact
  · exact fun hact => ⟨hact, id, id⟩

/-- A leg as the orphaning pass leaves it over a calling sequence (R110). -/
def orphaned (seq : List Nat) (l : Leg) : Leg :=
  if l.active && !stopsCall seq l then { l with state := .orphaned, phase := .done } else l

/-- The orphaning pass makes the law hold over whatever calling sequence it is taken. -/
theorem LegsLaw.orphaned {legs : List Leg} {seq : List Nat} (h : LegsLaw legs seq) (seq' : List Nat) :
    LegsLaw (legs.map (orphaned seq')) seq' := by
  have hactive : ∀ l : Leg, (Legs.orphaned seq' l).active = true → l.active = true ∧ stopsCall seq' l = true := by
    intro l hl
    unfold Legs.orphaned at hl
    split at hl
    · simp [Leg.active] at hl
    · rename_i hc
      exact ⟨hl, by simpa [hl] using hc⟩
  refine h.mapAll (fun l _ => ?_) (fun l hl => ?_) (fun l _ hact => by simpa [stopsCall] using (hactive l hact).2)
    fun a ha b hb hid hacta hactb => h.apart a ha b hb hid (hactive a hacta).1 (hactive b hactb).1
  · unfold Legs.orphaned
    split <;> simp [SameRecord]
  · unfold Legs.orphaned
    split
    · simp
    · exact h.window l hl

/-! ### Legs booked -/

theorem meetsActive_eq_false {l : Leg} {others : List Leg} (h : meetsActive l others = false) {x : Leg} (hx : x ∈ others)
    (hact : x.active = true) (hcoach : x.coach = l.coach) (hseat : x.seat = l.seat) : x.till ≤ l.frm ∨ l.till ≤ x.frm := by
  have := (List.any_eq_false.mp h) x hx
  simp only [Leg.sameSeat, Leg.overlaps, hact, hcoach, hseat, beq_self_eq_true, Bool.true_and, Bool.and_eq_true,
    decide_eq_true_eq, not_and, not_lt] at this
  omega

/-- A leg of the pool that both its stops call for and that meets no active leg of its seat may be booked again. -/
theorem LegsLaw.book {pre post : List Leg} {l l' : Leg} {seq : List Nat} (h : LegsLaw (pre ++ l :: post) seq)
    (hl : SameRecord l' l) (hstate : l'.state = .booked) (hcall : stopsCall seq l = true)
    (hmeet : ∀ x ∈ pre ++ post, x.active = true → x.coach = l.coach → x.seat = l.seat → x.till ≤ l.frm ∨ l.till ≤ x.frm) :
    LegsLaw (pre ++ l' :: post) seq := by
  have hids := h.ids
  simp only [List.map_append, List.map_cons] at hids
  obtain ⟨-, htail, hcross⟩ := List.nodup_append.mp hids
  obtain ⟨hpost, -⟩ := List.nodup_cons.mp htail
  have hother : ∀ x ∈ pre ++ post, x.id ≠ l.id := by
    intro x hx hid
    obtain hx | hx := List.mem_append.mp hx
    · exact hcross _ (List.mem_map_of_mem hx) _ List.mem_cons_self hid
    · exact hpost (hid ▸ List.mem_map_of_mem hx)
  let f : Leg → Leg := fun x => if x.id = l.id then l' else x
  have hfl : f l = l' := by simp [f]
  have hfx : ∀ x ∈ pre ++ post, f x = x := fun x hx => by simp [f, hother x hx]
  have hmap : (pre ++ l :: post).map f = pre ++ l' :: post := by
    rw [List.map_append, List.map_cons, hfl, List.map_congr_left fun x hx => hfx x (List.mem_append_left _ hx),
      List.map_congr_left fun x hx => hfx x (List.mem_append_right _ hx), List.map_id', List.map_id']
  have hmem : ∀ x ∈ pre ++ l :: post, x = l ∨ x ∈ pre ++ post := by
    intro x hx
    simp only [List.mem_append, List.mem_cons] at hx ⊢
    tauto
  rw [← hmap]
  refine h.mapAll (fun x hx => ?_) (fun x hx => ?_) (fun x hx hact => ?_) (fun a ha b hb hid hacta hactb hc hs => ?_)
  · obtain rfl | hx := hmem x hx
    · rwa [hfl]
    · rw [hfx x hx]
      exact ⟨rfl, rfl, rfl, rfl, rfl⟩
  · obtain rfl | hx' := hmem x hx
    · rw [hfl]
      exact fun hn => absurd hstate hn
    · rw [hfx x hx']
      exact h.window x hx
  · obtain rfl | hx' := hmem x hx
    · simpa [stopsCall] using hcall
    · rw [hfx x hx'] at hact
      exact h.stops x hx hact
  · obtain rfl | ha' := hmem a ha
    · obtain rfl | hb' := hmem b hb
      · exact absurd rfl hid
      · rw [hfx b hb'] at hactb
        exact (hmeet b hb' hactb hc.symm hs.symm).symm
    · rw [hfx a ha'] at hacta
      obtain rfl | hb' := hmem b hb
      · exact hmeet a ha' hacta hc hs
      · rw [hfx b hb'] at hactb
        exact h.apart a ha b hb hid hacta hactb hc hs

theorem LegsLaw.restoreLegs {s : Part} {p : Nat} {done rest : List Leg}
    (h : LegsLaw (done.reverse ++ rest) s.route.ownSeq) : LegsLaw (restoreLegs s p done rest) s.route.ownSeq := by
  induction rest generalizing done with
  | nil => simpa [Machine.restoreLegs] using h
  | cons l t ih =>
    unfold Machine.restoreLegs
    split
    · rename_i hc
      simp only [Bool.and_eq_true, Bool.not_eq_true'] at hc
      obtain ⟨⟨⟨-, hcall⟩, -⟩, hmeet⟩ := hc
      refine ih ?_
      rw [List.reverse_cons, List.append_assoc, List.singleton_append]
      refine h.book (l' := { l with state := .booked, phase := restoredPhase s.unit s.route.prog p l }) ⟨rfl, rfl, rfl, rfl, rfl⟩ rfl hcall fun x hx hact hcoach hseat => ?_
      exact meetsActive_eq_false hmeet (by simpa using hx) hact hcoach hseat
    · refine ih ?_
      rwa [List.reverse_cons, List.append_assoc, List.singleton_append]

theorem length_restoreLegs (s : Part) (p : Nat) (done rest : List Leg) :
    (restoreLegs s p done rest).length = done.length + rest.length := by
  induction rest generalizing done with
  | nil => simp [restoreLegs]
  | cons l t ih =>
    unfold restoreLegs
    split <;> simp [ih] <;> omega

theorem mem_insertBy {α : Type} {before : α → α → Bool} {x y : α} {l : List α} :
    y ∈ insertBy before x l ↔ y = x ∨ y ∈ l := by
  rw [(insertBy_perm before x l).mem_iff, List.mem_cons]

theorem pairwise_insertBy {x : Leg} {l : List Leg} (hl : l.Pairwise fun a b => a.before b = true)
    (hx : ∀ y ∈ l, y.id ≠ x.id) : (insertBy Leg.before x l).Pairwise fun a b => a.before b = true := by
  induction l with
  | nil => simp [insertBy]
  | cons y t ih =>
    obtain ⟨hy, ht⟩ := List.pairwise_cons.mp hl
    unfold insertBy
    split
    · rename_i hb
      refine List.pairwise_cons.mpr ⟨fun z hz => ?_, hl⟩
      obtain rfl | hz := List.mem_cons.mp hz
      · exact hb
      · exact before_trans hb (hy z hz)
    · rename_i hb
      refine List.pairwise_cons.mpr ⟨fun z hz => ?_, ih ht fun z hz => hx z (List.mem_cons_of_mem _ hz)⟩
      obtain rfl | hz := mem_insertBy.mp hz
      · exact before_total (hx y List.mem_cons_self).symm hb
      · exact hy z hz

/-- A new leg joins the pool in its place. -/
theorem LegsLaw.insert {legs : List Leg} {seq : List Nat} {l : Leg} (h : LegsLaw legs seq) (hid : ∀ x ∈ legs, x.id ≠ l.id)
    (hstate : l.state = .booked) (hforward : l.frm < l.till) (hcall : stopsCall seq l = true)
    (hmeet : meetsActive l legs = false) : LegsLaw (insertBy Leg.before l legs) seq where
  ids := by
    have hperm := (insertBy_perm Leg.before l legs).map (·.id)
    refine hperm.nodup_iff.mpr (List.nodup_cons.mpr ⟨fun hmem => ?_, h.ids⟩)
    obtain ⟨x, hx, hxid⟩ := List.mem_map.mp hmem
    exact hid x hx hxid
  order := pairwise_insertBy h.order hid
  window := fun x hx hn => by
    obtain rfl | hx := mem_insertBy.mp hx
    · exact absurd hstate hn
    · exact h.window x hx hn
  forward := fun x hx => by
    obtain rfl | hx := mem_insertBy.mp hx
    · exact hforward
    · exact h.forward x hx
  stops := fun x hx hact => by
    obtain rfl | hx := mem_insertBy.mp hx
    · simpa [stopsCall] using hcall
    · exact h.stops x hx hact
  apart := fun a ha b hb hne hacta hactb hc hs => by
    obtain rfl | ha' := mem_insertBy.mp ha
    · obtain rfl | hb' := mem_insertBy.mp hb
      · exact absurd rfl hne
      · exact (meetsActive_eq_false hmeet hb' hactb hc.symm hs.symm).symm
    · obtain rfl | hb' := mem_insertBy.mp hb
      · exact meetsActive_eq_false hmeet ha' hacta hc hs
      · exact h.apart a ha' b hb' hne hacta hactb hc hs

/-- A RELEASED leg that an id names is booked again where its stops call and it meets no active leg of its seat. -/
theorem LegsLaw.restore {legs : List Leg} {seq : List Nat} {l : Leg} {i : Nat} (h : LegsLaw legs seq)
    (hfind : legs.find? (fun x => x.id == i) = some l) (hcall : stopsCall seq l = true) (hmeet : meetsActive l legs = false) :
    LegsLaw (legs.map fun x => if x.id == i then { x with state := .booked, phase := .done } else x) seq := by
  have hlmem := List.mem_of_find?_eq_some hfind
  have hlid : l.id = i := by simpa using List.find?_some hfind
  have hself : ∀ x ∈ legs, x.id = i → x = l := fun x hx hxid => List.inj_on_of_nodup_map h.ids hx hlmem (hxid.trans hlid.symm)
  refine h.mapAll (fun x _ => ?_) (fun x hx => ?_) (fun x hx hact => ?_) (fun a ha b hb hne hacta hactb hc hs => ?_)
  · split <;> simp [SameRecord]
  · split
    · simp
    · exact h.window x hx
  · split at hact
    · rename_i hxi
      rw [hself x hx (by simpa using hxi)]
      simpa [stopsCall] using hcall
    · exact h.stops x hx hact
  · by_cases hai : a.id = i
    · obtain rfl := hself a ha hai
      have hbi : b.id ≠ i := fun k => hne (hai.trans k.symm)
      rw [if_neg (by simpa using hbi)] at hactb
      exact (meetsActive_eq_false hmeet hb hactb hc.symm hs.symm).symm
    · rw [if_neg (by simpa using hai)] at hacta
      by_cases hbi : b.id = i
      · obtain rfl := hself b hb hbi
        exact meetsActive_eq_false hmeet ha hacta hc hs
      · rw [if_neg (by simpa using hbi)] at hactb
        exact h.apart a ha b hb hne hacta hactb hc hs

end Sys2Proof.Proofs.Legs
end

section
/-! The law of requests in flight (R86, R190, R191), also while a request is with its owner, and what the operations of the
Host Port do to it. -/
namespace Sys2Proof.Proofs.Port
open Sys2Proof Sys2Proof.Machine

/-- A refusal reply. -/
def isRefusal : QFrame → Bool
  | .refusal _ _ _ => true
  | _ => false

/-- The tag of a reply of an in-flight entry. -/
def replyTag : QFrame → Option Byte
  | .reply tag _ _ _ => some tag
  | _ => none

/-- The law of requests in flight over host port, forwards and line queue; `o` is the tag of the request that is with its
owner at the moment, if one is. -/
structure PortMid (o : Option Byte) (h : HostPort) (fw : List Forward) (q : List LineItem) : Prop where
  count : h.inFlight.length ≤ 4
  tags : (h.inFlight.map (·.tag)).Nodup
  handed : ∀ e ∈ h.inFlight, e.phase = .handed → o = some e.tag
  owner : ∀ t, o = some t → ∃ e ∈ h.inFlight, e.tag = t ∧ e.phase = .handed
  replies : (replyTags h).Nodup
  sending : ∀ t ∈ replyTags h, ∃ e ∈ h.inFlight, e.tag = t ∧ e.phase = .sending
  refusals : (h.queue.filter isRefusal).length ≤ 3
  events : (h.queue.filter (· == .event)).length ≤ 1
  forwards : (fw.map (·.tag)).Nodup
  waiting : ∀ f ∈ fw, ∃ e ∈ h.inFlight, e.tag = f.tag ∧ e.phase = .waiting
  items : ∀ tag, LineItem.noticeFwd tag ∈ q → ∃ f ∈ fw, f.tag = tag

/-- The model tests for refusals by a match of its own, case by case the same test. -/
theorem filter_isRefusal {f : QFrame → Bool} (hf : ∀ x, f x = isRefusal x) (q : List QFrame) :
    q.filter f = q.filter isRefusal := List.filter_congr fun x _ => hf x

theorem replyTags_eq (h : HostPort) :
    replyTags h = (h.sending.bind (·.entry)).toList ++ h.queue.filterMap replyTag := by
  unfold replyTags
  congr 2

/-- Distinct tags that all stand among the entries are at most as many. -/
theorem length_le_of_nodup_tags {l : List Byte} {es : List InFlight} (hl : l.Nodup)
    (h : ∀ t ∈ l, ∃ e ∈ es, e.tag = t) : l.length ≤ es.length := by
  have hsub : l ⊆ es.map (·.tag) := fun t ht => by
    obtain ⟨e, he, rfl⟩ := h t ht
    exact List.mem_map_of_mem he
  simpa using (hl.subperm hsub).length_le

/-- A queued frame is a reply, a refusal or the EVENT frame. -/
theorem length_queue (q : List QFrame) :
    q.length = (q.filterMap replyTag).length + (q.filter isRefusal).length + (q.filter (· == .event)).length := by
  induction q with
  | nil => rfl
  | cons x q ih =>
    cases x <;> simp [replyTag, isRefusal, List.filterMap_cons, List.filter_cons, ih] <;> omega

theorem portLaw_iff (s : Part) : PortLaw s ↔ PortMid none s.host s.form.forwards s.form.queue := by
  constructor
  · rintro ⟨h1, h2, h3, h4, h5, h6, h7, -, h9, -, h11, h12⟩
    rw [filter_isRefusal fun x => by cases x <;> rfl] at h6
    exact ⟨h1, h2, fun e he hp => absurd hp (h3 e he), by simp, h4, h5, h6, h7, h9, h11, h12⟩
  · intro h
    have hreplies := length_le_of_nodup_tags h.replies fun t ht => (h.sending t ht).imp fun e he => ⟨he.1, he.2.1⟩
    have hforwards := length_le_of_nodup_tags h.forwards fun t ht => by
      obtain ⟨f, hf, rfl⟩ := List.mem_map.mp ht
      exact (h.waiting f hf).imp fun e he => ⟨he.1, he.2.1⟩
    have hqueue := length_queue s.host.queue
    have h6 := h.refusals
    have h7 := h.events
    have h1 := h.count
    rw [replyTags_eq, List.length_append] at hreplies
    rw [List.length_map] at hforwards
    refine ⟨h.count, h.tags, fun e he hp => by simpa using h.handed e he hp, h.replies, h.sending, ?_, h7, by omega,
      h.forwards, by omega, h.waiting, h.items⟩
    rw [filter_isRefusal fun x => by cases x <;> rfl]
    exact h6

section
variable {o : Option Byte} {h : HostPort} {fw : List Forward} {q : List LineItem}

/-- Nothing of the Host Port but what the law does not see, and of the coupler line only a withdrawal of items. -/
theorem PortMid.congr {h' : HostPort} {fw' : List Forward} {q' : List LineItem} (k : PortMid o h fw q)
    (hin : h'.inFlight = h.inFlight) (hqueue : h'.queue = h.queue) (hsending : h'.sending = h.sending)
    (hfw : fw'.map (·.tag) = fw.map (·.tag)) (hq : ∀ tag, LineItem.noticeFwd tag ∈ q' → LineItem.noticeFwd tag ∈ q) :
    PortMid o h' fw' q' := by
  have htags : replyTags h' = replyTags h := by rw [replyTags_eq, replyTags_eq, hqueue, hsending]
  have hfor : ∀ {t}, (∃ f ∈ fw, f.tag = t) → ∃ f ∈ fw', f.tag = t := fun {t} hf => by
    have hmem : t ∈ fw'.map (·.tag) := hfw ▸ List.mem_map.mpr hf
    exact List.mem_map.mp hmem
  have hfor' : ∀ {t}, (∃ f ∈ fw', f.tag = t) → ∃ f ∈ fw, f.tag = t := fun {t} hf => by
    have hmem : t ∈ fw.map (·.tag) := hfw ▸ List.mem_map.mpr hf
    exact List.mem_map.mp hmem
  refine ⟨hin ▸ k.count, hin ▸ k.tags, hin ▸ k.handed, hin ▸ k.owner, htags ▸ k.replies, htags ▸ hin ▸ k.sending,
    hqueue ▸ k.refusals, hqueue ▸ k.events, hfw ▸ k.forwards, fun f hf => ?_, fun tag ht => hfor (k.items tag (hq tag ht))⟩
  obtain ⟨f', hf', heq⟩ := hfor' ⟨f, hf, rfl⟩
  rw [hin, ← heq]
  exact k.waiting f' hf'

theorem replyTags_queue_append (h : HostPort) (x : QFrame) :
    replyTags { h with queue := h.queue ++ [x] } = replyTags h ++ (replyTag x).toList := by
  rw [replyTags_eq, replyTags_eq]
  cases x <;> simp [replyTag]

/-- A frame that answers no entry joins the send queue. -/
theorem PortMid.append {x : QFrame} (k : PortMid o h fw q) (hx : replyTag x = none)
    (hrefusal : isRefusal x = true → (h.queue.filter isRefusal).length < 3)
    (hevent : x = .event → QFrame.event ∉ h.queue) : PortMid o { h with queue := h.queue ++ [x] } fw q := by
  have htags : replyTags { h with queue := h.queue ++ [x] } = replyTags h := by
    rw [replyTags_queue_append, hx, Option.toList_none, List.append_nil]
  refine ⟨k.count, k.tags, k.handed, k.owner, htags ▸ k.replies, fun t ht => k.sending t (htags ▸ ht), ?_, ?_, k.forwards,
    k.waiting, k.items⟩
  · have := k.refusals
    simp only [List.filter_append, List.length_append]
    by_cases hr : isRefusal x = true
    · have := hrefusal hr
      simp [hr]
      omega
    · simpa [hr] using this
  · have := k.events
    simp only [List.filter_append, List.length_append]
    by_cases he : x = .event
    · have hnone : h.queue.filter (· == .event) = [] := by
        simpa [List.filter_eq_nil_iff] using fun y hy => by rintro rfl; exact hevent he hy
      simp [he, hnone]
    · simpa [he] using this

theorem PortMid.arrangeEvent (k : PortMid o h fw q) : PortMid o (arrangeEvent h) fw q := by
  unfold Machine.arrangeEvent
  split
  · exact k
  · rename_i hc
    exact k.append rfl (by simp [isRefusal]) (fun _ => by simpa using hc)

theorem PortMid.latchMask {s : Part} {m : BitVec 14} (k : PortMid o s.host fw q) : PortMid o (latchMask m s).host fw q := by
  have k' : PortMid o { s.host with latched := s.host.latched ||| m } fw q := k.congr rfl rfl rfl rfl fun _ => id
  unfold Machine.latchMask
  dsimp only
  split
  · exact k'.arrangeEvent
  · exact k'

theorem PortMid.refuse {tag kind : Byte} {r : Result} (k : PortMid o h fw q) : PortMid o (refuse tag kind r h) fw q := by
  unfold Machine.refuse
  dsimp only
  rw [filter_isRefusal fun x => by cases x <;> rfl]
  split
  · rename_i hc
    exact k.append rfl (fun _ => hc) (by simp)
  · exact k

/-- A request takes an entry and goes to its owner. -/
theorem PortMid.take {tag kind : Byte} (k : PortMid none h fw q) (hcount : h.inFlight.length < 4)
    (hfree : ∀ e ∈ h.inFlight, e.tag ≠ tag) :
    PortMid (some tag) { h with inFlight := h.inFlight ++ [{ tag := tag, kind := kind, phase := .handed }] } fw q := by
  refine ⟨by simp; omega, ?_, ?_, ?_, k.replies, ?_, k.refusals, k.events, k.forwards, ?_, k.items⟩
  · simp only [List.map_append, List.map_cons, List.map_nil]
    refine List.nodup_append.mpr ⟨k.tags, by simp, fun a ha b hb => ?_⟩
    obtain ⟨e, he, rfl⟩ := List.mem_map.mp ha
    obtain rfl : b = tag := by simpa using hb
    exact hfree e he
  · intro e he hp
    obtain he | he := List.mem_append.mp he
    · exact absurd (k.handed e he hp) (by simp)
    · obtain rfl := List.mem_singleton.mp he
      rfl
  · intro t ht
    cases ht
    exact ⟨_, List.mem_append_right _ List.mem_cons_self, rfl, rfl⟩
  · intro t ht
    obtain ⟨e, he, h1, h2⟩ := k.sending t ht
    exact ⟨e, by simp [he], h1, h2⟩
  · intro f hf
    obtain ⟨e, he, h1, h2⟩ := k.waiting f hf
    exact ⟨e, by simp [he], h1, h2⟩

/-- An entry's phase written, wherever its tag stands. -/
def setPhase (tag : Byte) (p : ReqPhase) (e : InFlight) : InFlight := if e.tag == tag then { e with phase := p } else e

@[simp] theorem setPhase_tag (tag : Byte) (p : ReqPhase) (e : InFlight) : (setPhase tag p e).tag = e.tag := by
  unfold setPhase
  split <;> rfl

theorem setPhase_of_ne {tag : Byte} {p : ReqPhase} {e : InFlight} (h : e.tag ≠ tag) : setPhase tag p e = e := by
  simp [setPhase, h]

theorem setPhase_phase {tag : Byte} {p : ReqPhase} {e : InFlight} (h : e.tag = tag) : (setPhase tag p e).phase = p := by
  simp [setPhase, h]

theorem setPhase_tags (tag : Byte) (p : ReqPhase) (es : List InFlight) : (es.map (setPhase tag p)).map (·.tag) = es.map (·.tag) := by
  rw [List.map_map]
  exact List.map_congr_left fun e _ => setPhase_tag ..

/-- An entry of another tag stands as it was. -/
theorem mem_setPhase {tag t : Byte} {p : ReqPhase} {es : List InFlight} {P : InFlight → Prop} (ht : t ≠ tag)
    (h : ∃ e ∈ es, e.tag = t ∧ P e) : ∃ e ∈ es.map (setPhase tag p), e.tag = t ∧ P e := by
  obtain ⟨e, he, h1, h2⟩ := h
  have hne : e.tag ≠ tag := h1 ▸ ht
  exact ⟨e, List.mem_map.mpr ⟨e, he, setPhase_of_ne hne⟩, h1, h2⟩

/-- With distinct tags an entry that is not SENDING has no reply yet. -/
theorem PortMid.not_reply {e : InFlight} (k : PortMid o h fw q) (he : e ∈ h.inFlight) (hp : e.phase ≠ .sending) :
    e.tag ∉ replyTags h := by
  intro hmem
  obtain ⟨e', he', ht, hp'⟩ := k.sending _ hmem
  exact hp (List.inj_on_of_nodup_map k.tags he' he ht ▸ hp')

/-- The owner answers a request that it holds or that waited: its entry is SENDING and its reply queued. -/
theorem PortMid.answer {o' : Option Byte} {e : InFlight} {tag kind : Byte} {r : Result} {d : List Byte}
    (k : PortMid o h fw q) (he : e ∈ h.inFlight) (htag : e.tag = tag) (hp : e.phase ≠ .sending)
    (hfw : ∀ f ∈ fw, f.tag ≠ tag) (ho : ∀ t, o' = some t ↔ o = some t ∧ t ≠ tag) :
    PortMid o' { h with inFlight := h.inFlight.map (setPhase tag .sending)
                        queue := h.queue ++ [.reply tag kind r d] } fw q := by
  have htags : replyTags { h with inFlight := h.inFlight.map (setPhase tag .sending)
                                  queue := h.queue ++ [.reply tag kind r d] } = replyTags h ++ [tag] := by
    rw [replyTags_eq, replyTags_eq]
    simp [replyTag]
  refine ⟨by simpa using k.count, by rw [setPhase_tags]; exact k.tags, ?_, ?_, ?_, ?_, ?_, ?_, k.forwards, ?_, k.items⟩
  · intro x hx hxp
    obtain ⟨y, hy, rfl⟩ := List.mem_map.mp hx
    by_cases hyt : y.tag = tag
    · rw [setPhase_phase hyt] at hxp
      cases hxp
    · rw [setPhase_of_ne hyt] at hxp ⊢
      exact (ho y.tag).mpr ⟨k.handed y hy hxp, hyt⟩
  · intro t ht
    obtain ⟨hot, hne⟩ := (ho t).mp ht
    exact mem_setPhase hne (k.owner t hot)
  · rw [htags]
    refine List.nodup_append.mpr ⟨k.replies, by simp, fun a ha b hb => ?_⟩
    obtain rfl : b = tag := by simpa using hb
    rintro rfl
    exact k.not_reply he hp (htag ▸ ha)
  · intro t ht
    rw [htags] at ht
    by_cases hne : t = tag
    · exact ⟨setPhase tag .sending e, List.mem_map_of_mem he, by rw [setPhase_tag, htag, hne], setPhase_phase htag⟩
    · have hmem : t ∈ replyTags h := by simpa [hne] using ht
      exact mem_setPhase hne (k.sending t hmem)
  · simpa [isRefusal] using k.refusals
  · simpa using k.events
  · exact fun f hf => mem_setPhase (hfw f hf) (k.waiting f hf)

/-- A request waits for its forward: its entry is WAITING, and the forward and its item join the tails. -/
theorem PortMid.wait {f : Forward} {tag : Byte} (k : PortMid (some tag) h fw q) (hf : f.tag = tag) :
    PortMid none { h with inFlight := h.inFlight.map (setPhase tag .waiting) } (fw ++ [f]) (q ++ [.noticeFwd tag]) := by
  obtain ⟨e, he, htag, hp⟩ := k.owner tag rfl
  have hfree : ∀ g ∈ fw, g.tag ≠ tag := by
    intro g hg hgt
    obtain ⟨e', he', ht', hp'⟩ := k.waiting g hg
    have := List.inj_on_of_nodup_map k.tags he' he (by rw [ht', hgt, htag])
    rw [this, hp] at hp'
    cases hp'
  have hreply : tag ∉ replyTags h := htag ▸ k.not_reply he (by simp [hp])
  refine ⟨by simpa using k.count, by rw [setPhase_tags]; exact k.tags, ?_, by simp, k.replies, ?_, k.refusals, k.events, ?_, ?_, ?_⟩
  · intro x hx hxp
    obtain ⟨y, hy, rfl⟩ := List.mem_map.mp hx
    by_cases hyt : y.tag = tag
    · rw [setPhase_phase hyt] at hxp
      cases hxp
    · rw [setPhase_of_ne hyt] at hxp
      exact absurd (by simpa using k.handed y hy hxp) (Ne.symm hyt)
  · intro t ht
    exact mem_setPhase (fun heq => hreply (heq ▸ ht)) (k.sending t ht)
  · simp only [List.map_append, List.map_cons, List.map_nil]
    refine List.nodup_append.mpr ⟨k.forwards, by simp, fun a ha b hb => ?_⟩
    obtain ⟨g, hg, rfl⟩ := List.mem_map.mp ha
    obtain rfl : b = f.tag := by simpa using hb
    exact hf ▸ hfree g hg
  · intro g hg
    obtain hg | hg := List.mem_append.mp hg
    · exact mem_setPhase (hfree g hg) (k.waiting g hg)
    · obtain rfl := List.mem_singleton.mp hg
      exact ⟨_, List.mem_map_of_mem he, by rw [setPhase_tag, htag, hf], setPhase_phase htag⟩
  · intro t ht
    obtain ht | ht := List.mem_append.mp ht
    · obtain ⟨g, hg, hgt⟩ := k.items t ht
      exact ⟨g, by simp [hg], hgt⟩
    · obtain rfl : t = tag := by simpa using ht
      exact ⟨f, by simp, hf⟩

/-- Forwards that leave the list, with their items. -/
theorem PortMid.dropForwards {p : Forward → Bool} {q' : List LineItem} (k : PortMid o h fw q)
    (hq : ∀ tag, LineItem.noticeFwd tag ∈ q' → LineItem.noticeFwd tag ∈ q ∧ ∀ f ∈ fw, f.tag = tag → p f = true) :
    PortMid o h (fw.filter p) q' := by
  refine ⟨k.count, k.tags, k.handed, k.owner, k.replies, k.sending, k.refusals, k.events,
    k.forwards.sublist (List.filter_sublist.map _), fun f hf => k.waiting f (List.mem_of_mem_filter hf), fun tag ht => ?_⟩
  obtain ⟨hmem, hkeep⟩ := hq tag ht
  obtain ⟨f, hf, hft⟩ := k.items tag hmem
  exact ⟨f, List.mem_filter.mpr ⟨hf, hkeep f hf hft⟩, hft⟩

/-- The entry of a sent reply leaves the table. -/
theorem PortMid.entryDone {x : SentFrame} (k : PortMid o h fw q) (hx : h.sending = some x) : PortMid o (entryDone x h) fw q := by
  have htags : replyTags (Machine.entryDone x h) = h.queue.filterMap replyTag := by rw [replyTags_eq]; rfl
  cases hentry : x.entry with
  | none =>
    have hsame : replyTags h = h.queue.filterMap replyTag := by rw [replyTags_eq, hx]; simp [hentry]
    have hin : (Machine.entryDone x h).inFlight = h.inFlight := by simp [Machine.entryDone, hentry]
    refine ⟨hin ▸ k.count, hin ▸ k.tags, hin ▸ k.handed, hin ▸ k.owner, ?_, ?_, k.refusals, k.events, k.forwards,
      hin ▸ k.waiting, k.items⟩
    · rw [htags, ← hsame]
      exact k.replies
    · rw [htags, ← hsame, hin]
      exact k.sending
  | some tag =>
    have hsame : replyTags h = tag :: h.queue.filterMap replyTag := by rw [replyTags_eq, hx]; simp [hentry]
    have hin : (Machine.entryDone x h).inFlight = h.inFlight.filter fun e => e.tag != tag := by simp [Machine.entryDone, hentry]
    obtain ⟨e, he, het, hep⟩ := k.sending tag (by simp [hsame])
    have hother : ∀ y ∈ h.inFlight, y.phase ≠ .sending → y.tag ≠ tag := by
      intro y hy hyp hyt
      exact hyp (List.inj_on_of_nodup_map k.tags he hy (het.trans hyt.symm) ▸ hep)
    have hkeep : ∀ {t : Byte} {p : ReqPhase}, t ≠ tag → (∃ y ∈ h.inFlight, y.tag = t ∧ y.phase = p) →
        ∃ y ∈ (Machine.entryDone x h).inFlight, y.tag = t ∧ y.phase = p := by
      rintro t p ht ⟨y, hy, h1, h2⟩
      exact ⟨y, by rw [hin]; exact List.mem_filter.mpr ⟨hy, by simp [h1, ht]⟩, h1, h2⟩
    obtain ⟨hnot, hnodup⟩ := List.nodup_cons.mp (hsame ▸ k.replies)
    refine ⟨?_, ?_, ?_, ?_, htags ▸ hnodup, ?_, k.refusals, k.events, k.forwards, ?_, k.items⟩
    · rw [hin]
      exact (List.length_filter_le ..).trans k.count
    · rw [hin]
      exact k.tags.sublist (List.filter_sublist.map _)
    · intro y hy
      exact k.handed y (List.mem_of_mem_filter (hin ▸ hy))
    · intro t ht
      obtain ⟨y, hy, h1, h2⟩ := k.owner t ht
      exact hkeep (h1 ▸ hother y hy (by simp [h2])) ⟨y, hy, h1, h2⟩
    · intro t ht
      rw [htags] at ht
      exact hkeep (fun heq => hnot (heq ▸ ht)) (k.sending t (by simp [hsame, ht]))
    · intro f hf
      obtain ⟨y, hy, h1, h2⟩ := k.waiting f hf
      exact hkeep (h1 ▸ hother y hy (by simp [h2])) ⟨y, hy, h1, h2⟩

/-- The next frame and what is left of a send queue: the EVENT frames before it are dropped. -/
theorem nextFrame_split (b : Bool) (q : List QFrame) :
    q.filterMap replyTag = ((nextFrame b q).1.bind replyTag).toList ++ (nextFrame b q).2.filterMap replyTag ∧
      (nextFrame b q).2.Sublist q := by
  induction q with
  | nil => simp [nextFrame]
  | cons x q ih =>
    have hevent (l : List QFrame) : (QFrame.event :: l).filterMap replyTag = l.filterMap replyTag :=
      List.filterMap_cons_none rfl
    cases x with
    | event =>
      unfold nextFrame
      split
      · exact ⟨by rw [hevent]; exact ih.1, ih.2.trans (List.sublist_cons_self ..)⟩
      · exact ⟨hevent q, List.sublist_cons_self ..⟩
    | reply tag kind r d => exact ⟨List.filterMap_cons_some rfl, List.sublist_cons_self ..⟩
    | refusal tag kind r => exact ⟨List.filterMap_cons_none rfl, List.sublist_cons_self ..⟩

@[simp] theorem sentFrame_entry (s : Part) (x : QFrame) : (sentFrame s x).entry = replyTag x := by cases x <;> rfl

theorem PortMid.pump {s : Part} (k : PortMid o s.host fw q) : PortMid o (pump s).host fw q := by
  unfold Machine.pump
  split
  · rename_i hc
    have hidle : s.host.sending = none := by simp_all
    obtain ⟨hsplit, hsub⟩ := nextFrame_split (reported s.host == 0#14) s.host.queue
    generalize nextFrame (reported s.host == 0#14) s.host.queue = y at hsplit hsub
    obtain ⟨x, rest⟩ := y
    have htags : replyTags { s.host with queue := rest, sending := x.map (sentFrame s) } = replyTags s.host := by
      rw [replyTags_eq, replyTags_eq, hidle, hsplit]
      cases x <;> simp
    exact ⟨k.count, k.tags, k.handed, k.owner, htags ▸ k.replies, fun t ht => k.sending t (htags ▸ ht),
      (hsub.filter _).length_le.trans k.refusals, (hsub.filter _).length_le.trans k.events, k.forwards, k.waiting, k.items⟩
  · exact k

end

/-! ### What an answer does -/

theorem answer_of_find {tag : Byte} {r : Result} {d : List Byte} {s : Part} {e : InFlight}
    (h : s.host.inFlight.find? (fun e => e.tag == tag) = some e) :
    answer tag r d s = { s with host := { s.host with
      inFlight := s.host.inFlight.map (setPhase tag .sending), queue := s.host.queue ++ [.reply tag e.kind r d] } } := by
  unfold answer
  rw [h]
  rfl

theorem answer_of_not_find {tag : Byte} {r : Result} {d : List Byte} {s : Part}
    (h : s.host.inFlight.find? (fun e => e.tag == tag) = none) : answer tag r d s = s := by
  unfold answer
  rw [h]

/-- An answer changes the Host Port alone. -/
theorem answer_eq (tag : Byte) (r : Result) (d : List Byte) (s : Part) :
    answer tag r d s = { s with host := (answer tag r d s).host } := by
  unfold answer
  split <;> rfl

theorem exists_find_of_mem {tag : Byte} {es : List InFlight} {e : InFlight} (he : e ∈ es) (htag : e.tag = tag) :
    ∃ x, es.find? (fun e => e.tag == tag) = some x := by
  have hany : (es.find? fun e => e.tag == tag).isSome := by
    rw [List.find?_isSome]
    exact ⟨e, he, by simpa using htag⟩
  exact Option.isSome_iff_exists.mp hany

theorem PortMid.answer_host {o o' : Option Byte} {s : Part} {fw : List Forward} {q : List LineItem} {e : InFlight}
    {tag : Byte} {r : Result} {d : List Byte} (k : PortMid o s.host fw q) (he : e ∈ s.host.inFlight) (htag : e.tag = tag)
    (hp : e.phase ≠ .sending) (hfw : ∀ f ∈ fw, f.tag ≠ tag) (ho : ∀ t, o' = some t ↔ o = some t ∧ t ≠ tag) :
    PortMid o' (Machine.answer tag r d s).host fw q := by
  obtain ⟨x, hx⟩ := exists_find_of_mem he htag
  rw [answer_of_find hx]
  exact k.answer he htag hp hfw ho

end Sys2Proof.Proofs.Port
end

section
/-! The bounds of the formation's stores (R2, R79, R83, R89, R90, R130): records, positions, tallies and late answers. -/
namespace Sys2Proof.Proofs.FormationStores
open Sys2Proof Sys2Proof.Machine

/-! ### Records and positions -/

/-- At most three units of at most eight coaches. -/
def RecordOk (r : FormRecord) : Prop := r.units.length ≤ 3 ∧ ∀ u ∈ r.units, u.booked.length ≤ 8

/-- Tallies with a position of 1..24 each, no position twice. -/
def TallyLaw (l : List TallyEntry) : Prop := (l.map (·.position)).Nodup ∧ ∀ e ∈ l, 1 ≤ e.position ∧ e.position ≤ 24

/-- A roll call with at most one answer collected. -/
def RollOk (x : Option (List RollAnswerFrame)) : Prop := ∀ l, x = some l → l.length ≤ 1 ∧ ∀ f ∈ l, f.booked.length ≤ 8

/-- The bounds of the formation's stores, over the part. -/
structure FormLaw (s : Part) : Prop where
  coaches : s.unit.coaches.length ≤ 8
  record : RecordOk s.form.record
  roll : RollOk s.form.rollCall
  tally : TallyLaw s.form.trainTally
  summary : s.seat.summary.length ≤ 6
  late : s.form.late.Nodup ∧ s.form.late.length ≤ 8

theorem TallyLaw.length_le {l : List TallyEntry} (h : TallyLaw l) : l.length ≤ 24 := by
  have hsub : l.map (·.position) ⊆ List.range' 1 24 := by
    intro p hp
    obtain ⟨e, he, rfl⟩ := List.mem_map.mp hp
    have := h.2 e he
    rw [List.mem_range'_1]
    omega
  simpa using (h.1.subperm hsub).length_le

theorem formationBounds_iff (s : State) : FormationBounds s ↔ (∀ c ∈ s.pending, c.wf = true) ∧ FormLaw s.part := by
  constructor
  · rintro ⟨h1, h2, h3, h4, h5, -, h7, h8, h9, h10, h11⟩
    exact ⟨h1, h2, ⟨h3, h4⟩, h5, ⟨h7, h8⟩, h9, h10, h11⟩
  · rintro ⟨h1, h⟩
    exact ⟨h1, h.coaches, h.record.1, h.record.2, h.roll, h.tally.length_le, h.tally.1, h.tally.2, h.summary, h.late.1,
      h.late.2⟩

theorem map_mapFrom {α β γ : Type} (f : Nat → α → β) (g : β → γ) (p : Nat → γ) (h : ∀ i x, g (f i x) = p i) (k : Nat) (l : List α) :
    (mapFrom f k l).map g = (List.range' k l.length).map p := by
  induction l generalizing k with
  | nil => rfl
  | cons x l ih => simp [mapFrom, h, ih, List.range'_succ]

/-- The position of a unit's coach after a base: its coaches stand in index order, or against it in a REVERSED unit. -/
def coachPosition (base : Nat) (u : UnitEntry) (i : Nat) : Nat :=
  if u.orientation == .reversed then base + u.booked.length - i else base + i + 1

theorem unitPositions_perm (base index : Nat) (u : UnitEntry) : ((unitPositions base index u).map (·.position)).Perm
    ((List.range' 0 u.booked.length).map (coachPosition base u)) := by
  unfold unitPositions coachPosition
  dsimp only
  split
  · rw [List.map_reverse]
    refine (List.reverse_perm _).trans (List.Perm.of_eq ?_)
    apply map_mapFrom
    intros; rfl
  · apply List.Perm.of_eq
    apply map_mapFrom
    intros; rfl

/-- The coaches of one unit take the positions that follow the base, each once. -/
theorem unitPositions_position (base index : Nat) (u : UnitEntry) :
    ((unitPositions base index u).map (·.position)).Nodup ∧
      ∀ x ∈ unitPositions base index u, base < x.position ∧ x.position ≤ base + u.booked.length := by
  have hperm := unitPositions_perm base index u
  refine ⟨hperm.nodup_iff.mpr ((List.nodup_map_iff_inj_on (List.nodup_range' ..)).mpr fun i hi j hj heq => ?_), fun x hx => ?_⟩
  · rw [List.mem_range'_1] at hi hj
    unfold coachPosition at heq
    split at heq <;> omega
  · obtain ⟨i, hi, heq⟩ := List.mem_map.mp (hperm.mem_iff.mp (List.mem_map_of_mem hx))
    rw [List.mem_range'_1] at hi
    unfold coachPosition at heq
    split at heq <;> omega

theorem positionsFrom_position (base index : Nat) (us : List UnitEntry) :
    ((positionsFrom base index us).map (·.position)).Nodup ∧
      ∀ x ∈ positionsFrom base index us, base < x.position ∧ x.position ≤ base + (us.map (·.booked.length)).sum := by
  induction us generalizing base index with
  | nil => simp [positionsFrom]
  | cons u us ih =>
    obtain ⟨h1, h2⟩ := unitPositions_position base index u
    obtain ⟨h3, h4⟩ := ih (base + u.booked.length) (index + 1)
    simp only [positionsFrom, List.map_append, List.map_cons, List.sum_cons]
    refine ⟨List.nodup_append.mpr ⟨h1, h3, fun a ha b hb => ?_⟩, fun x hx => ?_⟩
    · obtain ⟨x, hx, rfl⟩ := List.mem_map.mp ha
      obtain ⟨y, hy, rfl⟩ := List.mem_map.mp hb
      have := h2 x hx
      have := h4 y hy
      omega
    · obtain hx | hx := List.mem_append.mp hx
      · have := h2 x hx
        omega
      · have := h4 x hx
        omega

/-- The positions of a record in its bounds are 1..24, each once. -/
theorem RecordOk.positions {r : FormRecord} (h : RecordOk r) :
    ((positions r).map (·.position)).Nodup ∧ ∀ x ∈ positions r, 1 ≤ x.position ∧ x.position ≤ 24 := by
  obtain ⟨h1, h2⟩ := positionsFrom_position 0 1 r.units
  refine ⟨h1, fun x hx => ?_⟩
  have hx' := h2 x hx
  have hsum : (r.units.map (·.booked.length)).sum ≤ r.units.length * 8 := by
    have := List.sum_le_card_nsmul (r.units.map (·.booked.length)) 8 (by simpa using h.2)
    simpa using this
  have := h.1
  omega

theorem recordOk_ownAlone {s : Part} (h : s.unit.coaches.length ≤ 8) : RecordOk (ownAlone s) := by
  simp [RecordOk, ownAlone, ownEntry, bookedNumbers, h]

theorem FormLaw.inForce {s : Part} (h : FormLaw s) : RecordOk (inForce s) := by
  unfold Machine.inForce
  split
  · exact recordOk_ownAlone h.coaches
  · exact h.record

/-! ### Tallies -/

theorem sortBy_perm {α : Type} (before : α → α → Bool) (l : List α) : (sortBy before l).Perm l := by
  induction l with
  | nil => exact List.Perm.refl _
  | cons x l ih => exact (insertBy_perm _ x _).trans (ih.cons x)

theorem TallyLaw.perm {l l' : List TallyEntry} (h : TallyLaw l) (hp : l'.Perm l) : TallyLaw l' :=
  ⟨(hp.map _).nodup_iff.mpr h.1, fun e he => h.2 e (hp.mem_iff.mp he)⟩

theorem TallyLaw.filter {l : List TallyEntry} (h : TallyLaw l) (p : TallyEntry → Bool) : TallyLaw (l.filter p) :=
  ⟨h.1.sublist (List.filter_sublist.map _), fun e he => h.2 e (List.mem_of_mem_filter he)⟩

theorem TallyLaw.write {new old : List TallyEntry} (hnew : TallyLaw new) (hold : TallyLaw old) :
    TallyLaw (writeTallies new old) := by
  refine TallyLaw.perm ⟨?_, fun e he => ?_⟩ (sortBy_perm _ _)
  · rw [List.map_append]
    refine List.nodup_append.mpr ⟨(hold.filter _).1, hnew.1, fun a ha b hb => ?_⟩
    obtain ⟨x, hx, rfl⟩ := List.mem_map.mp ha
    obtain ⟨y, hy, rfl⟩ := List.mem_map.mp hb
    have hno := (List.mem_filter.mp hx).2
    simp only [Bool.not_eq_true', List.any_eq_false, beq_iff_eq] at hno
    exact fun heq => hno y hy heq.symm
  · obtain he | he := List.mem_append.mp he
    · exact hold.2 e (List.mem_of_mem_filter he)
    · exact hnew.2 e he

theorem tallyLaw_own {s : Part} (h : FormLaw s) : TallyLaw (ownTallyEntries s) := by
  obtain ⟨h1, h2⟩ := h.inForce.positions
  refine ⟨?_, fun e he => ?_⟩
  · rw [ownTallyEntries, List.map_map]
    exact h1.sublist (List.filter_sublist.map _)
  · obtain ⟨x, hx, rfl⟩ := List.mem_map.mp he
    exact h2 x (List.mem_of_mem_filter hx)

/-- Writing the own entries keeps the bounds of the table. -/
theorem FormLaw.ownTallies {s : Part} (h : FormLaw s) : TallyLaw (writeOwnTallies s).form.trainTally :=
  (tallyLaw_own h).write (h.tally.filter _)

theorem tallyFrame_wf {f : TallyFrame} (h : f.wf = true) : f.coaches.length ≤ 8 ∧ TallyLaw (frameTallies f) := by
  simp only [TallyFrame.wf, Bool.and_eq_true, decide_eq_true_eq, List.all_eq_true] at h
  obtain ⟨⟨⟨-, hlen⟩, hall⟩, hnodup⟩ := h
  refine ⟨hlen, ?_, fun e he => ?_⟩
  · simpa [frameTallies, Function.comp_def] using hnodup
  · obtain ⟨c, hc, rfl⟩ := List.mem_map.mp he
    have := hall c hc
    show 1 ≤ c.position ∧ c.position ≤ 24
    omega

theorem recordOk_tallyRecord {f : TallyFrame} {r : FormRecord} (h : RecordOk r) (hf : f.coaches.length ≤ 8) :
    RecordOk (tallyRecord f r) := by
  have hmap := DisplayLine.mapFrom_eq_map_zipIdx
    (fun i u => if i + 1 != r.ownIndex && u.unitId == f.unitId then tallyEntry f u else u) 0 r.units
  refine ⟨?_, fun u hu => ?_⟩
  · simp only [tallyRecord, hmap, List.length_map, List.length_zipIdx]
    exact h.1
  · simp only [tallyRecord, hmap] at hu
    obtain ⟨⟨x, i⟩, hx, rfl⟩ := List.mem_map.mp hu
    dsimp only
    split
    · simpa [tallyEntry] using hf
    · exact h.2 x (List.fst_mem_of_mem_zipIdx hx)

theorem length_seatSummary (s : Part) : (seatSummary s).length ≤ 6 := by
  simp [seatSummary]

/-! ### Roll calls -/

theorem length_collect (x : RollAnswerFrame) (l : List RollAnswerFrame) : (collect x l).length ≤ l.length + 1 := by
  rw [collect, (insertBy_perm ..).length_eq, List.length_cons]
  exact Nat.succ_le_succ (List.length_filter_le ..)

theorem mem_collect {x y : RollAnswerFrame} {l : List RollAnswerFrame} (h : y ∈ collect x l) : y = x ∨ y ∈ l := by
  obtain rfl | h := List.mem_cons.mp ((insertBy_perm ..).mem_iff.mp h)
  · exact Or.inl rfl
  · exact Or.inr (List.mem_of_mem_filter h)

theorem recordOk_rollRecord {s : Part} {l : List RollAnswerFrame} (hcoaches : s.unit.coaches.length ≤ 8)
    (hlen : l.length ≤ 2) (hbooked : ∀ f ∈ l, f.booked.length ≤ 8) : RecordOk (rollRecord s l) := by
  refine ⟨by simp [rollRecord]; omega, fun u hu => ?_⟩
  obtain rfl | hu := List.mem_cons.mp hu
  · simpa [ownEntry, bookedNumbers] using hcoaches
  · obtain ⟨f, hf, rfl⟩ := List.mem_map.mp hu
    exact hbooked f hf

theorem bookedWf_length {ns : List Nat} (h : bookedWf ns = true) : ns.length ≤ 8 := by
  simp only [bookedWf, Bool.and_eq_true, decide_eq_true_eq] at h
  exact h.1

/-! ### Late answers -/

theorem addLate_law {l : List (Nat × Nat)} {x : Nat × Nat} (h : l.Nodup ∧ l.length ≤ 8) :
    (addLate l x).Nodup ∧ (addLate l x).length ≤ 8 := by
  unfold addLate
  split
  · exact h
  · rename_i hc
    have hx : x ∉ l := by simpa using hc
    split
    · rename_i hlt
      have hlt' : l.length < 8 := hlt
      refine ⟨List.nodup_append.mpr ⟨h.1, by simp, fun a ha b hb => ?_⟩, by simp; omega⟩
      rintro rfl
      exact hx (by simpa using (List.mem_singleton.mp hb) ▸ ha)
    · refine ⟨List.nodup_append.mpr ⟨h.1.sublist (List.drop_sublist ..), by simp, fun a ha b hb => ?_⟩, by simp; omega⟩
      rintro rfl
      exact hx (by simpa using (List.mem_singleton.mp hb) ▸ List.mem_of_mem_drop ha)

theorem lateAfter_law {n : Nat} {awaited : List Nat} {l : List (Nat × Nat)} (h : l.Nodup ∧ l.length ≤ 8) :
    (lateAfter n awaited l).Nodup ∧ (lateAfter n awaited l).length ≤ 8 := by
  induction awaited generalizing l with
  | nil => exact h
  | cons u us ih => exact ih (addLate_law h)

theorem length_lateAfter {n : Nat} {awaited : List Nat} {l : List (Nat × Nat)} (h : l.length ≤ 8) :
    (lateAfter n awaited l).length ≤ 8 := by
  have hstep : ∀ (l : List (Nat × Nat)) x, l.length ≤ 8 → (addLate l x).length ≤ 8 := by
    intro l x h
    unfold addLate
    split
    · exact h
    · split
      · rename_i hlt
        have hlt' : l.length < 8 := hlt
        simp
        omega
      · simp
        omega
  induction awaited generalizing l with
  | nil => exact h
  | cons u us ih => exact ih (hstep l _ h)

/-! ### Descriptions -/

theorem length_renumber (cs : List CoachRec) (ns : List Nat) : (renumber cs ns).length = cs.length := by
  induction cs generalizing ns with
  | nil => cases ns <;> rfl
  | cons c cs ih => cases ns <;> simp [renumber, ih]

end Sys2Proof.Proofs.FormationStores
end

section
/-! What a law-abiding change of the part is: each law of the invariants holds after it where it held before. Which laws
are followed is a parameter, so that a change which breaks one law for a moment still follows the others. -/
namespace Sys2Proof.Proofs.Changes
open Sys2Proof Sys2Proof.Machine Texts DisplayLine Legs Port FormationStores

-- The default evidence of `Lawful.of` is read from the checked environment: one proof after the other, no queue of threads.
set_option Elab.async false

/-- The laws of the invariants, and what is told of the reported set (R197, R198). -/
inductive Law where
  | clock | breaks | stops | legPool | counts | lineQueue | late | entries | slots | tag | thresholds
  | pool | line | legs | port | refs | form | events
deriving DecidableEq

/-- The law of the break count over the part (R178, R182). -/
def BreaksLaw (x : Part) : Prop :=
  x.supply.breakCount ≤ 15 ∧ x.host.params.breakLimit ≤ 15 ∧
    (x.host.params.breakLimit ≠ 0 → x.supply.breakCount ≤ x.host.params.breakLimit) ∧
    (Holding x → x.host.params.breakLimit ≠ 0 → x.supply.breakCount < x.host.params.breakLimit)

/-- From one Host Port to the next no kind leaves the reported set, a kind that joins it has an EVENT frame waiting, and no
other EVENT frame joins the queue (R197, R198). -/
structure Reports (h h' : HostPort) : Prop where
  kept : ∀ k, (reported h).getLsbD k = true → (reported h').getLsbD k = true
  waits : QFrame.event ∈ h.queue → QFrame.event ∈ h'.queue
  told : ∀ k, (reported h').getLsbD k = true → (reported h).getLsbD k = false → QFrame.event ∈ h'.queue
  only : QFrame.event ∈ h'.queue → QFrame.event ∈ h.queue ∨
    ∃ k, (reported h').getLsbD k = true ∧ (reported h).getLsbD k = false

/-- A Host Port with the same reported set and EVENT frame. -/
theorem Reports.same {h h' : HostPort} (hrep : reported h' = reported h)
    (hq : QFrame.event ∈ h'.queue ↔ QFrame.event ∈ h.queue) : Reports h h' where
  kept k hk := by rw [hrep]; exact hk
  waits := hq.mpr
  told k hk hn := by rw [hrep, hn] at hk; cases hk
  only hm := Or.inl (hq.mp hm)

theorem Reports.refl (h : HostPort) : Reports h h := Reports.same rfl Iff.rfl

theorem Reports.trans {h h' h'' : HostPort} (a : Reports h h') (b : Reports h' h'') : Reports h h'' where
  kept k hk := b.kept k (a.kept k hk)
  waits hm := b.waits (a.waits hm)
  told k hk hn := by
    by_cases hmid : (reported h').getLsbD k = true
    · exact b.waits (a.told k hmid hn)
    · exact b.told k hk (by simpa using hmid)
  only hm := by
    rcases b.only hm with hm' | ⟨k, hk, hn⟩
    · exact (a.only hm').imp_right fun ⟨k, hk, hn⟩ => ⟨k, b.kept k hk, hn⟩
    · refine Or.inr ⟨k, hk, ?_⟩
      by_contra h0
      rw [a.kept k (by simpa using h0)] at hn
      cases hn

/-- One law over a change of the part from `x` to `y`; `o` and `o'` are the tags of the request that is with its owner. -/
def Law.Kept (o o' : Option Byte) (x y : Part) : Law → Prop
  | .clock => x.route.clock ≤ 172799 → y.route.clock ≤ 172799
  | .breaks => BreaksLaw x → BreaksLaw y
  | .stops => x.route.stops.length ≤ 64 → y.route.stops.length ≤ 64
  | .legPool => x.res.legs.length ≤ 2048 → y.res.legs.length ≤ 2048
  | .counts => x.res.releaseCount ≤ 65535 ∧ x.res.orphanCount ≤ 65535 →
      y.res.releaseCount ≤ 65535 ∧ y.res.orphanCount ≤ 65535
  | .lineQueue => x.form.queue.length ≤ 16 → y.form.queue.length ≤ 16
  | .late => x.form.late.length ≤ 8 → y.form.late.length ≤ 8
  | .entries => x.host.inFlight.length ≤ 4 ∧ (x.host.inFlight.map (·.tag)).Nodup →
      y.host.inFlight.length ≤ 4 ∧ (y.host.inFlight.map (·.tag)).Nodup
  | .slots => x.panel.staff.length = 4 ∧ x.panel.service.length = 4 → y.panel.staff.length = 4 ∧ y.panel.service.length = 4
  | .tag => x.unit.portionTag ≤ 2 → y.unit.portionTag ≤ 2
  | .thresholds => x.host.params.offThreshold < x.host.params.onThreshold →
      y.host.params.offThreshold < y.host.params.onThreshold
  | .pool => PoolLaw x.text → PoolLaw y.text
  | .line => PointLaw x.disp → PointLaw y.disp
  | .legs => LegsLaw x.res.legs x.route.ownSeq → LegsLaw y.res.legs y.route.ownSeq
  | .port => PortMid o x.host x.form.forwards x.form.queue → PortMid o' y.host y.form.forwards y.form.queue
  | .refs => RefLaw x → RefLaw y
  | .form => FormLaw x → FormLaw y
  | .events => isRun y = true → isRun x = true ∧ Reports x.host y.host

/-- A change of the part that keeps the laws of a set. -/
def Lawful (T : Law → Prop) (o o' : Option Byte) (x y : Part) : Prop := ∀ l, T l → l.Kept o o' x y

variable {T : Law → Prop} {o o' o'' : Option Byte} {x y z s : Part}

/-- A change given by the laws that it touches; the others hold because their part of the state stands. -/
theorem Lawful.of
    (clock : T .clock → Law.clock.Kept o o' x y := by exact fun _ h => h)
    (breaks : T .breaks → Law.breaks.Kept o o' x y := by exact fun _ h => h)
    (stops : T .stops → Law.stops.Kept o o' x y := by exact fun _ h => h)
    (legPool : T .legPool → Law.legPool.Kept o o' x y := by exact fun _ h => h)
    (counts : T .counts → Law.counts.Kept o o' x y := by exact fun _ h => h)
    (lineQueue : T .lineQueue → Law.lineQueue.Kept o o' x y := by exact fun _ h => h)
    (late : T .late → Law.late.Kept o o' x y := by exact fun _ h => h)
    (entries : T .entries → Law.entries.Kept o o' x y := by exact fun _ h => h)
    (slots : T .slots → Law.slots.Kept o o' x y := by exact fun _ h => h)
    (tag : T .tag → Law.tag.Kept o o' x y := by exact fun _ h => h)
    (thresholds : T .thresholds → Law.thresholds.Kept o o' x y := by exact fun _ h => h)
    (pool : T .pool → Law.pool.Kept o o' x y := by exact fun _ h => h)
    (line : T .line → Law.line.Kept o o' x y := by exact fun _ h => h)
    (legs : T .legs → Law.legs.Kept o o' x y := by exact fun _ h => h)
    (port : T .port → Law.port.Kept o o' x y := by exact fun _ h => h)
    (refs : T .refs → Law.refs.Kept o o' x y := by exact fun _ h => h)
    (form : T .form → Law.form.Kept o o' x y := by exact fun _ h => ⟨h.1, h.2, h.3, h.4, h.5, h.6⟩)
    (events : T .events → Law.events.Kept o o' x y := by exact fun _ h => ⟨h, Reports.refl _⟩) :
    Lawful T o o' x y := fun l => by
  cases l
  case clock => exact clock
  case breaks => exact breaks
  case stops => exact stops
  case legPool => exact legPool
  case counts => exact counts
  case lineQueue => exact lineQueue
  case late => exact late
  case entries => exact entries
  case slots => exact slots
  case tag => exact tag
  case thresholds => exact thresholds
  case pool => exact pool
  case line => exact line
  case legs => exact legs
  case port => exact port
  case refs => exact refs
  case form => exact form
  case events => exact events

theorem Lawful.refl : Lawful T o o x x := .of

theorem Lawful.trans (h : Lawful T o o' x y) (k : Lawful T o' o'' y z) : Lawful T o o'' x z := fun l hl => by
  have hxy := h l hl
  have hyz := k l hl
  cases l
  case events =>
    intro hz
    obtain ⟨hy, hlast⟩ := hyz hz
    obtain ⟨hx, hfirst⟩ := hxy hy
    exact ⟨hx, hfirst.trans hlast⟩
  all_goals exact fun hx => hyz (hxy hx)

/-- The same, the last change named first. -/
theorem Lawful.after (k : Lawful T o' o'' y z) (h : Lawful T o o' x y) : Lawful T o o'' x z := h.trans k

/-- A law that a chain of changes breaks on its way is kept where it is shown for the whole chain. -/
theorem Lawful.except (a : Law) (h : Lawful (fun l => T l ∧ l ≠ a) o o' x y) (k : T a → a.Kept o o' x y) :
    Lawful T o o' x y := fun l hl => by
  by_cases ha : l = a
  · subst ha
    exact k hl
  · exact h l ⟨hl, ha⟩

theorem Lawful.ite {c : Prop} [Decidable c] (h : Lawful T o o' s x) (k : Lawful T o o' s y) :
    Lawful T o o' s (if c then x else y) := by
  split
  · exact h
  · exact k

theorem Lawful.foldl {α : Type} {f : Part → α → Part} (h : ∀ s a, Lawful T o o s (f s a)) (l : List α) :
    Lawful T o o s (l.foldl f s) := by
  induction l generalizing s with
  | nil => exact .refl
  | cons a l ih => exact (h s a).trans ih

/-! ### Events -/

theorem Reports.latched {s : Part} {m : BitVec 14} (h : isRun s = true) : Reports s.host (latchMask m s).host := by
  have hrep : reported (latchMask m s).host = (s.host.latched ||| m) &&& s.host.params.enable := by
    unfold latchMask reported
    dsimp only
    split <;> simp
  have hkept (k : Nat) (hk : (reported s.host).getLsbD k = true) : (reported (latchMask m s).host).getLsbD k = true := by
    rw [hrep]
    simp only [reported, BitVec.getLsbD_and, BitVec.getLsbD_or, Bool.and_eq_true, Bool.or_eq_true] at hk ⊢
    exact ⟨Or.inl hk.1, hk.2⟩
  by_cases hsame : reported (latchMask m s).host = reported s.host
  · refine Reports.same hsame ?_
    rw [hrep] at hsame
    simp [latchMask, reported, hsame]
  · have hmem : QFrame.event ∈ (latchMask m s).host.queue := by
      rw [hrep] at hsame
      unfold latchMask
      dsimp only
      rw [if_pos (by simpa [h, reported] using hsame)]
      unfold arrangeEvent
      split <;> simp_all
    refine ⟨hkept, fun _ => hmem, fun _ _ _ => hmem, fun _ => Or.inr ?_⟩
    by_contra hno
    refine hsame (BitVec.eq_of_getLsbD_eq fun k hk => ?_)
    cases hb : (reported s.host).getLsbD k
    · by_contra hne
      exact hno ⟨k, by simpa using hne, hb⟩
    · exact hkept k hb

@[simp] theorem arrangeEvent_inFlight (h : HostPort) : (arrangeEvent h).inFlight = h.inFlight := by
  unfold arrangeEvent; split <;> rfl

@[simp] theorem latchMask_inFlight (m : BitVec 14) (s : Part) : (latchMask m s).host.inFlight = s.host.inFlight := by
  unfold latchMask; dsimp only; split <;> simp

@[simp] theorem latchMask_params (m : BitVec 14) (s : Part) : (latchMask m s).host.params = s.host.params := by
  unfold latchMask; dsimp only; split <;> simp

theorem latchMask_lawful (m : BitVec 14) : Lawful T o o s (latchMask m s) :=
  .of (breaks := fun _ h => by
        have hp := latchMask_params m s
        unfold Law.Kept BreaksLaw at *
        rw [hp]
        exact h)
    (entries := fun _ h => by rw [latchMask_inFlight]; exact h)
    (thresholds := fun _ h => by rw [latchMask_params]; exact h)
    (port := fun _ h => h.latchMask)
    (events := fun _ h => ⟨h, Reports.latched h⟩)

theorem latch_lawful (k : EventKind) : Lawful T o o s (latch k s) := latchMask_lawful _

end Sys2Proof.Proofs.Changes
end

section
/-! The shared operations of seats, panels and texts are law-abiding, one lemma each, in the order of the model. -/
namespace Sys2Proof.Proofs.Changes
open Sys2Proof Sys2Proof.Machine Texts DisplayLine Legs Port FormationStores

-- The default evidence of `Lawful.of` is read from the checked environment: one proof after the other, no queue of threads.
set_option Elab.async false

variable {T : Law → Prop} {o o' o'' : Option Byte} {x y z s : Part}

/-! ### The blocks that no law but their own reads -/

theorem disp_lawful {d : Display} (h : T .line → PointLaw s.disp → PointLaw d) : Lawful T o o s { s with disp := d } :=
  .of (line := h)

theorem onDisp_lawful {f : Display → Display} (h : T .line → PointLaw s.disp → PointLaw (f s.disp)) :
    Lawful T o o s (onDisp f s) := disp_lawful h

theorem mapLegs_lawful {f : Leg → Leg}
    (h : T .legs → LegsLaw s.res.legs s.route.ownSeq → LegsLaw (s.res.legs.map f) s.route.ownSeq) :
    Lawful T o o s (mapLegs f s) :=
  .of (legPool := fun _ hl => (List.length_map f).trans_le hl) (legs := h)

theorem freeWhere_lawful {f : Leg → Bool} : Lawful T o o s (freeWhere f s) :=
  .of (legPool := fun _ hl => (List.length_filter_le ..).trans hl) (legs := fun _ hl => hl.sublist List.filter_sublist)

theorem freeFinished_lawful : Lawful T o o s (freeFinished s) := by
  unfold freeFinished
  split
  · exact freeWhere_lawful
  · exact .refl

theorem openWindows_lawful {k : Nat} : Lawful T o o s (openWindows k s) := mapLegs_lawful fun _ hl => hl.openWindows

theorem countUp_le (n k : Nat) : countUp n k ≤ 65535 := Nat.min_le_left ..

theorem noteReleases_lawful {k : Nat} : Lawful T o o s (noteReleases k s) := by
  unfold noteReleases
  split
  · exact .refl
  · exact (latch_lawful _).after (.of (counts := fun _ h => ⟨countUp_le .., h.2⟩))

theorem noteOrphans_lawful {k : Nat} : Lawful T o o s (noteOrphans k s) := by
  unfold noteOrphans
  split
  · exact .refl
  · exact (latch_lawful _).after (.of (counts := fun _ h => ⟨h.1, countUp_le ..⟩))

theorem mapReleasing_lawful {f : Leg → Leg}
    (h : T .legs → LegsLaw s.res.legs s.route.ownSeq → LegsLaw (s.res.legs.map f) s.route.ownSeq) :
    Lawful T o o s (mapReleasing f s) := (mapLegs_lawful h).trans noteReleases_lawful

theorem decideDeadlines_lawful : Lawful T o o s (decideDeadlines s) :=
  mapReleasing_lawful fun _ h => by simpa using h.decide (p := fun _ => true)

theorem setDeadlines_lawful {t : Nat} : Lawful T o o s (setDeadlines t s) := by
  refine Lawful.trans (mapLegs_lawful fun _ h => ?_) decideDeadlines_lawful
  simpa [Bool.and_assoc] using h.timed
    (p := fun l => !l.noRelease && (decide (0 < s.host.params.claimWindow) && s.route.clockSet))

theorem pollReport_lawful {c p : Nat} {occupied : Bool} : Lawful T o o s (pollReport c p occupied s) :=
  mapReleasing_lawful fun _ h => h.report

theorem noteOrphans_legs (k : Nat) (s : Part) : (noteOrphans k s).res.legs = s.res.legs := by
  unfold noteOrphans; split <;> rfl

/-- The orphaning pass maps the pool against the sequence of the part. -/
theorem orphanPass_legs (s : Part) : (orphanPass s).res.legs = s.res.legs.map (orphaned s.route.ownSeq) := by
  unfold orphanPass
  rw [noteOrphans_legs]
  rfl

theorem orphanPass_lawful : Lawful T o o s (orphanPass s) :=
  Lawful.trans (mapLegs_lawful fun _ h => h.orphaned _) noteOrphans_lawful

theorem restorePass_lawful : Lawful T o o s (restorePass s) := by
  unfold restorePass
  split
  · refine .of (legPool := fun _ h => ?_) (legs := fun _ h => ?_)
    · exact (length_restoreLegs ..).trans_le (by simpa using h)
    · exact LegsLaw.restoreLegs (done := []) h
  · exact .refl

theorem orphanReevaluation_lawful : Lawful T o o s (orphanReevaluation s) := orphanPass_lawful.trans restorePass_lawful

theorem recomputeSeats_lawful : Lawful T o o s (recomputeSeats s) :=
  .of (line := fun _ h => h.raiseAll _)

theorem sensorUpdate_lawful {c p : Nat} {f : Sensor → Sensor} : Lawful T o o s (sensorUpdate c p f s) := .of

theorem mapSensors_lawful {f : Sensor → Sensor} : Lawful T o o s (mapSensors f s) := .of

theorem rebuildTally_lawful : Lawful T o o s (rebuildTally s) := .of

/-! ### Notice slots -/

/-- The handles that the places of a level name, place by place. -/
def handlesOf (l : List (Option Slot)) : List (Option Nat) := l.map fun x => x.map (·.handle)

/-- Two states of the Composer whose notice slots name the same handles at the same places. -/
def SameSlots (q q' : Panels) : Prop := handlesOf q'.staff = handlesOf q.staff ∧ handlesOf q'.service = handlesOf q.service

theorem SameSlots.refl (q : Panels) : SameSlots q q := ⟨rfl, rfl⟩

theorem SameSlots.trans {q q' q'' : Panels} (h : SameSlots q q') (k : SameSlots q' q'') : SameSlots q q'' :=
  ⟨k.1.trans h.1, k.2.trans h.2⟩

theorem length_of_handlesOf {l l' : List (Option Slot)} (h : handlesOf l' = handlesOf l) : l'.length = l.length := by
  simpa [handlesOf] using congrArg List.length h

/-- The handles that a level's occupied places name. -/
def places (l : List (Option Slot)) : List Nat := l.filterMap fun x => x.map (·.handle)

theorem places_eq (l : List (Option Slot)) : places l = (handlesOf l).filterMap id := by
  simp [places, handlesOf, List.filterMap_map]

theorem namedHandles_eq (s : Part) : namedHandles s =
    routeHandles s.route ++ (places s.panel.staff ++ places s.panel.service) ++ forwardHandles s.form.forwards := by
  rw [namedHandles, List.filterMap_append]
  rfl

/-- The places that name a handle, counted block by block. -/
theorem count_namedHandles (s : Part) (h : Nat) : (namedHandles s).count h =
    (routeHandles s.route).count h + ((places s.panel.staff).count h + (places s.panel.service).count h) +
      (forwardHandles s.form.forwards).count h := by
  rw [namedHandles_eq, List.count_append, List.count_append, List.count_append]

/-- The law of reference counts holds where every handle's count moved as its places did. -/
theorem refLaw_of (h : ∀ a, (namedHandles y).count a + refCount x.text a = (namedHandles x).count a + refCount y.text a)
    (hx : RefLaw x) : RefLaw y := fun a => by
  have h1 := h a
  have h2 : (namedHandles x).count a = refCount x.text a := hx a
  show (namedHandles y).count a = refCount y.text a
  omega

theorem refCount_of_refLaw (hx : RefLaw x) (a : Nat) : refCount x.text a = (namedHandles x).count a := (hx a).symm

theorem panel_lawful {q : Panels} (h : SameSlots s.panel q) : Lawful T o o s { s with panel := q } :=
  .of (slots := fun _ hs => by
        rw [← length_of_handlesOf h.1, ← length_of_handlesOf h.2] at hs
        exact hs)
    (refs := fun _ => refLaw_of fun a => by
        rw [count_namedHandles, count_namedHandles]
        simp only [places_eq, h.1, h.2])

theorem handlesOf_map {f : Option Slot → Option Slot} (h : ∀ x, (f x).map (·.handle) = x.map (·.handle))
    (l : List (Option Slot)) : handlesOf (l.map f) = handlesOf l := by
  rw [handlesOf, List.map_map]
  exact List.map_congr_left fun x _ => h x

/-- What changes the contents of slots and keeps their handles. -/
theorem handlesOf_mapSlots {f : Slot → Slot} (h : ∀ x, (f x).handle = x.handle) (l : List (Option Slot)) :
    handlesOf (l.map fun x => x.map f) = handlesOf l :=
  handlesOf_map (fun x => by cases x <;> simp [h]) l

theorem handlesOf_mapFrom {f : Nat → Option Slot → Option Slot} (h : ∀ i x, (f i x).map (·.handle) = x.map (·.handle))
    (i : Nat) (l : List (Option Slot)) : handlesOf (mapFrom f i l) = handlesOf l := by
  rw [mapFrom_eq_map_zipIdx, handlesOf, List.map_map]
  refine (List.map_congr_left (g := (fun x => x.map (·.handle)) ∘ Prod.fst) fun x _ => h ..).trans ?_
  rw [← List.map_map, List.zipIdx_map_fst, handlesOf]

theorem handlesOf_modifyAt {f : Option Slot → Option Slot} (h : ∀ x, (f x).map (·.handle) = x.map (·.handle))
    (i : Nat) (l : List (Option Slot)) : handlesOf (modifyAt i f l) = handlesOf l := by
  induction l generalizing i with
  | nil => simp [modifyAt]
  | cons x l ih =>
    cases i with
    | zero => simp [modifyAt, handlesOf, h]
    | succ j => simpa [modifyAt, handlesOf] using ih j

theorem handlesOf_refreshSlots (s : Part) (b : Bool) (l : List (Option Slot)) : handlesOf (refreshSlots s b l) = handlesOf l :=
  handlesOf_map (fun x => by cases x <;> rfl) l

theorem handlesOf_useSlots (s : Part) (f : Nat → Bool) (l : List (Option Slot)) : handlesOf (useSlots s f l) = handlesOf l :=
  handlesOf_mapFrom (fun _ x => by cases x <;> rfl) 0 l

theorem sameSlots_reevaluate (s : Part) : SameSlots s.panel (reevaluate s) :=
  ⟨(handlesOf_useSlots ..).trans (handlesOf_refreshSlots ..), (handlesOf_useSlots ..).trans (handlesOf_refreshSlots ..)⟩

theorem sameSlots_setContext (q : Panels) (l : ProgLevel) (x : Context) : SameSlots q (setContext q l x) := by
  cases l <;> exact .refl q

theorem sameSlots_foldl {α : Type} {f : Panels → α → Panels} (h : ∀ q x, SameSlots q (f q x)) (l : List α) (q : Panels) :
    SameSlots q (l.foldl f q) := by
  induction l generalizing q with
  | nil => exact .refl q
  | cons x l ih => exact (h q x).trans (ih _)

/-- Writing one place of a level exchanges the handle that the place named. -/
theorem count_places_set {l : List (Option Slot)} {i : Nat} {y : Option Slot} (hi : l[i]? = some y) (z : Option Slot)
    (h : Nat) : (places (l.set i z)).count h + (places [y]).count h = (places l).count h + (places [z]).count h := by
  induction l generalizing i with
  | nil => simp at hi
  | cons x l ih =>
    have hcons (v : Option Slot) (m : List (Option Slot)) : (places (v :: m)).count h =
        (places [v]).count h + (places m).count h := by
      rw [← List.count_append, places, places, places, ← List.filterMap_append, List.singleton_append]
    cases i with
    | zero =>
      obtain rfl : x = y := by simpa using hi
      have h1 := hcons z l
      have h2 := hcons x l
      rw [List.set_cons_zero]
      omega
    | succ j =>
      have := ih (i := j) (by simpa using hi)
      have h1 := hcons x (l.set j z)
      have h2 := hcons x l
      rw [List.set_cons_succ]
      omega

theorem getElem?_firstEmpty {α : Type} {l : List (Option α)} {i : Nat} (h : firstEmpty l = some i) : l[i]? = some none := by
  induction l generalizing i with
  | nil => simp [firstEmpty] at h
  | cons x l ih =>
    cases x with
    | none => simp [firstEmpty] at h; simp [← h]
    | some x =>
      obtain ⟨j, hj, rfl⟩ := Option.map_eq_some_iff.mp h
      simpa using ih hj

theorem slotAt_eq_some {q : Panels} {l : NoticeLevel} {i : Nat} {x : Slot} :
    slotAt q l i = some x ↔ (slotsOf q l)[i]? = some (some x) := by
  cases l <;> simp [slotAt, slotsOf, Option.join_eq_some_iff]

/-- What writing one place of a level does to the places that name a handle. -/
theorem count_places_putSlot {s : Part} {l : NoticeLevel} {i : Nat} {y : Option Slot} (hi : (slotsOf s.panel l)[i]? = some y)
    (z : Option Slot) (h : Nat) :
    (namedHandles (putSlot l i z s)).count h + (places [y]).count h = (namedHandles s).count h + (places [z]).count h := by
  have hset := count_places_set hi z h
  rw [count_namedHandles, count_namedHandles]
  cases l <;> simp only [slotsOf, putSlot, setSlots] at hset ⊢ <;> omega

theorem putSlot_slots (l : NoticeLevel) (i : Nat) (z : Option Slot) (s : Part) :
    (putSlot l i z s).panel.staff.length = s.panel.staff.length ∧
      (putSlot l i z s).panel.service.length = s.panel.service.length := by
  cases l <;> simp [putSlot, setSlots, slotsOf]

/-! ### The Panel Composer -/

theorem renderPanels_lawful {l : List EpAddr} : Lawful T o o s (renderPanels l s) :=
  disp_lawful fun _ h => h.renderPanels ..

theorem composer_lawful {cause : Cause} : Lawful T o o s (composer cause s) := by
  unfold composer
  dsimp only
  split
  · exact panel_lawful (sameSlots_reevaluate s)
  · exact (panel_lawful (sameSlots_reevaluate s)).trans renderPanels_lawful

theorem rederive_lawful {ls : List ProgLevel} : Lawful T o o s (rederive ls s) :=
  panel_lawful (sameSlots_foldl (fun q l => sameSlots_setContext q l _) ls s.panel)

theorem renderNamed_lawful {ls : List ProgLevel} {f : CoachShow → Bool} : Lawful T o o s (renderNamed ls f s) :=
  rederive_lawful.trans renderPanels_lawful

theorem nameStops_lawful {l : List Nat} : Lawful T o o s (nameStops l s) := by
  unfold nameStops
  split
  · exact .refl
  · exact renderNamed_lawful

theorem nameSummary_lawful {before : List SummaryEntry} : Lawful T o o s (nameSummary before s) := by
  unfold nameSummary
  split
  · exact .refl
  · exact renderNamed_lawful

theorem restartStabling_lawful : Lawful T o o s (restartStabling s) := panel_lawful (.refl _)

theorem followStabling_lawful {before : Bool} : Lawful T o o s (followStabling before s) := panel_lawful (.refl _)

theorem lightAndCompose_lawful {cause : Cause} : Lawful T o o s (lightAndCompose cause s) :=
  composer_lawful.after (panel_lawful (.refl _))

theorem afterSlots_lawful {before : Bool} {filled : Option (NoticeLevel × Nat)} :
    Lawful T o o s (afterSlots before filled s) := by
  unfold afterSlots
  refine Lawful.trans ?_ followStabling_lawful
  split
  · exact lightAndCompose_lawful
  · exact composer_lawful

/-- Emptying a place releases the handle that it named. -/
theorem vacate_lawful {l : NoticeLevel} {i : Nat} : Lawful T o o s (vacate l i s) := by
  unfold vacate
  split
  · rename_i x hx
    refine .of (slots := fun _ hs => ?_) (pool := fun _ => release_pool) (refs := fun _ hrefs a => ?_)
    · obtain ⟨h1, h2⟩ := putSlot_slots l i none s
      exact ⟨h1.trans hs.1, h2.trans hs.2⟩
    · have hput := count_places_putSlot (slotAt_eq_some.mp hx) none a
      have hcount := refCount_of_refLaw hrefs a
      show (namedHandles (putSlot l i none s)).count a = refCount (release x.handle s.text) a
      rw [refCount_release]
      simp only [places, List.filterMap_cons, Option.map_some, Option.map_none, List.filterMap_nil, List.count_nil,
        List.count_singleton, beq_iff_eq] at hput
      simp only [eq_comm (a := a)]
      omega
  · exact .refl

theorem emptySlot_lawful {l : NoticeLevel} {i : Nat} : Lawful T o o s (emptySlot l i s) :=
  vacate_lawful.trans afterSlots_lawful

theorem vacateWhere_lawful {f : Slot → Bool} : Lawful T o o s (vacateWhere f s) :=
  .foldl (fun _ _ => vacate_lawful.ite .refl) _

/-- Filling an empty place counts the handle that it names from then on. -/
theorem fillSlot_lawful {l : NoticeLevel} {i id sub h duration : Nat} {origin : Option Nat} {t : Targets}
    (hi : T .refs → (slotsOf s.panel l)[i]? = some none) (hk : T .refs → textKnown s.text h = true) :
    Lawful T o o s (fillSlot l i origin id sub t h duration s) := by
  refine .of (slots := fun _ hs => ?_) (pool := fun _ => retain_pool) (refs := fun hT hrefs a => ?_)
  · obtain ⟨h1, h2⟩ := putSlot_slots l i (some (newSlot (onText (retain h) s) origin id sub t h duration)) (onText (retain h) s)
    exact ⟨h1.trans hs.1, h2.trans hs.2⟩
  · have hput := count_places_putSlot (s := onText (retain h) s) (hi hT)
      (some (newSlot (onText (retain h) s) origin id sub t h duration)) a
    have hcount := refCount_of_refLaw hrefs a
    show (namedHandles (fillSlot l i origin id sub t h duration s)).count a = refCount (retain h s.text) a
    rw [refCount_retain (hk hT)]
    simp only [places, List.filterMap_cons, Option.map_some, Option.map_none, List.filterMap_nil, List.count_nil,
      List.count_singleton, beq_iff_eq, newSlot] at hput
    simp only [eq_comm (a := a)]
    have hsame : (namedHandles (onText (retain h) s)).count a = (namedHandles s).count a := rfl
    unfold fillSlot
    dsimp only [newSlot]
    omega

/-! ### What a change hands on -/

/-- An item other than a NOTICE_FWD joins the line queue. -/
theorem queueItem_lawful {i : LineItem} (hi : ∀ tag, i ≠ .noticeFwd tag) : Lawful T o o s (onForm (queueItem i) s) := by
  by_cases hroom : s.form.queue.length < Config.lineQueueMax
  · have heq : onForm (queueItem i) s = onForm (fun f => { f with queue := f.queue ++ [i] }) s := by
      simp [onForm, queueItem, hroom]
    rw [heq]
    refine .of (lineQueue := fun _ _ => ?_) (port := fun _ h => h.congr rfl rfl rfl rfl fun tag hm => ?_)
    · exact (List.length_append ..).trans_le (Nat.succ_le_of_lt hroom)
    · simpa [onForm, (hi tag).symm] using hm
  · have heq : onForm (queueItem i) s = s := by simp [onForm, queueItem, hroom]
    rw [heq]
    exact .refl

theorem reportTallies_lawful : Lawful T o o s (reportTallies s) := by
  unfold reportTallies
  split
  · split
    · exact .refl
    · split
      · exact .of
      · exact Lawful.trans (queueItem_lawful (i := .tally) fun _ => nofun) .of
  · exact .refl

theorem setSummary_lawful : Lawful T o o s (setSummary s) :=
  .of (form := fun _ h => ⟨h.1, h.2, h.3, h.4, length_seatSummary s, h.6⟩)

theorem deriveSummary_lawful : Lawful T o o s (deriveSummary s) := setSummary_lawful.trans nameSummary_lawful

theorem writeOwnTallies_lawful : Lawful T o o s (writeOwnTallies s) :=
  .of (form := fun _ h => ⟨h.1, h.2, h.3, h.ownTallies, h.5, h.6⟩)

theorem tallyUpdate_lawful : Lawful T o o s (tallyUpdate s) := by
  unfold tallyUpdate
  dsimp only
  split
  · exact rebuildTally_lawful.trans (writeOwnTallies_lawful.trans (reportTallies_lawful.trans deriveSummary_lawful))
  · exact rebuildTally_lawful

theorem refreshSeats_lawful : Lawful T o o s (refreshSeats s) := recomputeSeats_lawful.trans tallyUpdate_lawful

theorem evalSource_lawful : Lawful T o o s (evalSource s) := .of

theorem formationHandOff_lawful {d : Orientation} : Lawful T o o s (formationHandOff d s) :=
  writeOwnTallies_lawful.trans (deriveSummary_lawful.trans composer_lawful)

theorem formationChanged_lawful {d : Orientation} : Lawful T o o s (formationChanged d s) :=
  evalSource_lawful.trans formationHandOff_lawful

theorem recordAlone_lawful : Lawful T o o s (recordAlone s) :=
  .of (form := fun _ h => ⟨h.1, recordOk_ownAlone h.coaches, h.3, h.4, h.5, h.6⟩)

theorem setEstimates_lawful : Lawful T o o s (setEstimates s) := .of

theorem estRecompute_lawful : Lawful T o o s (estRecompute s) := by
  unfold estRecompute
  split
  · exact setEstimates_lawful.trans nameStops_lawful
  · exact .refl

theorem minuteAdvanced_lawful {before : Nat} : Lawful T o o s (minuteAdvanced before s) := by
  unfold minuteAdvanced
  split
  · exact .refl
  · exact Lawful.trans (estRecompute_lawful.ite .refl) composer_lawful

theorem writeClock_lawful {v : Nat} (hv : T .clock → v ≤ 172799) : Lawful T o o s (writeClock v s) :=
  Lawful.trans (.of (clock := fun hT _ => hv hT)) (decideDeadlines_lawful.trans
    (refreshSeats_lawful.trans (estRecompute_lawful.trans composer_lawful)))

theorem handleNote_lawful {n : Note} : Lawful T o o s (handleNote s n) := by
  cases n
  case placement => exact freeFinished_lawful.trans openWindows_lawful
  case arrival => exact freeFinished_lawful.trans openWindows_lawful
  case halt => exact freeFinished_lawful
  case departure => exact setDeadlines_lawful.ite .refl
  case termination => exact freeWhere_lawful
  case opened => exact freeWhere_lawful
  case rederived => exact orphanReevaluation_lawful.trans freeFinished_lawful

theorem handleNotes_lawful {notes : List Note} : Lawful T o o s (handleNotes notes s) :=
  .foldl (fun _ _ => handleNote_lawful) notes

/-- What follows the notifications of a hand-off. -/
theorem handOff_lawful_of {notes : List Note} {cause : Cause} (h : Lawful T o o x (handleNotes notes s)) :
    Lawful T o o x (handOff notes cause s) :=
  h.trans (refreshSeats_lawful.trans (estRecompute_lawful.trans (lightAndCompose_lawful.trans restartStabling_lawful)))

theorem handOff_lawful {notes : List Note} {cause : Cause} : Lawful T o o s (handOff notes cause s) :=
  handOff_lawful_of handleNotes_lawful

theorem setProg_lawful {g : Progress} : Lawful T o o s (setProg g s) := .of

end Sys2Proof.Proofs.Changes
end

section
/-! The operations of the Formation Controller are law-abiding, one lemma each, in the order of the model. -/
namespace Sys2Proof.Proofs.Changes
open Sys2Proof Sys2Proof.Machine Texts DisplayLine Legs Port FormationStores

-- The default evidence of `Lawful.of` is read from the checked environment: one proof after the other, no queue of threads.
set_option Elab.async false

variable {T : Law → Prop} {o o' o'' : Option Byte} {x y z s : Part}

/-! ### Answers and forwards -/

/-- An answer touches the law of requests in flight alone. -/
theorem answer_lawful {tag : Byte} {r : Result} {d : List Byte}
    (h : T .port → Law.port.Kept o o' s (answer tag r d s)) : Lawful T o o' s (answer tag r d s) := by
  cases hfind : s.host.inFlight.find? fun e => e.tag == tag with
  | none =>
    rw [answer_of_not_find hfind] at h ⊢
    exact .of (port := h)
  | some e =>
    rw [answer_of_find hfind] at h ⊢
    refine .of (entries := fun _ he => ?_) (port := h) (events := fun _ hr => ⟨hr, Reports.same rfl (by simp)⟩)
    dsimp only
    rw [setPhase_tags, List.length_map]
    exact he

theorem forwardHandles_append (l l' : List Forward) : forwardHandles (l ++ l') = forwardHandles l ++ forwardHandles l' := by
  simp [forwardHandles]

/-- The handles of the forwards of a tag and those of the others make up the whole. -/
theorem count_forwardHandles_filter (p : Forward → Bool) (l : List Forward) (a : Nat) :
    (forwardHandles (l.filter p)).count a + (forwardHandles (l.filter fun e => !p e)).count a = (forwardHandles l).count a := by
  induction l with
  | nil => rfl
  | cons e l ih =>
    have hcons (m : List Forward) : (forwardHandles (e :: m)).count a =
        (forwardHandles [e]).count a + (forwardHandles m).count a := by
      rw [← List.count_append, ← forwardHandles_append, List.singleton_append]
    rw [hcons]
    cases hp : p e <;> simp only [List.filter_cons, hp, Bool.not_true, Bool.not_false, if_true, Bool.false_eq_true, if_false]
    · have := hcons (l.filter fun e => !p e)
      omega
    · have := hcons (l.filter p)
      omega

theorem dropForward_port {tag : Byte} (k : PortMid o s.host s.form.forwards s.form.queue) :
    PortMid o (dropForward tag s).host (dropForward tag s).form.forwards (dropForward tag s).form.queue := by
  refine k.dropForwards (p := fun e => e.tag != tag) fun t ht => ?_
  obtain ⟨hmem, hne⟩ := List.mem_filter.mp ht
  refine ⟨hmem, fun f _ hf => ?_⟩
  subst hf
  simpa using hne

theorem dropForward_lawful {tag : Byte} : Lawful T o o s (dropForward tag s) := by
  refine .of (lineQueue := fun _ h => (List.length_filter_le ..).trans h) (pool := fun _ => releaseAll_pool)
    (port := fun _ => dropForward_port) (refs := fun _ hrefs a => ?_)
  have hcount := refCount_of_refLaw hrefs a
  have hsplit := count_forwardHandles_filter (fun e => e.tag == tag) s.form.forwards a
  show (namedHandles (dropForward tag s)).count a = refCount (releaseAll _ s.text) a
  rw [count_namedHandles] at hcount ⊢
  rw [refCount_releaseAll]
  simp only [dropForward, onText_route, onText_panel, onText_form, onForm_route, onForm_panel, onForm_form, bne]
  omega

/-- A forward's entry in the in-flight table waits, so it is none that its owner still holds. -/
theorem endForward_port {tag : Byte} {r : Result} {d : List Byte} (hf : ∃ f ∈ s.form.forwards, f.tag = tag)
    (k : PortMid o s.host s.form.forwards s.form.queue) :
    PortMid o (endForward tag r d s).host (endForward tag r d s).form.forwards (endForward tag r d s).form.queue := by
  obtain ⟨f, hmem, htag⟩ := hf
  obtain ⟨e, he, hetag, hphase⟩ := k.waiting f hmem
  have hform : (endForward tag r d s).form = (dropForward tag s).form := by
    rw [endForward, answer_eq]
  rw [hform]
  refine (dropForward_port k).answer_host (e := e) he (hetag.trans htag) (by simp [hphase]) (fun g hg => ?_) fun t => ?_
  · have := (List.mem_filter.mp hg).2
    simpa using this
  · refine ⟨fun ho => ⟨ho, ?_⟩, fun ho => ho.1⟩
    rintro rfl
    obtain ⟨e', he', htag', hphase'⟩ := k.owner _ ho
    have hsame := List.inj_on_of_nodup_map k.tags he he' ((hetag.trans htag).trans htag'.symm)
    rw [hsame, hphase'] at hphase
    cases hphase

theorem endForward_lawful {tag : Byte} {r : Result} {d : List Byte} (hf : T .port → ∃ f ∈ s.form.forwards, f.tag = tag) :
    Lawful T o o s (endForward tag r d s) :=
  .except .port (dropForward_lawful.trans (answer_lawful fun hT => absurd rfl hT.2)) fun hT => endForward_port (hf hT)

theorem endForward_forwards (tag : Byte) (r : Result) (d : List Byte) (s : Part) :
    (endForward tag r d s).form.forwards = s.form.forwards.filter fun e => e.tag != tag := by
  rw [endForward, answer_eq]
  rfl

/-- Forwards of distinct tags end one after the other. -/
theorem endAll_port {l : List Forward} (hl : (l.map (·.tag)).Nodup) (hmem : ∀ e ∈ l, e ∈ s.form.forwards)
    (k : PortMid o s.host s.form.forwards s.form.queue) :
    let t := l.foldl (fun s e => endForward e.tag .linkFailed [] s) s
    PortMid o t.host t.form.forwards t.form.queue := by
  induction l generalizing s with
  | nil => exact k
  | cons e l ih =>
    rw [List.map_cons, List.nodup_cons] at hl
    refine ih hl.2 (fun f hf => ?_) (endForward_port ⟨e, hmem e List.mem_cons_self, rfl⟩ k)
    rw [endForward_forwards]
    refine List.mem_filter.mpr ⟨hmem f (List.mem_cons_of_mem _ hf), ?_⟩
    have : f.tag ≠ e.tag := fun h => hl.1 (h ▸ List.mem_map_of_mem hf)
    simpa using this

theorem endForwards_lawful : Lawful T o o s (endForwards s) := by
  have hall : Lawful T o o s (s.form.forwards.foldl (fun s e => endForward e.tag .linkFailed [] s) s) :=
    .except .port (.foldl (fun _ _ => endForward_lawful fun hT => absurd rfl hT.2) _)
      fun _ k => endAll_port k.forwards (fun _ h => h) k
  refine hall.trans (.of (late := fun _ _ => Nat.zero_le _) (form := fun _ h => ?_))
  exact ⟨h.1, h.2, h.3, h.4, h.5, List.nodup_nil, Nat.zero_le _⟩

/-! ### The own entry of the record -/

theorem length_modifyAt {α : Type} (i : Nat) (f : α → α) (l : List α) : (modifyAt i f l).length = l.length := by
  induction l generalizing i with
  | nil => simp [modifyAt]
  | cons x l ih => cases i <;> simp [modifyAt, ih]

theorem forall_mem_modifyAt {α : Type} {P : α → Prop} {f : α → α} (hf : ∀ x, P x → P (f x)) {i : Nat} {l : List α}
    (h : ∀ x ∈ l, P x) : ∀ x ∈ modifyAt i f l, P x := by
  induction l generalizing i with
  | nil => simp [modifyAt]
  | cons x l ih =>
    rw [List.forall_mem_cons] at h
    cases i with
    | zero => exact List.forall_mem_cons.mpr ⟨hf x h.1, h.2⟩
    | succ j => exact List.forall_mem_cons.mpr ⟨h.1, ih h.2⟩

/-- Rewriting the own entry keeps the bounds where it keeps the number of booked coaches. -/
theorem rewriteOwn_lawful {g : UnitEntry → UnitEntry}
    (hg : T .form → FormLaw s → ∀ u, u.booked.length ≤ 8 → (g u).booked.length ≤ 8) : Lawful T o o s (rewriteOwn g s) := by
  unfold rewriteOwn
  split
  · exact recordAlone_lawful
  · refine .of (form := fun hT h => ⟨h.1, ⟨?_, ?_⟩, h.3, h.4, h.5, h.6⟩)
    · exact (length_modifyAt ..).trans_le h.record.1
    · exact forall_mem_modifyAt (hg hT h) h.record.2

theorem ownEntryChanged_lawful {g : UnitEntry → UnitEntry}
    (hg : T .form → FormLaw s → ∀ u, u.booked.length ≤ 8 → (g u).booked.length ≤ 8) : Lawful T o o s (ownEntryChanged g s) :=
  (rewriteOwn_lawful hg).trans (formationChanged_lawful.trans reportTallies_lawful)

theorem booked_withRoute (before : Nat) (s : Part) (u : UnitEntry) : (withRoute before s u).booked = u.booked := by
  unfold withRoute; split <;> rfl

theorem routeIdChanged_lawful {before : Nat} {evaluate : Bool} : Lawful T o o s (routeIdChanged before evaluate s) := by
  unfold routeIdChanged
  split
  · exact .refl
  · refine (rewriteOwn_lawful fun _ _ u hu => ?_).trans
      (Lawful.trans (formationChanged_lawful.ite formationHandOff_lawful) reportTallies_lawful)
    rw [booked_withRoute]
    exact hu

/-! ### Roles -/

/-- A change of the Formation Controller that leaves its stores alone. -/
theorem onForm_lawful {f : Formation → Formation} (hrecord : (f s.form).record = s.form.record := by rfl)
    (hroll : RollOk s.form.rollCall → RollOk (f s.form).rollCall := by exact fun h => h)
    (htally : (f s.form).trainTally = s.form.trainTally := by rfl)
    (hlate : (f s.form).late = s.form.late := by rfl) (hqueue : (f s.form).queue = s.form.queue := by rfl)
    (hforwards : (f s.form).forwards = s.form.forwards := by rfl) : Lawful T o o s (onForm f s) :=
  .of (lineQueue := fun _ h => by rw [onForm_form, hqueue]; exact h) (late := fun _ h => by rw [onForm_form, hlate]; exact h)
    (port := fun _ h => by
      show PortMid _ s.host (f s.form).forwards (f s.form).queue
      rw [hforwards, hqueue]
      exact h)
    (refs := fun _ => refLaw_of fun a => by
      rw [count_namedHandles, count_namedHandles, onForm_form, hforwards]
      rfl)
    (form := fun _ h => ⟨h.1, by rw [onForm_form, hrecord]; exact h.2, hroll h.3, by rw [onForm_form, htally]; exact h.4, h.5,
      by rw [onForm_form, hlate]; exact h.6⟩)

theorem rollOk_none : RollOk none := nofun

theorem rollOk_nil : RollOk (some []) := fun l h => by
  obtain rfl : [] = l := by simpa using h
  exact ⟨Nat.zero_le _, nofun⟩

theorem restartLoss_lawful : Lawful T o o s (restartLoss s) := onForm_lawful

theorem startAbsence_lawful : Lawful T o o s (startAbsence s) := onForm_lawful

theorem heardUnit_lawful {u : Nat} : Lawful T o o s (heardUnit u s) := by
  unfold heardUnit
  split
  · exact onForm_lawful
  · exact .refl

theorem sendLine_lawful {f : LineFrame} : Lawful T o o s (sendLine f s) := .of

theorem changeRole_lawful {r : Role} : Lawful T o o s (changeRole r s) := by
  unfold changeRole
  dsimp only
  split
  · exact evalSource_lawful.after onForm_lawful
  · exact formationChanged_lawful.after onForm_lawful

theorem yieldLead_lawful : Lawful T o o s (yieldLead s) :=
  restartLoss_lawful.after (changeRole_lawful.after (onForm_lawful (hroll := fun _ => rollOk_none)))

theorem rollCallFrom_lawful {e : UnitEnd} : Lawful T o o s (rollCallFrom e s) :=
  sendLine_lawful.after ((onForm_lawful (hroll := fun _ => rollOk_nil)).after changeRole_lawful)

theorem startRollCall_lawful : Lawful T o o s (startRollCall s) := by
  unfold startRollCall
  split
  · exact rollCallFrom_lawful
  · exact .refl

theorem leaderConflict_lawful {other : Nat} : Lawful T o o s (leaderConflict other s) :=
  (latch_lawful _).after (yieldLead_lawful.ite (Lawful.ite onForm_lawful startRollCall_lawful))

theorem evalQualEnd_lawful : Lawful T o o s (evalQualEnd s) := by
  have hq : Lawful T o o s (onForm (fun f => { f with qualEnd := qualifyingEnd s.form }) s) := onForm_lawful
  unfold evalQualEnd
  dsimp only
  split
  · exact .refl
  · split
    · exact (yieldLead_lawful.after hq).ite hq
    · split
      · exact formationChanged_lawful.after ((recordAlone_lawful.after hq).ite hq)
      · exact hq

/-! ### Epoch change and separation -/

theorem emptyQueue_lawful : Lawful T o o s (onForm (fun f => { f with queue := [] }) s) :=
  .of (lineQueue := fun _ _ => Nat.zero_le _) (port := fun _ h => h.congr rfl rfl rfl rfl nofun)

theorem filterTallies_lawful {p : Formation → TallyEntry → Bool} :
    Lawful T o o s (onForm (fun f => { f with trainTally := f.trainTally.filter (p f) }) s) :=
  .of (form := fun _ h => ⟨h.1, h.2, h.3, h.tally.filter _, h.5, h.6⟩)

theorem queueTally_lawful : Lawful T o o s (onForm (queueItem .tally) s) := queueItem_lawful fun _ => nofun

theorem recordEffects_lawful {d : Orientation} : Lawful T o o s (recordEffects d s) := by
  unfold recordEffects
  refine formationChanged_lawful.after (afterSlots_lawful.after (vacateWhere_lawful.after ?_))
  have hqueue : Lawful T o o s (onForm (fun f => { f with queue := [] }) (endForwards s)) :=
    emptyQueue_lawful.after endForwards_lawful
  have htallies := deriveSummary_lawful.after (writeOwnTallies_lawful.after
    ((filterTallies_lawful (p := fun f e => e.epoch == f.record.epoch)).after hqueue))
  exact (queueTally_lawful.after htallies).ite htallies

theorem takeRecord_lawful {r : FormRecord} {role : Role} (hr : T .form → FormLaw s → RecordOk r) :
    Lawful T o o s (takeRecord r role s) :=
  (latch_lawful _).after (recordEffects_lawful.after
    (.of (form := fun hT h => ⟨h.1, hr hT h, rollOk_none, h.4, h.5, h.6⟩)))

theorem ownTalliesOnly_lawful : Lawful T o o s (ownTalliesOnly s) := filterTallies_lawful

theorem separate_lawful : Lawful T o o s (separate s) :=
  recordEffects_lawful.after (ownTalliesOnly_lawful.after (recordAlone_lawful.after
    (onForm_lawful (hroll := fun _ => rollOk_none))))

theorem isolate_lawful : Lawful T o o s (isolate s) :=
  (latch_lawful _).after (changeRole_lawful.after (endForwards_lawful.after onForm_lawful))

theorem closeRollCall_lawful {answers : List RollAnswerFrame}
    (h : T .form → FormLaw s → answers.length ≤ 2 ∧ ∀ f ∈ answers, f.booked.length ≤ 8) :
    Lawful T o o s (closeRollCall answers s) := by
  unfold closeRollCall
  have hsent : Lawful T o o s (onForm (fun f => { f with drive := { a := false, b := false } })
      (sendLine (.formation s.unit.unitId (rollRecord s answers).epoch (rollRecord s answers).units) s)) :=
    Lawful.after onForm_lawful sendLine_lawful
  have htaken := startAbsence_lawful.after ((takeRecord_lawful (T := T) (role := .leading) (r := rollRecord s answers)
    fun hT hl => ?_).after hsent)
  · exact (startRollCall_lawful.after htaken).ite htaken
  · obtain ⟨hlen, hbooked⟩ := h hT ⟨hl.1, hl.2, hl.3, hl.4, hl.5, hl.6⟩
    exact recordOk_rollRecord hl.coaches hlen hbooked

/-! ### Frames sent -/

@[simp] theorem endGrant_record (f : Formation) : (endGrant f).record = f.record := by unfold endGrant; split <;> rfl
@[simp] theorem endGrant_rollCall (f : Formation) : (endGrant f).rollCall = f.rollCall := by unfold endGrant; split <;> rfl
@[simp] theorem endGrant_late (f : Formation) : (endGrant f).late = f.late := by unfold endGrant; split <;> rfl
@[simp] theorem endGrant_forwards (f : Formation) : (endGrant f).forwards = f.forwards := by unfold endGrant; split <;> rfl

theorem endGrant_lawful : Lawful T o o s (onForm endGrant s) :=
  onForm_lawful (by simp) (by simp) (by simp) (by simp) (by simp) (by simp)

theorem beginGrant_lawful {u : Nat} : Lawful T o o s (onForm (beginGrant u) s) :=
  onForm_lawful (by simp [beginGrant]) (by simp [beginGrant]) (by simp [beginGrant]) (by simp [beginGrant])
    (by simp [beginGrant]) (by simp [beginGrant])

theorem sendBeacon_lawful : Lawful T o o s (sendBeacon s) :=
  sendLine_lawful.after (onForm_lawful (by simp) (by simp) (by simp) (by simp) (by simp) (by simp))

/-- Forwards rewritten with their tags and the texts that they name. -/
theorem mapForwards_lawful {f : Formation → Formation} (hrecord : (f s.form).record = s.form.record := by rfl)
    (hroll : (f s.form).rollCall = s.form.rollCall := by rfl)
    (htally : (f s.form).trainTally = s.form.trainTally := by rfl) (hlate : (f s.form).late = s.form.late := by rfl)
    (hqueue : (f s.form).queue = s.form.queue := by rfl)
    (htags : T .port → (f s.form).forwards.map (·.tag) = s.form.forwards.map (·.tag))
    (hraise : T .refs → (f s.form).forwards.map (·.raise) = s.form.forwards.map (·.raise)) : Lawful T o o s (onForm f s) :=
  .of (lineQueue := fun _ h => by rw [onForm_form, hqueue]; exact h) (late := fun _ h => by rw [onForm_form, hlate]; exact h)
    (port := fun hT h => h.congr rfl rfl rfl (htags hT) fun tag ht => by rw [onForm_form, hqueue] at ht; exact ht)
    (refs := fun hT => refLaw_of fun a => by
      have hfw : forwardHandles (f s.form).forwards = forwardHandles s.form.forwards := by
        have := congrArg (fun l => (l.filterMap id).map RaiseData.handle) (hraise hT)
        simpa [forwardHandles, List.filterMap_map] using this
      rw [count_namedHandles, count_namedHandles, onForm_form, hfw]
      rfl)
    (form := fun _ h => ⟨h.1, by rw [onForm_form, hrecord]; exact h.2, by rw [onForm_form, hroll]; exact h.3,
      by rw [onForm_form, htally]; exact h.4, h.5, by rw [onForm_form, hlate]; exact h.6⟩)

theorem sendItem_lawful {i : LineItem} : Lawful T o o s (sendItem i s) := by
  unfold sendItem
  split
  case h_1 tag =>
    dsimp only
    split
    · refine sendLine_lawful.after (mapForwards_lawful (htags := fun _ => ?_) (hraise := fun _ => ?_))
      all_goals
        dsimp only
        rw [List.map_map]
        refine List.map_congr_left fun f _ => ?_
        simp only [Function.comp_apply]
        split <;> rfl
    · exact .refl
  all_goals exact sendLine_lawful

theorem eraseItem_lawful {i : LineItem} : Lawful T o o s (onForm (fun f => { f with queue := f.queue.erase i }) s) :=
  .of (lineQueue := fun _ h => (List.length_erase_le ..).trans h)
    (port := fun _ h => h.congr rfl rfl rfl rfl fun _ => List.mem_of_mem_erase)

theorem sendItems_lawful {k : Nat} : Lawful T o o s (sendItems k s) := by
  induction k generalizing s with
  | zero => exact .refl
  | succ k ih =>
    unfold sendItems
    split
    · exact ih.after (sendItem_lawful.after eraseItem_lawful)
    · exact .refl

theorem sendGranted_lawful : Lawful T o o s (sendGranted s) := sendLine_lawful.after sendItems_lawful

/-! ### Following a beacon -/

theorem applySnapshot_lawful {f : Snapshot} : Lawful T o o s (applySnapshot f s) := by
  unfold applySnapshot
  split
  · exact .refl
  · exact Lawful.refl.ite (handOff_lawful.after setProg_lawful)

theorem noteMismatch_lawful {f : BeaconFrame} : Lawful T o o s (noteMismatch f s) := by
  unfold noteMismatch
  split
  · exact (latch_lawful _).after .of
  · exact .refl

theorem followBeacon_lawful {f : BeaconFrame} (hf : T .clock → f.clock ≤ 172799) : Lawful T o o s (followBeacon f s) := by
  have hclock : Lawful T o o s (if f.clockSet && f.clock != s.route.clock then writeClock f.clock s else s) :=
    (writeClock_lawful hf).ite .refl
  have hroute (x : Part) : Lawful T o o x { x with route := { x.route with beaconRoute := some f.route } } := .of
  have hsource := evalSource_lawful.after ((hroute _).after hclock)
  exact (applySnapshot_lawful.after hsource).ite (noteMismatch_lawful.after hsource)

theorem takeBeacon_lawful {f : BeaconFrame} (hf : T .clock → f.clock ≤ 172799) : Lawful T o o s (takeBeacon f s) :=
  sendLine_lawful.after ((followBeacon_lawful hf).after restartLoss_lawful)

theorem hearBeacon_lawful {f : BeaconFrame} (hf : T .clock → f.clock ≤ 172799) : Lawful T o o s (hearBeacon f s) := by
  have hheard : Lawful T o o s (onForm (fun g => { endGrant g with heardCycle := some f.cycle }) s) :=
    onForm_lawful (by simp) (by simp) (by simp) (by simp) (by simp) (by simp)
  unfold hearBeacon
  dsimp only
  split
  · exact ((takeBeacon_lawful hf).after hheard).ite (sendLine_lawful.after (restartLoss_lawful.after hheard))
  · exact ((takeBeacon_lawful hf).after (changeRole_lawful.after hheard)).ite (sendLine_lawful.after hheard)
  · exact sendLine_lawful.after hheard
  · exact sendLine_lawful.after (restartLoss_lawful.after hheard)
  · exact leaderConflict_lawful.after hheard
  · exact leaderConflict_lawful.after hheard

end Sys2Proof.Proofs.Changes
end

section
/-! Notices and tallies received, the display line, and the request stage are law-abiding, one lemma each, in the order of the
model. -/
namespace Sys2Proof.Proofs.Changes
open Sys2Proof Sys2Proof.Machine Texts DisplayLine Legs Port FormationStores

-- The default evidence of `Lawful.of` is read from the checked environment: one proof after the other, no queue of threads.
set_option Elab.async false

variable {T : Law → Prop} {o o' o'' : Option Byte} {x y z s : Part}

/-! ### Texts -/

/-- A change of the Text Store that leaves every reference count as it was. -/
theorem text_lawful {t : TextStore} (hpool : T .pool → PoolLaw s.text → PoolLaw t)
    (hrefs : T .refs → ∀ a, refCount t a = refCount s.text a) : Lawful T o o s { s with text := t } :=
  .of (pool := hpool) (refs := fun hT => refLaw_of fun a => by
    show _ + _ = _ + refCount t a
    rw [hrefs hT]
    rfl)

theorem putVariant_lawful {h slot : Nat} {codes : List Byte} (hslot : slot ≤ 2) :
    Lawful T o o s (onText (putVariant h slot codes) s) :=
  text_lawful (fun _ => putVariant_pool hslot) fun _ a => refCount_putVariant h slot codes s.text a

/-- An entry that nothing counts can be removed. -/
theorem dropEntry_lawful {h : Nat} (h0 : T .refs → refCount s.text h = 0) : Lawful T o o s (onText (dropEntry h) s) :=
  text_lawful (fun _ => dropEntry_pool) fun hT a => by
    rw [refCount_dropEntry]
    split
    · rename_i heq
      rw [heq, h0 hT]
    · rfl

/-! ### A forwarded notice -/

/-- Replacing the notice of a place counts its new handle and releases the old one. -/
theorem replaceSlot_lawful {l : NoticeLevel} {i id sub h duration : Nat} {origin : Option Nat} {t : Targets} {old : Slot}
    (hi : slotAt s.panel l i = some old) (hk : T .refs → textKnown s.text h = true) :
    Lawful T o o s (onText (releaseAll [old.handle]) (fillSlot l i origin id sub t h duration s)) := by
  refine .of (slots := fun _ hs => ?_) (pool := fun _ hp => releaseAll_pool (retain_pool hp)) (refs := fun hT hrefs a => ?_)
  · obtain ⟨h1, h2⟩ := putSlot_slots l i (some (newSlot (onText (retain h) s) origin id sub t h duration)) (onText (retain h) s)
    exact ⟨h1.trans hs.1, h2.trans hs.2⟩
  · have hput := count_places_putSlot (s := onText (retain h) s) (slotAt_eq_some.mp hi)
      (some (newSlot (onText (retain h) s) origin id sub t h duration)) a
    have hcount := refCount_of_refLaw hrefs a
    have hsame : (namedHandles (onText (retain h) s)).count a = (namedHandles s).count a := rfl
    show (namedHandles (putSlot l i _ (onText (retain h) s))).count a = refCount (releaseAll [old.handle] (retain h s.text)) a
    rw [refCount_releaseAll, refCount_retain (hk hT), List.count_singleton]
    simp only [places, List.filterMap_cons, Option.map_some, List.filterMap_nil, List.count_singleton, beq_iff_eq,
      newSlot] at hput ⊢
    simp only [eq_comm (a := a)]
    omega

/-- A notice that is found stands in a slot. -/
theorem findNotice_slotAt {q : Panels} {origin : Option Nat} {id i : Nat} {l : NoticeLevel}
    (h : findNotice q origin id = some (l, i)) : ∃ x, slotAt q l i = some x := by
  have hit {m : List (Option Slot)} {j : Nat}
      (hj : m.findIdx? (fun x => (x.map fun y => y.origin == origin && y.noticeId == id).getD false) = some j) :
      ∃ x, m[j]? = some (some x) := by
    obtain ⟨hlt, hp, -⟩ := List.findIdx?_eq_some_iff_getElem.mp hj
    cases hx : m[j] with
    | none => simp [hx] at hp
    | some x => exact ⟨x, by rw [List.getElem?_eq_getElem hlt, hx]⟩
  unfold findNotice at h
  dsimp only at h
  split at h
  · rename_i hj
    obtain ⟨rfl, rfl⟩ := Prod.mk.inj (Option.some.inj h)
    exact (hit hj).imp fun x hx => slotAt_eq_some.mpr hx
  · obtain ⟨j, hj, heq⟩ := Option.map_eq_some_iff.mp h
    obtain ⟨rfl, rfl⟩ := Prod.mk.inj heq
    exact (hit hj).imp fun x hx => slotAt_eq_some.mpr hx

theorem placeNotice_lawful {origin id : Nat} {l : NoticeLevel} {sub : Nat} {t : Targets} {duration h : Nat}
    (hk : T .refs → textKnown s.text h = true) (h0 : T .refs → refCount s.text h = 0) :
    Lawful T o o s (placeNotice origin id l sub t duration h s).1 := by
  unfold placeNotice
  dsimp only
  split
  · rename_i l' i hfound
    obtain ⟨old, hold⟩ := findNotice_slotAt hfound
    split
    · rename_i hl
      obtain rfl := eq_of_beq hl
      rw [hold]
      exact afterSlots_lawful.after (replaceSlot_lawful hold hk)
    · split
      · rename_i j hj
        exact afterSlots_lawful.after (vacate_lawful.after (fillSlot_lawful (fun _ => getElem?_firstEmpty hj) hk))
      · exact dropEntry_lawful h0
  · split
    · rename_i j hj
      exact afterSlots_lawful.after (fillSlot_lawful (fun _ => getElem?_firstEmpty hj) hk)
    · exact dropEntry_lawful h0

theorem receiveNotice_lawful {f : NoticeFwdFrame} : Lawful T o o s (receiveNotice f s).1 := by
  unfold receiveNotice
  split
  · split
    · rename_i h t hm
      have htext : Lawful T o o s { s with text := t } :=
        text_lawful (fun _ => makeRemote_pool hm) fun _ => refCount_makeRemote hm
      refine (placeNotice_lawful (fun _ => textKnown_makeRemote hm) fun _ => ?_).after htext
      obtain ⟨hnone, -⟩ := makeRemote_some hm
      exact (refCount_makeRemote hm h).trans (by simp [refCount, hnone])
    · exact .refl
  · split
    · exact emptySlot_lawful
    · exact .refl

/-! ### A TALLY frame -/

theorem takeTally_lawful {f : TallyFrame} (hf : T .form → f.wf = true) : Lawful T o o s (takeTally f s) := by
  have hwrite : Lawful T o o s (onForm (fun g =>
      { g with trainTally := writeTallies (frameTallies f) g.trainTally, record := tallyRecord f g.record }) s) := by
    refine .of (form := fun hT h => ?_)
    obtain ⟨hlen, htally⟩ := tallyFrame_wf (hf hT)
    exact ⟨h.1, recordOk_tallyRecord h.record hlen, h.3, htally.write h.tally, h.5, h.6⟩
  exact (deriveSummary_lawful.after hwrite).ite (formationChanged_lawful.after hwrite)

/-! ### The display line -/

/-- A change of the driver, and of the frames sent. -/
theorem driver_lawful {d : Display} {u : Outputs} (heq : y = { s with disp := d, out := u })
    (h : PointLaw s.disp → PointLaw y.disp) : Lawful T o o s y := by
  subst heq
  exact .of (line := fun _ => h)

theorem kick_eq (s : Part) : kick s = { s with disp := (kick s).disp, out := (kick s).out } := by
  unfold kick arbiter beginTransfer beginPoll
  (repeat' split) <;> rfl

theorem kick_lawful : Lawful T o o s (kick s) := driver_lawful (kick_eq s) PointLaw.kick

section
variable {a : EpAddr}

theorem ackTransfer_eq (a : EpAddr) (v w : Nat) (s : Part) :
    ackTransfer a v w s = { s with disp := (ackTransfer a v w s).disp } := by
  unfold ackTransfer
  dsimp only
  (repeat' split) <;> rfl

theorem ackTransfer_lawful {v w : Nat} (hop : s.disp.inFlight = some (.transfer v, a)) :
    Lawful T o o s (ackTransfer a v w s) :=
  driver_lawful (u := s.out) (ackTransfer_eq a v w s) fun h => h.ackTransfer hop

theorem takeReading_lawful {c p raw : Nat} : Lawful T o o s (takeReading c p raw s) :=
  refreshSeats_lawful.after (pollReport_lawful.after sensorUpdate_lawful)

theorem readingOf_lawful {st : PollStatus} : Lawful T o o s (readingOf a st s) := by
  unfold readingOf
  split
  · exact takeReading_lawful.ite .refl
  · exact .refl

theorem pollAnswered_lawful {held : Option Nat} {st : PollStatus} (hop : s.disp.inFlight = some (.poll, a)) :
    Lawful T o o s (pollAnswered a held st s) := by
  refine readingOf_lawful.after ?_
  have hended (lost : Bool) := fun h : PointLaw s.disp =>
    h.pollEnded (st := fun e => statusAfter s a st e.status) (lost := lost) hop
  split
  · exact disp_lawful fun _ h => hended true h
  · exact disp_lawful fun _ h => hended false h

theorem probeAnswered_lawful {st : PollStatus} (hop : s.disp.inFlight = some (.probe, a)) :
    Lawful T o o s (probeAnswered a st s) := by
  have hback : Lawful T o o s (requeue a (onEntry a (fun e => { e with
      present := true, miss := 0, shown := none, probeTime := none, probeDue := false
      status := statusAfter s a st e.status }) (freeLine s))) := disp_lawful fun _ h => h.probeReturned hop
  exact (latch_lawful _).after ((sensorUpdate_lawful.after hback).ite hback)

theorem countMiss_lawful {op : LineOp} {transfer : Bool} (hop : s.disp.inFlight = some (op, a))
    (hpoll : op = .poll ∧ transfer = false ∨ (∃ v, op = .transfer v) ∧ transfer = true) :
    Lawful T o o s (countMiss a transfer s) := by
  have hmissed := fun h : PointLaw s.disp => h.missCounted hop hpoll
  have hnot : op ≠ .probe := by
    obtain ⟨rfl, -⟩ | ⟨⟨v, rfl⟩, -⟩ := hpoll <;> nofun
  unfold countMiss
  dsimp only
  split
  · have habsent : Lawful T o o s (onDisp (fun d => epUpdate a (fun e =>
        { e with present := false, probeTime := some Config.probeSeconds, probeDue := false })
        { d with queue := d.queue.filter (· != a) }) (onEntry a (fun e => { e with miss := e.miss + 1 }) (freeLine s))) :=
      disp_lawful fun _ h => h.wentAbsent hop hnot
    exact (latch_lawful _).after ((sensorUpdate_lawful.after habsent).ite habsent)
  · cases transfer
    · exact disp_lawful fun _ h => hmissed h
    · exact disp_lawful fun _ h => hmissed h

theorem probeMissed_lawful (hop : s.disp.inFlight = some (.probe, a)) : Lawful T o o s (probeMissed a s) :=
  disp_lawful fun _ h => h.probeMissed hop

theorem probeFallsDue_eq (a : EpAddr) (s : Part) :
    probeFallsDue a s = { s with disp := (probeFallsDue a s).disp } := by
  unfold probeFallsDue
  (repeat' split) <;> rfl

theorem probeFallsDue_lawful : Lawful T o o s (probeFallsDue a s) :=
  driver_lawful (u := s.out) (probeFallsDue_eq a s) fun h => h.probeFallsDue a

end

theorem windowExpired_lawful : Lawful T o o s (windowExpired s) := by
  unfold windowExpired
  split
  · rename_i v a hop
    exact countMiss_lawful hop (Or.inr ⟨⟨v, rfl⟩, rfl⟩)
  · rename_i a hop
    exact countMiss_lawful hop (Or.inl ⟨rfl, rfl⟩)
  · rename_i a hop
    exact probeMissed_lawful hop
  · exact .refl

/-! ### The Host Port -/

/-- A change of the Host Port that leaves parameters and latch set alone. -/
theorem host_lawful {h : HostPort} (hparams : h.params = s.host.params)
    (hentries : T .entries → Law.entries.Kept o o' s { s with host := h })
    (hport : T .port → Law.port.Kept o o' s { s with host := h })
    (hevents : T .events → h.latched = s.host.latched ∧ (QFrame.event ∈ h.queue ↔ QFrame.event ∈ s.host.queue)) :
    Lawful T o o' s { s with host := h } :=
  .of (breaks := fun _ hl => by
        unfold Law.Kept BreaksLaw at *
        dsimp only
        rw [hparams]
        exact hl)
    (entries := hentries) (thresholds := fun _ hl => by dsimp only; rw [hparams]; exact hl) (port := hport)
    (events := fun hT hr => ⟨hr, Reports.same (by simp only [reported, hparams, (hevents hT).1]) (hevents hT).2⟩)

theorem frameEnd_lawful : Lawful T o o s (frameEnd s) :=
  host_lawful rfl (fun _ h => h) (fun _ h => h.congr rfl rfl rfl rfl fun _ h => h) fun _ => ⟨rfl, Iff.rfl⟩

theorem refuse_inFlight (tag kind : Byte) (r : Result) (h : HostPort) : (refuse tag kind r h).inFlight = h.inFlight := by
  unfold refuse; dsimp only; split <;> rfl

theorem event_mem_refuse (tag kind : Byte) (r : Result) (h : HostPort) :
    QFrame.event ∈ (refuse tag kind r h).queue ↔ QFrame.event ∈ h.queue := by
  unfold refuse; dsimp only; split <;> simp

theorem refuse_lawful {tag kind : Byte} {r : Result} : Lawful T o o s (onHost (refuse tag kind r) s) :=
  host_lawful (refuse_params ..) (fun _ h => by dsimp only; rw [refuse_inFlight]; exact h) (fun _ h => h.refuse)
    fun _ => ⟨refuse_latched .., event_mem_refuse ..⟩

/-- The entries of a tag wait (R191). -/
def awaiting (tag : Byte) (s : Part) : Part :=
  onHost (fun h => { h with inFlight := h.inFlight.map (setPhase tag .waiting) }) s

/-- The owner of a request keeps the laws: it answers, or the request waits from then on. -/
structure OwnerLawful (T : Law → Prop) (tag : Byte) (owner : Part → Part × Reply) : Prop where
  now : ∀ s r d, isRun s = true → (owner s).2 = .now r d → Lawful T (some tag) (some tag) s (owner s).1
  wait : ∀ s, isRun s = true → (owner s).2 = .wait → Lawful T (some tag) none s (awaiting tag (owner s).1)

/-- An owner that always answers. -/
theorem OwnerLawful.answers {tag : Byte} {owner : Part → Part × Reply}
    (h : ∀ s, isRun s = true → Lawful T (some tag) (some tag) s (owner s).1) (hn : ∀ s, (owner s).2 ≠ .wait) :
    OwnerLawful T tag owner := ⟨fun s _ _ hs _ => h s hs, fun s _ hw => absurd hw (hn s)⟩

/-- The answer of the owner takes the request off it. -/
theorem answered_port {tag : Byte} {r : Result} {d : List Byte}
    (k : PortMid (some tag) s.host s.form.forwards s.form.queue) :
    PortMid none (answer tag r d s).host (answer tag r d s).form.forwards (answer tag r d s).form.queue := by
  obtain ⟨e, he, htag, hphase⟩ := k.owner tag rfl
  have hform : (answer tag r d s).form = s.form := by rw [answer_eq]
  rw [hform]
  refine k.answer_host he htag (by simp [hphase]) (fun f hf hft => ?_) (by simp)
  obtain ⟨e', he', htag', hphase'⟩ := k.waiting f hf
  have hsame := List.inj_on_of_nodup_map k.tags he he' (htag.trans (htag'.trans hft).symm)
  rw [hsame, hphase'] at hphase
  cases hphase

theorem handRequest_lawful {kind tag : Byte} {owner : Part → Part × Reply} (h : OwnerLawful T tag owner)
    (hrun : isRun s = true) (hcount : s.host.inFlight.length < 4) (hfree : ∀ e ∈ s.host.inFlight, e.tag ≠ tag) :
    Lawful T none none s (handRequest kind tag owner s) := by
  have htake : Lawful T none (some tag) s
      (onHost (fun h => { h with inFlight := h.inFlight ++ [{ tag := tag, kind := kind, phase := .handed }] }) s) := by
    refine host_lawful rfl (fun _ ⟨_, hnd⟩ => ⟨by simpa using hcount, ?_⟩) (fun _ k => k.take hcount hfree) fun _ => ⟨rfl, Iff.rfl⟩
    simp only [List.map_append, List.map_cons, List.map_nil]
    refine List.nodup_append.mpr ⟨hnd, by simp, fun a ha b hb => ?_⟩
    obtain ⟨e, he, rfl⟩ := List.mem_map.mp ha
    obtain rfl : b = tag := by simpa using hb
    exact hfree e he
  unfold handRequest
  dsimp only
  split
  · rename_i s2 r d hown
    refine (answer_lawful fun _ => answered_port).after (Lawful.after ?_ htake)
    have := h.now (onHost _ s) r d hrun (congrArg Prod.snd hown)
    rwa [hown] at this
  · rename_i s2 hown
    have := (h.wait (onHost _ s) hrun (congrArg Prod.snd hown)).after htake
    rwa [hown] at this

theorem hostRequest_lawful {α : Type} {kind tag : Byte} {body : Option α} {owner : α → Part → Part × Reply}
    (h : ∀ b, body = some b → OwnerLawful T tag (owner b)) : Lawful T none none s (hostRequest kind tag body owner s) := by
  unfold hostRequest
  split
  · rename_i hrun
    dsimp only
    split
    · exact refuse_lawful.after frameEnd_lawful
    · exact refuse_lawful.after frameEnd_lawful
    · rename_i b hstage
      unfold stageFault at hstage
      split at hstage
      · cases hstage
      · rename_i hcount
        split at hstage
        · cases hstage
        · rename_i hany
          refine (handRequest_lawful (s := frameEnd s) (h b rfl) hrun (Nat.lt_of_not_le hcount) fun e he htag => hany ?_).after frameEnd_lawful
          exact List.any_eq_true.mpr ⟨e, he, by simpa using htag⟩
  · exact .refl

theorem unknownKind_lawful {kind tag : Byte} : Lawful T o o s (unknownKind kind tag s) := by
  unfold unknownKind
  exact (refuse_lawful.after frameEnd_lawful).ite .refl

/-- A request that passes its checks is taken with what the checks say. -/
theorem checked_lawful {checks : List (Bool × Result)} {take : Part → Part × Reply}
    (h : (∀ c ∈ checks, c.1 = false) → Lawful T o o s (take s).1) : Lawful T o o s (checked checks take s).1 := by
  unfold checked
  split
  · exact .refl
  · rename_i hnone
    exact h fun c hc => by simpa using List.find?_eq_none.mp hnone c hc

theorem checked_ne_wait {checks : List (Bool × Result)} {take : Part → Part × Reply} (h : (take s).2 ≠ .wait) :
    (checked checks take s).2 ≠ .wait := by
  unfold checked
  split
  · exact nofun
  · exact h

theorem pump_lawful (hT : ¬ T .events) : Lawful T o o s (pump s) := by
  have heq : pump s = { s with host := (pump s).host } := by
    unfold pump
    split <;> rfl
  have hparams : (pump s).host.params = s.host.params := by
    unfold pump
    split <;> rfl
  have hin : (pump s).host.inFlight = s.host.inFlight := by
    unfold pump
    split <;> rfl
  rw [heq]
  exact host_lawful hparams (fun _ h => by dsimp only; rw [hin]; exact h) (fun _ h => h.pump) fun h => absurd h hT

theorem finish_lawful (hT : ¬ T .events) : Lawful T o o s (finish s) := kick_lawful.after (pump_lawful hT)

end Sys2Proof.Proofs.Changes
end

section
/-! The owners of the requests are law-abiding, one lemma each, in the order of the model. -/
namespace Sys2Proof.Proofs.Changes
open Sys2Proof Sys2Proof.Machine Texts DisplayLine Legs Port FormationStores

-- The default evidence of `Lawful.of` is read from the checked environment: one proof after the other, no queue of threads.
set_option Elab.async false

variable {T : Law → Prop} {o : Option Byte} {x y z s : Part} {tag : Byte}

theorem taken_part (s : Part) : (taken s).1 = s := rfl

/-- A request that is answered wherever it is taken. -/
theorem checked_answers {checks : Part → List (Bool × Result)} {take : Part → Part × Reply}
    (h : ∀ s, isRun s = true → (∀ c ∈ checks s, c.1 = false) → Lawful T (some tag) (some tag) s (take s).1)
    (hn : ∀ s, (take s).2 ≠ .wait) : OwnerLawful T tag fun s => checked (checks s) take s :=
  .answers (fun s hs => checked_lawful (h s hs)) fun s => checked_ne_wait (hn s)

/-! ### CONFIG-SET -/

theorem put_thresholds {q : Params} {id v w : Nat} (hv : q.admitted id v = some w) (hq : q.offThreshold < q.onThreshold) :
    (q.put id w).offThreshold < (q.put id w).onThreshold := by
  unfold Params.put
  split
  case h_5 =>
    simp only [Params.admitted, Option.ite_none_right_eq_some, Bool.and_eq_true, decide_eq_true_eq, Option.some.injEq] at hv
    obtain ⟨⟨-, hlt⟩, rfl⟩ := hv
    exact hlt
  case h_6 =>
    simp only [Params.admitted, Option.ite_none_right_eq_some, Bool.and_eq_true, decide_eq_true_eq, Option.some.injEq] at hv
    obtain ⟨⟨-, hlt⟩, rfl⟩ := hv
    exact hlt
  all_goals exact hq

theorem put_breakLimit {q : Params} {id w : Nat} (hid : id ≠ 14) : (q.put id w).breakLimit = q.breakLimit := by
  unfold Params.put
  split
  case h_14 => exact absurd rfl hid
  all_goals rfl

theorem put_enable {q : Params} {id w : Nat} (hid : id ≠ 15) : (q.put id w).enable = q.enable := by
  unfold Params.put
  split
  case h_15 => exact absurd rfl hid
  all_goals rfl

theorem admitted_breakLimit {q : Params} {v w : Nat} (h : q.admitted 14 v = some w) : w ≤ 15 := by
  obtain rfl : clamp 0 15 v = w := by simpa [Params.admitted] using h
  simp [clamp]

/-- A parameter is stored; the break limit may leave the count above it until its owner acts. -/
theorem put_lawful {id v w : Nat} (hv : s.host.params.admitted id v = some w) (hbreaks : T .breaks → id ≠ 14)
    (hevents : T .events → id ≠ 15) : Lawful T o o s (onHost (fun h => { h with params := h.params.put id w }) s) :=
  .of (breaks := fun hT h => by
        unfold BreaksLaw at *
        simp only [onHost_host, onHost_supply, put_breakLimit (hbreaks hT)]
        exact h)
    (thresholds := fun _ => put_thresholds hv)
    (port := fun _ h => h.congr rfl rfl rfl rfl fun _ h => h)
    (events := fun hT hr => ⟨hr, Reports.same (by simp [reported, put_enable (hevents hT)]) Iff.rfl⟩)

/-- A change of the Supply Monitor that does not enter RUN. -/
theorem onSupply_lawful {f : Supply → Supply} (hbreaks : T .breaks → BreaksLaw s → BreaksLaw (onSupply f s))
    (hmode : T .events → (f s.supply).mode = .run → s.supply.mode = .run) : Lawful T o o s (onSupply f s) :=
  .of (breaks := hbreaks)
    (events := fun hT hr => ⟨(isRun_iff s).mpr (hmode hT ((isRun_iff _).mp hr)), Reports.refl _⟩)

/-- A break count of 0 passes no limit. -/
theorem breaksLaw_zero (h : BreaksLaw x) (hcount : y.supply.breakCount = 0)
    (hlimit : y.host.params.breakLimit = x.host.params.breakLimit) : BreaksLaw y := by
  obtain ⟨-, h2, -, -⟩ := h
  unfold BreaksLaw
  rw [hcount, hlimit]
  exact ⟨Nat.zero_le _, h2, fun _ => Nat.zero_le _, fun _ hne => Nat.pos_of_ne_zero hne⟩

theorem settleLimitChanged_lawful : Lawful T o o s (settleLimitChanged s) := by
  unfold settleLimitChanged
  split
  · exact Lawful.ite (onSupply_lawful (fun _ h => breaksLaw_zero h rfl rfl) fun _ h => h) .refl
  · exact .refl

theorem breakLimitChanged_lawful (hT : ¬ T .breaks) : Lawful T o o s (breakLimitChanged s) :=
  Lawful.ite (onSupply_lawful (fun h => absurd h hT) fun _ h => h) .refl

/-- A new break limit takes the count down to it. -/
theorem breakLimit_breaks {w : Nat} (hw : w ≤ 15) (hrun : isRun s = true) (h : BreaksLaw s) :
    BreaksLaw (breakLimitChanged (onHost (fun h => { h with params := h.params.put 14 w }) s)) := by
  obtain ⟨h1, -, -, -⟩ := h
  have hmode : s.supply.mode = .run := by simpa [isRun] using hrun
  unfold breakLimitChanged
  dsimp only
  split
  · refine ⟨hw, hw, fun _ => le_refl _, fun hh => ?_⟩
    simp [Holding, hmode] at hh
  · rename_i hno
    simp only [onHost_host, onHost_supply, Params.put, Bool.and_eq_true, bne_iff_ne, decide_eq_true_eq, not_and,
      Nat.not_lt] at hno
    refine ⟨h1, hw, hno, fun hh => ?_⟩
    simp [Holding, hmode] at hh

theorem enableChanged_lawful {old : BitVec 14} (hT : ¬ T .events) : Lawful T o o s (enableChanged old s) := by
  unfold enableChanged
  exact Lawful.ite (host_lawful (by simp) (fun _ h => by dsimp only; rw [arrangeEvent_inFlight]; exact h)
    (fun _ h => h.arrangeEvent) fun h => absurd h hT) .refl

theorem nightChanged_lawful : Lawful T o o s (nightChanged s) := restartStabling_lawful.after lightAndCompose_lawful

theorem configEffect_lawful {old : BitVec 14} {id : Nat} (hbreaks : T .breaks → id ≠ 14) (hevents : T .events → id ≠ 15) :
    Lawful T o o s (configEffect old id s) := by
  unfold configEffect
  split
  case h_1 => exact onForm_lawful
  case h_2 => exact composer_lawful.after estRecompute_lawful
  case h_3 => exact mapSensors_lawful
  case h_4 => exact mapSensors_lawful
  case h_5 => exact mapSensors_lawful
  case h_6 => exact nightChanged_lawful
  case h_7 => exact settleLimitChanged_lawful
  case h_8 => exact breakLimitChanged_lawful fun hT => hbreaks hT rfl
  case h_9 => exact enableChanged_lawful fun hT => hevents hT rfl
  case h_10 => exact .refl

theorem setParam_lawful {id v w : Nat} (hv : s.host.params.admitted id v = some w) (hrun : isRun s = true)
    (hevents : T .events → id ≠ 15) : Lawful T o o s (setParam id w s) := by
  unfold setParam
  split
  · exact .refl
  · by_cases hid : id = 14
    · subst hid
      exact .except .breaks ((configEffect_lawful (fun hT => absurd rfl hT.2) fun _ => by decide).after
        (put_lawful hv (fun hT => absurd rfl hT.2) fun _ => by decide))
        fun _ => breakLimit_breaks (admitted_breakLimit hv) hrun
    · exact (configEffect_lawful (fun _ => hid) hevents).after (put_lawful hv (fun _ => hid) hevents)

theorem ownConfigSet_lawful {b : Nat × Nat} (hevents : T .events → b.1 ≠ 15) : OwnerLawful T tag (ownConfigSet b) := by
  refine .answers (fun s hs => ?_) fun s => ?_
  all_goals
    unfold ownConfigSet
    split
  · exact .refl
  · rename_i w hv
    exact setParam_lawful hv hs hevents
  · exact nofun
  · exact nofun

/-! ### Queries -/

/-- An owner that changes nothing. -/
theorem query_lawful {owner : Part → Part × Reply} (h : ∀ s, (owner s).1 = s) (hn : ∀ s, (owner s).2 ≠ .wait) :
    OwnerLawful T tag owner := .answers (fun s _ => by rw [h]; exact .refl) hn

theorem checked_part {checks : List (Bool × Result)} {take : Part → Part × Reply} (h : (take s).1 = s) :
    (checked checks take s).1 = s := by
  unfold checked
  split
  · rfl
  · exact h

theorem ownConfigGet_lawful {id : Nat} : OwnerLawful T tag (ownConfigGet id) := by
  refine query_lawful (fun s => ?_) fun s => ?_
  all_goals
    unfold ownConfigGet
    split
  · rfl
  · split <;> rfl
  · nofun
  · split <;> nofun

theorem ownStatusQuery_lawful {b : Unit} : OwnerLawful T tag (ownStatusQuery b) := query_lawful (fun _ => rfl) fun _ => nofun

theorem ownTallyQuery_lawful {b : Unit} : OwnerLawful T tag (ownTallyQuery b) := query_lawful (fun _ => rfl) fun _ => nofun

theorem ownLevelQuery_lawful {b : Unit} : OwnerLawful T tag (ownLevelQuery b) := query_lawful (fun _ => rfl) fun _ => nofun

theorem ownRestart_lawful {b : Unit} : OwnerLawful T tag (ownRestart b) := query_lawful (fun _ => rfl) fun _ => nofun

theorem ownSeatQuery_lawful {b : Nat × Nat} : OwnerLawful T tag (ownSeatQuery b) := by
  refine query_lawful (fun s => ?_) fun s => ?_
  all_goals
    unfold ownSeatQuery
    split
  · rfl
  · rfl
  · nofun
  · nofun

theorem ownEndpointQuery_lawful {b : Nat × Nat × Nat} : OwnerLawful T tag (ownEndpointQuery b) :=
  query_lawful (fun _ => checked_part rfl) fun _ => checked_ne_wait nofun

/-! ### EVENT-CLEAR -/

theorem ownEventClear_lawful {m : Nat} (hT : ¬ T .events) : OwnerLawful T tag (ownEventClear m) := by
  refine .answers (fun s _ => ?_) fun s => ?_
  all_goals
    unfold ownEventClear
    split
  · exact .refl
  · refine .of (counts := fun _ h => ?_) (port := fun _ h => h.congr rfl rfl rfl rfl fun _ h => h)
      (events := fun h => absurd h hT)
    constructor
    · show (if inSet .legReleased _ then 0 else s.res.releaseCount) ≤ 65535
      split
      · exact Nat.zero_le _
      · exact h.1
    · show (if inSet .legOrphaned _ then 0 else s.res.orphanCount) ≤ 65535
      split
      · exact Nat.zero_le _
      · exact h.2
  · nofun
  · nofun

/-! ### The Unit Description -/

theorem takeDescription_lawful {g : Staging} (hg : T .form → g.coaches.length ≤ 8) : Lawful T o o s (takeDescription g s) := by
  unfold takeDescription
  dsimp only
  refine formationChanged_lawful.after (recordAlone_lawful.after ((panel_lawful (sameSlots_reevaluate _)).after
    (rebuildTally_lawful.after ?_)))
  exact .of (line := fun _ _ => .newTable _) (form := fun hT h => ⟨hg hT, h.2, h.3, h.4, h.5, h.6⟩)

/-- A segment that passed the checks joins at most seven others. -/
theorem stage_length {u : UnitDesc} {b : SegmentReq} (hbad : segmentBad b = false) (hfit : segmentMisfit u b = false) :
    (stage u b).coaches.length ≤ 8 := by
  simp only [segmentBad, Bool.or_eq_false_iff, decide_eq_false_iff_not] at hbad
  obtain ⟨⟨⟨⟨⟨⟨⟨⟨⟨-, -⟩, hcount⟩, hindex⟩, -⟩, -⟩, -⟩, -⟩, -⟩, -⟩ := hbad
  rw [stage, List.length_append, List.length_singleton]
  split
  · simp
  · rename_i hne
    unfold segmentMisfit at hfit
    cases hs : u.staging with
    | none => simp [hs, hne] at hfit
    | some g =>
      simp only [hs, Bool.and_eq_false_iff, Bool.or_eq_false_iff, bne_eq_false_iff_eq] at hfit
      obtain hzero | ⟨⟨hlen, -⟩, -⟩ := hfit
      · exact absurd hzero hne
      · rw [Option.map_some, Option.getD_some, hlen]
        omega

theorem ownUnitSetup_lawful {b : SegmentReq} : OwnerLawful T tag (ownUnitSetup b) := by
  refine .answers (fun s _ => ?_) fun s => ?_
  all_goals
    unfold ownUnitSetup
    split
  · exact .of
  · rename_i hnone
    have hpass (c : Bool × Result) (hc : c ∈ segmentChecks b s) : c.1 = false := by
      simpa using List.find?_eq_none.mp hnone c hc
    simp only [segmentChecks, Prod.forall, List.mem_cons] at hpass
    have hlen : (stage s.unit b).coaches.length ≤ 8 := stage_length (hpass _ .badField (by simp)) (hpass _ .badField (by simp))
    unfold collectSegment
    dsimp only
    split
    · split
      · exact .of
      · exact takeDescription_lawful fun _ => hlen
    · exact .of
  · nofun
  · unfold collectSegment
    dsimp only
    split
    · split <;> nofun
    · nofun

theorem takeNumbers_lawful {ns : List Nat} : Lawful T o o s (takeNumbers ns s) := by
  unfold takeNumbers
  dsimp only
  split
  · exact .refl
  · refine (ownEntryChanged_lawful fun _ hl u _ => ?_).after (composer_lawful.after ?_)
    · simpa [withNumbers, bookedNumbers] using hl.coaches
    · exact .of (form := fun _ h => ⟨(length_renumber ..).trans_le h.1, h.2, h.3, h.4, h.5, h.6⟩)

theorem ownCoachNumbers_lawful {ns : List Nat} : OwnerLawful T tag (ownCoachNumbers ns) :=
  checked_answers (fun _ _ _ => takeNumbers_lawful) fun _ => nofun

/-- A new route with its sequence derived anew: the orphaning pass that follows makes good what the sequence breaks. -/
theorem rederived_lawful {r : Route} {rest : List Note} (hclock : r.clock = s.route.clock)
    (hstops : r.stops.length = s.route.stops.length) (hhandles : routeHandles r = routeHandles s.route) :
    Lawful T o o s (handleNotes (.rederived :: rest) { s with route := r }) := by
  have hroute {U : Law → Prop} (hU : ¬ U .legs) : Lawful U o o s { s with route := r } :=
    .of (clock := fun _ h => hclock.trans_le h) (stops := fun _ h => hstops.trans_le h) (legs := fun h => absurd h hU)
      (refs := fun _ => refLaw_of fun a => by
        rw [count_namedHandles, count_namedHandles, hhandles])
  refine (handleNotes_lawful (notes := rest)).after (freeFinished_lawful.after (restorePass_lawful.after ?_))
  refine .except .legs (orphanPass_lawful.after (hroute fun h => h.2 rfl)) fun _ h => ?_
  have hseq : (orphanPass { s with route := r }).route = r := by
    unfold orphanPass noteOrphans
    dsimp only
    split <;> rfl
  rw [orphanPass_legs, hseq]
  exact LegsLaw.orphaned h r.ownSeq

theorem restatePortion_lawful : Lawful T o o s (restatePortion s) := by
  unfold restatePortion
  dsimp only
  split
  · exact handOff_lawful_of (rederived_lawful rfl rfl rfl)
  · exact composer_lawful.after (estRecompute_lawful.after (tallyUpdate_lawful.after recomputeSeats_lawful))

theorem takePortion_lawful {k : Nat} (hk : T .tag → k ≤ 2) : Lawful T o o s (takePortion k s) := by
  refine (ownEntryChanged_lawful fun _ _ u hu => ?_).after (restatePortion_lawful.after (.of (tag := fun hT _ => hk hT)))
  rw [booked_withRoute]
  exact hu

theorem ownPortionSet_lawful {k : Nat} : OwnerLawful T tag (ownPortionSet k) := by
  refine .answers (fun s _ => ?_) fun s => ?_
  all_goals
    unfold ownPortionSet
    split
  · exact .refl
  · rename_i hle
    split
    · exact .refl
    · rw [taken_part]
      exact takePortion_lawful fun _ => Nat.le_of_not_lt hle
  · nofun
  · split <;> nofun

/-! ### Texts -/

theorem nameHandle_lawful {h : Nat} : Lawful T o o s (nameHandle h s) := by
  unfold nameHandle
  exact (onDisp_lawful fun _ h => h.raiseAll _).after composer_lawful

theorem ownTextPut_lawful {b : Nat × Nat × List Byte} : OwnerLawful T tag (ownTextPut b) := by
  refine checked_answers (fun s _ hpass => ?_) fun _ => nofun
  simp only [List.forall_mem_cons] at hpass
  obtain ⟨-, -, hslot, -⟩ := hpass
  exact nameHandle_lawful.after (putVariant_lawful (by simpa using hslot))

theorem ownTextDrop_lawful {h : Nat} : OwnerLawful T tag (ownTextDrop h) := by
  refine checked_answers (fun s _ hpass => ?_) fun _ => nofun
  simp only [List.forall_mem_cons] at hpass
  obtain ⟨-, -, huse, -⟩ := hpass
  exact dropEntry_lawful fun _ => by simpa using huse

/-! ### The route table -/

theorem replaceRoute_lawful {g : PState} {id : Nat} {train : Option Nat}
    (hk : T .refs → ∀ a ∈ train.toList, textKnown s.text a = true) : Lawful T o o s (replaceRoute g id train s) := by
  unfold replaceRoute
  dsimp only
  refine routeIdChanged_lawful.after (handOff_lawful_of ?_)
  change Lawful T o o s (freeWhere (fun _ => true) (onRoute (emptyRoute g id train)
    (onText (fun t => releaseAll (routeHandles s.route) (retainAll train.toList t)) s)))
  refine .of (stops := fun _ _ => Nat.zero_le _) (legPool := fun _ h => (List.length_filter_le ..).trans h)
    (pool := fun _ hp => releaseAll_pool (retainAll_pool hp)) (legs := fun _ _ => ?_) (refs := fun hT hrefs a => ?_)
  · rw [freeWhere_res, List.filter_eq_nil_iff.mpr (by simp)]
    exact ⟨List.nodup_nil, .nil, nofun, nofun, nofun, nofun⟩
  · have hcount := refCount_of_refLaw hrefs a
    rw [count_namedHandles] at hcount
    show (namedHandles _).count a = refCount (releaseAll (routeHandles s.route) (retainAll train.toList s.text)) a
    rw [count_namedHandles, refCount_releaseAll, refCount_retainAll (hk hT)]
    simp only [freeWhere_route, freeWhere_panel, freeWhere_form,
      onRoute_route, onRoute_panel, onRoute_form, onText_panel, onText_form, emptyRoute, routeHandles, List.map_nil,
      List.flatten_nil, List.nil_append] at hcount ⊢
    omega

theorem textKnown_optHandle {t : TextStore} {h : Nat} (hk : (h != 0 && !textKnown t h) = false) :
    ∀ a ∈ (optHandle h).toList, textKnown t a = true := by
  intro a ha
  unfold optHandle at ha
  split at ha
  next => simp at ha
  next hne =>
    obtain rfl : a = h := by simpa using ha
    simpa [hne] using hk

theorem ownRouteOpen_lawful {b : Nat × Nat} : OwnerLawful T tag (ownRouteOpen b) := by
  refine checked_answers (fun s _ hpass => ?_) fun _ => nofun
  simp only [List.forall_mem_cons] at hpass
  obtain ⟨-, -, hknown, -⟩ := hpass
  exact replaceRoute_lawful fun _ => textKnown_optHandle hknown

theorem ownRouteClear_lawful {b : Unit} : OwnerLawful T tag (ownRouteClear b) :=
  checked_answers (fun _ _ _ => replaceRoute_lawful fun _ => by simp) fun _ => nofun

/-- The handles that a table names, with one record put in the place of another or appended. -/
theorem count_putStop (i : Nat) (r : StopRec) (stops : List StopRec) (a : Nat) :
    ((putStop i r stops).map recHandles).flatten.count a + (((stops[i]?).map recHandles).getD []).count a =
      (stops.map recHandles).flatten.count a + (recHandles r).count a := by
  unfold putStop
  split
  · rename_i hlt
    induction stops generalizing i with
    | nil => simp at hlt
    | cons q stops ih =>
      cases i with
      | zero => simp only [List.set_cons_zero, List.map_cons, List.flatten_cons, List.count_append,
          List.getElem?_cons_zero, Option.map_some, Option.getD_some]; omega
      | succ j =>
        have := ih j (by simpa using hlt)
        simp only [List.set_cons_succ, List.map_cons, List.flatten_cons, List.count_append, List.getElem?_cons_succ]
        omega
  · rename_i hge
    rw [List.getElem?_eq_none (Nat.le_of_not_lt hge)]
    simp

theorem length_putStop {i : Nat} {r : StopRec} {stops : List StopRec} (hi : i ≤ 63) (h : stops.length ≤ 64) :
    (putStop i r stops).length ≤ 64 := by
  unfold putStop
  split
  · simpa using h
  · rw [List.length_append, List.length_singleton]
    omega

theorem takeStop_lawful {b : StopReq} (hi : T .stops → b.index ≤ 63)
    (hk : T .refs → ∀ a ∈ recHandles (recordOf b), textKnown s.text a = true) : Lawful T o o s (takeStop b s) := by
  refine .of (stops := fun hT h => length_putStop (hi hT) h) (pool := fun _ hp => releaseAll_pool (retainAll_pool hp))
    (refs := fun hT hrefs a => ?_)
  have hcount := refCount_of_refLaw hrefs a
  have hput := count_putStop b.index (recordOf b) s.route.stops a
  rw [count_namedHandles] at hcount
  show (namedHandles (takeStop b s)).count a = refCount (releaseAll _ (retainAll (recHandles (recordOf b)) s.text)) a
  rw [count_namedHandles, refCount_releaseAll, refCount_retainAll (hk hT)]
  simp only [takeStop, onRoute_route, onRoute_panel, onRoute_form, onText_route, onText_panel, onText_form, routeHandles,
    List.count_append] at hcount ⊢
  omega

theorem stopBad_index {n : Nat} {b : StopReq} (h : stopBad n b = false) : b.index ≤ 63 := by
  by_contra hlt
  simp [stopBad, Nat.lt_of_not_le hlt] at h

theorem ownStopPut_lawful {b : StopReq} : OwnerLawful T tag (ownStopPut b) := by
  refine checked_answers (fun s _ hpass => ?_) fun _ => nofun
  simp only [List.forall_mem_cons] at hpass
  obtain ⟨-, hbad, -, hknown, -⟩ := hpass
  rw [Bool.or_eq_false_iff] at hknown
  refine takeStop_lawful (fun _ => stopBad_index hbad) fun _ a ha => ?_
  obtain rfl | ha := List.mem_append.mp ha |>.imp_left List.mem_singleton.mp
  · simpa [recordOf] using hknown.1
  · exact textKnown_optHandle hknown.2 a ha

theorem takeClose_lawful : Lawful T o o s (takeClose s) :=
  routeIdChanged_lawful.after (handOff_lawful_of (rederived_lawful rfl rfl rfl))

theorem ownRouteClose_lawful {b : Unit} : OwnerLawful T tag (ownRouteClose b) := by
  refine .answers (fun s _ => ?_) fun s => ?_
  all_goals
    unfold ownRouteClose
    split
  · exact .refl
  · split
    · exact .refl
    · exact takeClose_lawful
  · nofun
  · split <;> nofun

theorem handles_amended (b : AmendReq) (stops : List StopRec) :
    (amended b stops).map recHandles = stops.map recHandles := by
  unfold amended
  generalize b.index = i
  induction stops generalizing i with
  | nil => simp [modifyAt]
  | cons r stops ih =>
    cases i with
    | zero => rfl
    | succ j => simpa [modifyAt] using ih j

theorem takeAmend_lawful {b : AmendReq} : Lawful T o o s (takeAmend b s) := by
  have hlen : (amended b s.route.stops).length = s.route.stops.length := length_modifyAt ..
  have hhandles (r : Route) (hs : r.stops = amended b s.route.stops) (ht : r.train = s.route.train) :
      routeHandles r = routeHandles s.route := by
    rw [routeHandles, hs, ht, handles_amended]
    rfl
  unfold takeAmend
  dsimp only
  refine handOff_lawful_of ?_
  split
  · exact rederived_lawful rfl hlen (hhandles _ rfl rfl)
  · refine .of (stops := fun _ h => hlen.trans_le h) (refs := fun _ => refLaw_of fun a => ?_)
    rw [count_namedHandles, count_namedHandles]
    have := congrArg (List.count a) (hhandles { s.route with stops := amended b s.route.stops } rfl rfl)
    simp only [handleNotes, List.foldl_nil, onRoute_route, onRoute_panel, onRoute_form, onRoute_text, routeHandles] at this ⊢
    omega

theorem ownStopAmend_lawful {b : AmendReq} : OwnerLawful T tag (ownStopAmend b) :=
  checked_answers (fun _ _ _ => takeAmend_lawful) fun _ => nofun

theorem bcd_le {top : Nat} {b : Byte} (h : bcdOk top b = true) : bcd b ≤ top := by
  simp only [bcdOk, Bool.and_eq_true, decide_eq_true_eq] at h
  exact h.2

theorem seconds_le {t : ClockTime} (hday : t.day ≤ 1) (hok : t.ok = true) : t.seconds ≤ 172799 := by
  simp only [ClockTime.ok, Bool.and_eq_true] at hok
  obtain ⟨⟨hh, hm⟩, hs⟩ := hok
  have h1 := bcd_le hh
  have h2 := bcd_le hm
  have h3 := bcd_le hs
  unfold ClockTime.seconds
  omega

theorem ownTime_lawful {t : ClockTime} : OwnerLawful T tag (ownTime t) := by
  refine checked_answers (checks := fun _ => _) (fun s _ hpass => writeClock_lawful fun _ => ?_) fun _ => nofun
  simp only [List.forall_mem_cons] at hpass
  obtain ⟨hday, hok, -⟩ := hpass
  exact seconds_le (by simpa using hday) (by simpa using hok)

theorem ownDeparted_lawful {b : Nat × ClockTime} : OwnerLawful T tag (ownDeparted b) :=
  checked_answers (fun _ _ _ => handOff_lawful.after setProg_lawful) fun _ => nofun

theorem ownPositionReport_lawful {d : Int} : OwnerLawful T tag (ownPositionReport d) :=
  checked_answers (fun _ _ _ => handOff_lawful.after setProg_lawful) fun _ => nofun

theorem takeArrived_lawful {k t : Nat} : Lawful T o o s (takeArrived k t s) :=
  Lawful.ite (handOff_lawful.after setProg_lawful) (handOff_lawful.after setProg_lawful)

theorem ownArrived_lawful {b : Nat × ClockTime} : OwnerLawful T tag (ownArrived b) :=
  checked_answers (fun _ _ _ => takeArrived_lawful) fun _ => nofun

/-! ### Legs -/

theorem legOf_isNone {r : Reservations} {i : Nat} (h : (legOf r i).isSome = false) : ∀ l ∈ r.legs, l.id ≠ i := by
  have hnone : legOf r i = none := by simpa using h
  intro l hl hi
  have := List.find?_eq_none.mp hnone l hl
  simp [hi] at this

theorem length_insertBy {α : Type} (before : α → α → Bool) (x : α) (l : List α) :
    (insertBy before x l).length = l.length + 1 := by
  induction l with
  | nil => rfl
  | cons y l ih =>
    unfold insertBy
    split
    · rfl
    · simp [ih]

theorem ownLegAdd_lawful {b : LegReq} : OwnerLawful T tag (ownLegAdd b) := by
  refine checked_answers (fun s _ hpass => refreshSeats_lawful.after ?_) fun _ => nofun
  simp only [legChecks, List.forall_mem_cons] at hpass
  obtain ⟨-, hbad, -, hcall, -, hmeet, hfull, -⟩ := hpass
  simp only [Bool.or_eq_false_iff, decide_eq_false_iff_not, Nat.not_le] at hbad hmeet
  refine .of (legPool := fun _ _ => ?_) (legs := fun _ h => ?_)
  · rw [onRes_res, length_insertBy]
    simp only [freeLegs, beq_eq_false_iff_ne] at hfull
    have htop : Config.legRecords = 2048 := rfl
    omega
  · exact h.insert (legOf_isNone hmeet.1) rfl hbad.1.2 (by simpa using hcall) hmeet.2

theorem ownLegCancel_lawful {i : Nat} : OwnerLawful T tag (ownLegCancel i) :=
  checked_answers (fun _ _ _ => refreshSeats_lawful.after freeWhere_lawful) fun _ => nofun

theorem ownLegRestore_lawful {i : Nat} : OwnerLawful T tag (ownLegRestore i) := by
  refine checked_answers (fun s _ hpass => refreshSeats_lawful.after ?_) fun _ => nofun
  simp only [List.forall_mem_cons] at hpass
  obtain ⟨-, hsome, -, hcall, hmeet, -⟩ := hpass
  obtain ⟨l, hl⟩ : ∃ l, legOf s.res i = some l := Option.isSome_iff_exists.mp (by simpa using hsome)
  simp only [legTest, hl, Option.map_some, Option.getD_some, Bool.not_eq_eq_eq_not, Bool.not_false] at hcall hmeet
  exact mapLegs_lawful fun _ h => h.restore hl hcall hmeet

/-! ### Notices -/

theorem placeLocal_text_known {b : RaiseReq} {s : Part} (a : Nat) :
    textKnown (placeLocal b s).text a = textKnown s.text a := by
  unfold placeLocal
  dsimp only
  split
  · have hkept : Keeps [.panel, .disp] _ _ := afterSlots_keeps (before := stablingCondition s)
      (filled := some (raiseLevel b, ‹Nat›))
      (s := fillSlot (raiseLevel b) ‹Nat› none b.noticeId b.subPriority (raiseTargets b) b.handle b.duration s)
    have htext := hkept.all .text (by decide)
    simp only [Block.kept, Block.same] at htext
    rw [htext]
    exact textKnown_retain ..
  · rfl

theorem placeLocal_lawful {b : RaiseReq} (hk : T .refs → textKnown s.text b.handle = true) :
    Lawful T o o s (placeLocal b s) := by
  unfold placeLocal
  dsimp only
  split
  · rename_i i hi
    exact afterSlots_lawful.after (fillSlot_lawful (fun _ => getElem?_firstEmpty hi) hk)
  · exact .refl

theorem clearLocal_lawful {id : Nat} : Lawful T o o s (clearLocal id s) := by
  unfold clearLocal
  split
  · exact emptySlot_lawful
  · exact .refl

/-- A forward that runs joins both lists with the waiting of its request. -/
theorem makeForward_waits {id : Nat} {raise : Option RaiseData} {ds : List Nat}
    (hk : T .refs → ∀ r, raise = some r → textKnown s.text r.handle = true) (hroom : s.form.queue.length < Config.lineQueueMax) :
    Lawful T (some tag) none s (awaiting tag (makeForward tag id raise ds s).1) := by
  unfold makeForward
  rw [if_pos hroom]
  refine .of (lineQueue := fun _ _ => ?_) (entries := fun _ h => ?_) (pool := fun _ hp => retainAll_pool hp)
    (port := fun _ h => h.wait rfl) (refs := fun hT hrefs a => ?_)
    (events := fun _ hr => ⟨hr, Reports.same rfl Iff.rfl⟩)
  · exact (List.length_append ..).trans_le (Nat.succ_le_of_lt hroom)
  · simp only [awaiting, onHost_host, setPhase_tags, List.length_map]
    exact h
  · have hcount := refCount_of_refLaw hrefs a
    rw [count_namedHandles] at hcount
    simp only [awaiting]
    show (namedHandles _).count a = refCount (retainAll _ s.text) a
    rw [count_namedHandles, refCount_retainAll fun h hh => ?_]
    · simp only [onHost_route, onHost_panel, onHost_form, onText_route, onText_panel, onText_form, onForm_route, onForm_panel,
        onForm_form, forwardHandles_append, List.count_append]
      omega
    · cases raise with
      | none => simp [forwardHandles] at hh
      | some r =>
        obtain rfl : h = r.handle := by simpa [forwardHandles] using hh
        exact hk hT r rfl

/-- An owner that may leave its request to a forward. -/
theorem forwardReply_now {id : Nat} {raise : Option RaiseData} {ds : List Nat} {r : Result} {d : List Byte}
    (h : (forwardReply (makeForward tag id raise ds s)).2 = .now r d) : (makeForward tag id raise ds s).1 = s := by
  unfold makeForward at h ⊢
  split
  · rename_i hroom
    rw [if_pos hroom] at h
    cases h
  · rfl

theorem forwardReply_wait {id : Nat} {raise : Option RaiseData} {ds : List Nat}
    (h : (forwardReply (makeForward tag id raise ds s)).2 = .wait) : s.form.queue.length < Config.lineQueueMax := by
  by_contra hfull
  unfold makeForward at h
  rw [if_neg hfull] at h
  cases h

/-- A request that is forwarded after a change of the part. -/
theorem forward_lawful {id : Nat} {raise : Option RaiseData} {ds : List Nat}
    (h : Lawful T (some tag) (some tag) x s) (hk : T .refs → ∀ r, raise = some r → textKnown s.text r.handle = true) :
    (∀ r d, (forwardReply (makeForward tag id raise ds s)).2 = .now r d →
      Lawful T (some tag) (some tag) x (forwardReply (makeForward tag id raise ds s)).1) ∧
    ((forwardReply (makeForward tag id raise ds s)).2 = .wait →
      Lawful T (some tag) none x (awaiting tag (forwardReply (makeForward tag id raise ds s)).1)) := by
  rw [forwardReply_part]
  refine ⟨fun r d hnow => ?_, fun hwait => (makeForward_waits hk (forwardReply_wait hwait)).after h⟩
  rw [forwardReply_now hnow]
  exact h

theorem takeRaise_lawful {b : RaiseReq} (hk : T .refs → textKnown s.text b.handle = true) :
    (∀ r d, (takeRaise tag b s).2 = .now r d → Lawful T (some tag) (some tag) s (takeRaise tag b s).1) ∧
    ((takeRaise tag b s).2 = .wait → Lawful T (some tag) none s (awaiting tag (takeRaise tag b s).1)) := by
  unfold takeRaise
  dsimp only
  split
  · exact ⟨fun _ _ _ => placeLocal_lawful hk, nofun⟩
  · refine forward_lawful (placeLocal_lawful hk) fun hT r hr => ?_
    obtain rfl := Option.some.inj hr
    rw [placeLocal_text_known]
    exact hk hT

theorem ownNoticeRaise_lawful {b : RaiseReq} : OwnerLawful T tag (ownNoticeRaise tag b) := by
  have hraise (s : Part) : (ownNoticeRaise tag b s).1 = s ∧ (ownNoticeRaise tag b s).2 ≠ .wait ∨
      textKnown s.text b.handle = true ∧ ownNoticeRaise tag b s = takeRaise tag b s := by
    unfold ownNoticeRaise checked
    split
    · exact Or.inl ⟨rfl, nofun⟩
    · rename_i hnone
      refine Or.inr ⟨?_, rfl⟩
      simpa using List.find?_eq_none.mp hnone (!textKnown s.text b.handle, .notFound) (by simp)
  refine ⟨fun s r d _ hnow => ?_, fun s _ hwait => ?_⟩
  · obtain ⟨heq, -⟩ | ⟨hk, heq⟩ := hraise s
    · rw [heq]
      exact .refl
    · rw [heq] at hnow ⊢
      exact (takeRaise_lawful fun _ => hk).1 r d hnow
  · obtain ⟨-, hne⟩ | ⟨hk, heq⟩ := hraise s
    · exact absurd hwait hne
    · rw [heq] at hwait ⊢
      exact (takeRaise_lawful fun _ => hk).2 hwait

theorem ownNoticeClear_lawful {id : Nat} : OwnerLawful T tag (ownNoticeClear tag id) := by
  have hboth (s : Part) :
      (∀ r d, (ownNoticeClear tag id s).2 = .now r d → Lawful T (some tag) (some tag) s (ownNoticeClear tag id s).1) ∧
      ((ownNoticeClear tag id s).2 = .wait → Lawful T (some tag) none s (awaiting tag (ownNoticeClear tag id s).1)) := by
    unfold ownNoticeClear
    dsimp only
    split
    · exact ⟨fun _ _ _ => .refl, nofun⟩
    · split
      · exact ⟨fun _ _ _ => .refl, nofun⟩
      · split
        · exact ⟨fun _ _ _ => clearLocal_lawful, nofun⟩
        · exact forward_lawful clearLocal_lawful nofun
  exact ⟨fun s r d _ => (hboth s).1 r d, fun s _ => (hboth s).2⟩

end Sys2Proof.Proofs.Changes
end

section
/-! The supply and the events are law-abiding, one lemma each, and with them the effect of every command. -/
namespace Sys2Proof.Proofs.Changes
open Sys2Proof Sys2Proof.Machine Texts DisplayLine Legs Port FormationStores Effects

-- The default evidence of `Lawful.of` is read from the checked environment: one proof after the other, no queue of threads.
set_option Elab.async false

variable {T : Law → Prop} {o : Option Byte} {x y z s : Part}

/-! ### OFF, cold starts and restarts -/

/-- The cold part follows every law, whatever was before it. -/
theorem cold_lawful {m : SupplyMode} (hm : T .events → m ≠ .run) : Lawful T o none s (coldPart m s) := by
  refine .of (clock := fun _ _ => Nat.zero_le _) (breaks := fun _ _ => ?_) (stops := fun _ _ => Nat.zero_le _)
    (legPool := fun _ _ => Nat.zero_le _) (counts := fun _ _ => ⟨Nat.zero_le _, Nat.zero_le _⟩)
    (lineQueue := fun _ _ => Nat.zero_le _) (late := fun _ _ => Nat.zero_le _)
    (entries := fun _ _ => ⟨Nat.zero_le _, List.nodup_nil⟩) (slots := fun _ _ => ⟨rfl, rfl⟩) (tag := fun _ _ => Nat.zero_le _)
    (thresholds := fun _ _ => (by decide : 12 < 24)) (pool := fun _ _ => poolLaw_reset)
    (line := fun _ _ => (lineLaw_iff _).mp lineLaw_reset)
    (legs := fun _ _ => ⟨List.nodup_nil, .nil, nofun, nofun, nofun, nofun⟩)
    (port := fun _ _ => ⟨Nat.zero_le _, List.nodup_nil, nofun, nofun, List.nodup_nil, nofun, Nat.zero_le _, Nat.zero_le _,
      List.nodup_nil, nofun, nofun⟩)
    (refs := fun _ _ _ => rfl) (form := fun _ _ => ?_) (events := fun hT h => ?_)
  · exact ⟨Nat.zero_le _, (by decide : 6 ≤ 15), fun _ => Nat.zero_le _, fun _ _ => (by decide : 0 < 6)⟩
  · obtain ⟨-, hlaw⟩ := (formationBounds_iff _).mp formationBounds_reset
    exact ⟨hlaw.1, hlaw.2, hlaw.3, hlaw.4, hlaw.5, hlaw.6⟩
  · exact absurd ((isRun_iff _).mp h) (hm hT)

theorem recordOff_lawful {r : OffReason} : Lawful T o o s (recordOff r s) := onSupply_lawful (fun _ h => h) fun _ h => h

theorem enterOff_lawful {r : OffReason} : Lawful T o none s (enterOff r s) :=
  recordOff_lawful.after (cold_lawful fun _ => nofun)

theorem enterOffQuietly_lawful : Lawful T o none s (enterOffQuietly s) := cold_lawful fun _ => nofun

theorem enterColdStart_lawful : Lawful T o none s (enterColdStart s) := by
  have hcold : Lawful T o none s (onSupply (fun u => { u with clearing := !u.resetAsserted }) (coldPart .coldStart s)) :=
    Lawful.after (onSupply_lawful (fun _ h => h) fun _ h => h) (cold_lawful fun _ => nofun)
  exact (recordOff_lawful.after hcold).ite hcold

theorem restartPart_lawful : Lawful T o none s (restartPart s) := recordOff_lawful.after enterColdStart_lawful

theorem frameSent_lawful : Lawful T none none s (frameSent s) := by
  unfold frameSent
  refine Lawful.ite ?_ .refl
  split
  · rename_i f hf
    refine restartPart_lawful.ite (host_lawful rfl (fun _ ⟨hlen, hnd⟩ => ?_) (fun _ h => h.entryDone hf) fun _ => ⟨rfl, Iff.rfl⟩)
    dsimp only [entryDone]
    split
    · exact ⟨(List.length_filter_le ..).trans hlen, hnd.sublist (List.filter_sublist.map _)⟩
    · exact ⟨hlen, hnd⟩
  · exact .refl

/-! ### The supply -/

theorem hostStart_lawful (hT : ¬ T .events) : Lawful T o o s (hostStart s) :=
  .of (breaks := fun _ h => by
        unfold hostStart BreaksLaw at *
        rw [onHost_host, arrangeEvent_params]
        exact h)
    (entries := fun _ h => by
        unfold hostStart
        rw [onHost_host, arrangeEvent_inFlight]
        exact h)
    (thresholds := fun _ h => by
        unfold hostStart
        rw [onHost_host, arrangeEvent_params]
        exact h)
    (port := fun _ h => PortMid.arrangeEvent (h.congr rfl rfl rfl rfl fun _ h => h))
    (events := fun h => absurd h hT)

theorem startCold_lawful (hT : ¬ T .events) : Lawful T o o s (startCold s) := by
  refine (hostStart_lawful hT).after (restartStabling_lawful.after (recordAlone_lawful.after
    (Lawful.after onForm_lawful ?_)))
  refine onSupply_lawful (fun _ ⟨h1, h2, h3, _⟩ => ⟨h1, h2, h3, fun hh => ?_⟩) fun h => absurd h hT
  simp [Holding] at hh

/-- Where the line stops, no forward is left and the texts that they name are released. -/
theorem stopCoupler_lawful : Lawful T o o s (stopCoupler s) := by
  refine .of (lineQueue := fun _ _ => Nat.zero_le _) (late := fun _ _ => Nat.zero_le _) (pool := fun _ => releaseAll_pool)
    (port := fun _ h => ?_) (refs := fun _ hrefs a => ?_) (form := fun _ h => ?_)
  · exact ⟨h.count, h.tags, h.handed, h.owner, h.replies, h.sending, h.refusals, h.events, List.nodup_nil, nofun, nofun⟩
  · have hcount := refCount_of_refLaw hrefs a
    rw [count_namedHandles] at hcount
    show (namedHandles (stopCoupler s)).count a = refCount (releaseAll _ s.text) a
    rw [count_namedHandles, refCount_releaseAll]
    have hnone : (stopCoupler s).form.forwards = [] := rfl
    rw [hnone]
    simp only [stopCoupler, onText_route, onText_panel, onForm_route, onForm_panel, forwardHandles, List.filterMap_nil,
      List.map_nil, List.count_nil] at hcount ⊢
    omega
  · refine ⟨h.1, ?_, rollOk_none, ?_, h.5, List.nodup_nil, Nat.zero_le _⟩
    · simpa [stopCoupler] using h.2
    · simpa [stopCoupler] using h.4

/-- The Host Port stops with the coupler line stopped: no request is left, and no forward waits for one. -/
theorem stopHost_lawful (hforwards : s.form.forwards = []) (hqueue : s.form.queue = []) (hrun : isRun s = false) :
    Lawful T o none s (stopHost s) := by
  refine .of (entries := fun _ _ => ⟨Nat.zero_le _, List.nodup_nil⟩) (port := fun _ k => ?_) (events := fun _ hr => ?_)
  · refine ⟨Nat.zero_le _, List.nodup_nil, nofun, nofun, List.nodup_nil, nofun, Nat.zero_le _, Nat.zero_le _, k.forwards,
      fun f hf => ?_, fun tag ht => ?_⟩
    · have hnone : f ∈ s.form.forwards := hf
      rw [hforwards] at hnone
      cases hnone
    · have hnone : LineItem.noticeFwd tag ∈ s.form.queue := ht
      rw [hqueue] at hnone
      cases hnone
  · have hr' : isRun s = true := hr
    rw [hrun] at hr'
    cases hr'

theorem enterHold_lawful (hbelow : T .breaks → s.host.params.breakLimit ≠ 0 → s.supply.breakCount ≠ s.host.params.breakLimit) :
    Lawful T o none s (enterHold s) := by
  refine (stopHost_lawful rfl rfl rfl).after (stopCoupler_lawful.after ((onDisp_lawful fun _ h => h.abandon).after
    (onSupply_lawful (fun hT ⟨h1, h2, h3, _⟩ => ⟨h1, h2, h3, fun _ hne => ?_⟩) fun _ => nofun)))
  exact lt_of_le_of_ne (h3 hne) (hbelow hT hne)

theorem breakInRun_lawful : Lawful T o none s (breakInRun s) := by
  unfold breakInRun
  split
  · exact enterOff_lawful
  · rename_i hlimit
    refine enterOff_lawful.ite (enterHold_lawful fun _ hne heq => hlimit ?_)
    simp [hne, heq]

theorem handleBreak_lawful : Lawful T none none s (handleBreak s) := by
  unfold handleBreak
  split
  · exact breakInRun_lawful
  · exact enterOffQuietly_lawful.ite .refl
  · exact .refl

/-- The Supply Monitor changes, and neither its mode nor the break count with it. -/
theorem monitor_lawful {f : Supply → Supply} (hmode : (f s.supply).mode = s.supply.mode := by rfl)
    (hcount : (f s.supply).breakCount = s.supply.breakCount := by rfl) : Lawful T o o s (onSupply f s) :=
  onSupply_lawful (fun _ h => by
    unfold BreaksLaw Holding at *
    simp only [onSupply_supply, onSupply_host, hmode, hcount]
    exact h) fun _ h => hmode ▸ h

theorem mainBreak_lawful : Lawful T none none s (mainBreak s) :=
  Lawful.ite (handleBreak_lawful.after monitor_lawful) .refl

theorem staleProgress_lawful : Lawful T o o s (staleProgress s) :=
  Lawful.ite ((latch_lawful _).after setProg_lawful) .refl

theorem resumeRole_lawful : Lawful T o o s (resumeRole s) := by
  unfold resumeRole
  dsimp only
  split
  · exact (startAbsence_lawful.after evalQualEnd_lawful).ite (yieldLead_lawful.after evalQualEnd_lawful)
  · exact restartLoss_lawful.after evalQualEnd_lawful
  · exact (startRollCall_lawful.after evalQualEnd_lawful).ite (yieldLead_lawful.after evalQualEnd_lawful)
  · exact restartLoss_lawful.after evalQualEnd_lawful
  · exact restartLoss_lawful.after evalQualEnd_lawful
  · exact evalQualEnd_lawful

theorem returnAlone_lawful : Lawful T o o s (returnAlone s) := separate_lawful.after onForm_lawful

/-- In a hold the break count lies below its limit, so that it may rise by one (R182). -/
theorem breaks_of_return {u : Supply} (hhold : Holding s) (hu : u.breakCount = min 15 (s.supply.breakCount + 1))
    (hmode : u.mode = .run) (h : BreaksLaw s) : BreaksLaw { s with supply := u } := by
  obtain ⟨-, h2, -, h4⟩ := h
  refine ⟨?_, h2, fun hne => ?_, fun hh => ?_⟩
  · dsimp only
    omega
  · have hlt := h4 hhold hne
    dsimp only at hlt ⊢
    omega
  · simp [Holding, hmode] at hh

theorem warmReturn_lawful {extended : Bool} (hT : ¬ T .events) (hhold : Holding s) :
    Lawful T o o s (warmReturn extended s) := by
  have hrun : Lawful T o o s (onSupply (fun u => { u with
      mode := .run, hold := none, extHold := none, settle := some 0, breakCount := min 15 (u.breakCount + 1)
      startCause := if extended then .warmExtended else .warm }) s) :=
    onSupply_lawful (fun _ h => breaks_of_return hhold rfl rfl h) fun h => absurd h hT
  have hstaging (x : Part) : Lawful T o o x { x with unit := { x.unit with staging := none } } :=
    .of (form := fun _ h => ⟨h.1, h.2, h.3, h.4, h.5, h.6⟩)
  have hdisp := (onDisp_lawful (T := T) (o := o) fun _ h => h.warmDisplay).after ((hstaging _).after hrun)
  refine (hostStart_lawful hT).after (composer_lawful.after ?_)
  have hseats (x : Part) : Lawful T o o x (onForm (restartDebounce (debounceMs (refreshSeats (mapSensors (fun _ => {})
      (estRecompute x))).host.params.debounce)) (refreshSeats (mapSensors (fun _ => {}) (estRecompute x)))) :=
    Lawful.after onForm_lawful (refreshSeats_lawful.after (mapSensors_lawful.after estRecompute_lawful))
  cases extended
  · exact resumeRole_lawful.after ((hseats _).after hdisp)
  · exact returnAlone_lawful.after ((hseats _).after (staleProgress_lawful.after hdisp))

theorem handleReturn_lawful {mv : Nat} (hT : T .events → ¬ Holding s) : Lawful T none none s (handleReturn mv s) := by
  unfold handleReturn
  split
  · rename_i hmode
    exact warmReturn_lawful (fun he => hT he (Or.inl hmode)) (Or.inl hmode)
  · rename_i hmode
    exact warmReturn_lawful (fun he => hT he (Or.inr hmode)) (Or.inr hmode)
  · exact enterColdStart_lawful.after monitor_lawful
  · exact .refl

theorem mainReturn_lawful {mv : Nat} (hT : T .events → ¬ Holding s) : Lawful T none none s (mainReturn mv s) :=
  Lawful.ite (Lawful.after (handleReturn_lawful hT) monitor_lawful) .refl

theorem retentionFails_lawful : Lawful T none none s (retentionFails s) := by
  unfold retentionFails
  dsimp only
  split
  · exact enterOff_lawful.after monitor_lawful
  · exact enterOff_lawful.after monitor_lawful
  · exact (enterOffQuietly_lawful.after monitor_lawful).ite monitor_lawful
  · exact monitor_lawful
  · exact .refl

theorem retentionRecovers_lawful : Lawful T o o s (retentionRecovers s) := Lawful.ite .refl monitor_lawful

theorem holdExpires_lawful : Lawful T o o s (holdExpires s) := by
  unfold holdExpires
  split
  · rename_i h
    simp only [Bool.and_eq_true, beq_iff_eq] at h
    exact onSupply_lawful (fun _ ⟨h1, h2, h3, h4⟩ => ⟨h1, h2, h3, fun _ => h4 (Or.inl h.1)⟩) fun _ => nofun
  · exact .refl

theorem extendedExpires_lawful : Lawful T none none s (extendedExpires s) := enterOff_lawful.ite .refl

theorem clearingEnds_lawful (hT : T .events → s.supply.mode ≠ .coldStart) : Lawful T none none s (clearingEnds s) := by
  unfold clearingEnds
  split
  · rename_i h
    simp only [Bool.and_eq_true, beq_iff_eq] at h
    exact enterOffQuietly_lawful.ite (startCold_lawful fun he => hT he h.1)
  · exact .refl

theorem assertReset_lawful : Lawful T none none s (assertReset s) := by
  unfold assertReset
  dsimp only
  split
  · exact monitor_lawful
  · exact enterColdStart_lawful.after monitor_lawful

theorem releaseReset_lawful : Lawful T o o s (releaseReset s) := monitor_lawful

theorem settled_lawful : Lawful T o o s (settled s) :=
  Lawful.ite (onSupply_lawful (fun _ h => breaksLaw_zero h rfl rfl) fun _ h => h) .refl

theorem levelFalls_lawful {mv : Nat} : Lawful T o o s (onSupply (levelFalls mv) s) := by
  refine monitor_lawful ?_ ?_
  all_goals
    unfold levelFalls
    split <;> rfl

theorem levelRises_lawful {mv : Nat} : Lawful T o o s (onSupply (levelRises mv) s) := by
  refine monitor_lawful ?_ ?_
  all_goals
    unfold levelRises
    split <;> rfl

/-! ### Times -/

theorem advanceClock_lawful : Lawful T o o s (advanceClock s) := by
  unfold advanceClock
  split
  · rename_i hlt
    exact .of (clock := fun _ _ => Nat.succ_le_of_lt hlt)
  · exact Lawful.refl.ite ((latch_lawful _).after .of)

theorem sameSlots_beatRotations (q : Panels) : SameSlots q (beatRotations q) := by
  unfold beatRotations
  split
  · exact .refl q
  · have h (l : List (Option Slot)) := handlesOf_mapSlots (f := fun y => { y with rotation := beatContext y.rotation })
      (fun _ => rfl) l
    exact ⟨h _, h _⟩

theorem sameSlots_beatNotices (q : Panels) : SameSlots q (beatNotices q) := by
  have h (l : List (Option Slot)) := handlesOf_mapSlots (f := fun y => { y with remaining := countDown y.remaining })
    (fun _ => rfl) l
  exact ⟨h _, h _⟩

theorem beat_lawful : Lawful T o o s (beat s) := by
  unfold beat
  dsimp only
  split
  · refine (panel_lawful ?_).after ((onDisp_lawful fun _ h => h.beatProbes).after (mapSensors_lawful.after monitor_lawful))
    exact (sameSlots_beatRotations _).trans (sameSlots_beatNotices _)
  · exact Lawful.after (panel_lawful (sameSlots_beatNotices _)) monitor_lawful
  · exact monitor_lawful
  · exact .refl

theorem clockTick_lawful : Lawful T o o s (clockTick s) :=
  Lawful.ite (minuteAdvanced_lawful.after (refreshSeats_lawful.after (decideDeadlines_lawful.after
    (advanceClock_lawful.after beat_lawful)))) .refl

theorem claimDeadline_lawful {i : Nat} : Lawful T o o s (claimDeadline i s) := by
  refine refreshSeats_lawful.after (mapReleasing_lawful fun _ h => ?_)
  simpa using h.decide (p := fun l => l.id == i)

theorem evidenceExpires_lawful {c p : Nat} : Lawful T o o s (evidenceExpires c p s) :=
  Lawful.ite sensorUpdate_lawful .refl

theorem sameSlots_setRotation (q : Panels) (x : Context) (i : ContextId) : SameSlots q (setRotation q x i) := by
  cases i with
  | level l => exact sameSlots_setContext q l x
  | slot l i =>
    have h (m : List (Option Slot)) : handlesOf (modifyAt i (fun y => y.map fun z => { z with rotation := x }) m) =
        handlesOf m := handlesOf_modifyAt (fun y => by cases y <;> rfl) i m
    cases l
    · exact ⟨h _, rfl⟩
    · exact ⟨rfl, h _⟩

theorem dwellEnds_lawful {x : ContextId} : Lawful T o o s (dwellEnds x s) := by
  unfold dwellEnds
  split
  · exact Lawful.ite (renderPanels_lawful.after (panel_lawful (sameSlots_setRotation _ _ _))) .refl
  · exact .refl

theorem noticeExpires_lawful {l : NoticeLevel} {i : Nat} : Lawful T o o s (noticeExpires l i s) :=
  Lawful.ite ((latch_lawful _).after emptySlot_lawful) .refl

theorem stablingEnds_lawful : Lawful T o o s (stablingEnds s) :=
  Lawful.ite (composer_lawful.after (panel_lawful (.refl _))) .refl

/-! ### Unit-end inputs and roll calls -/

theorem inRun_lawful {f : Part → Part} (h : Lawful T o o s (f s)) : Lawful T o o s (inRun f s) := h.ite .refl

theorem senseChanges_lawful {e : UnitEnd} {c : Bool} : Lawful T o o s (senseChanges e c s) :=
  Lawful.refl.ite onForm_lawful

theorem couplingByRole_lawful : Lawful T o o s (couplingByRole s) := by
  unfold couplingByRole
  split
  · exact onForm_lawful
  · exact onForm_lawful
  · exact separate_lawful.ite (queueItem_lawful fun _ => nofun)
  · exact separate_lawful.ite .refl
  · exact separate_lawful.ite .refl
  · exact .refl

theorem couplingEvent_lawful {e : UnitEnd} : Lawful T o o s (couplingEvent e s) :=
  Lawful.ite (couplingByRole_lawful.after (evalQualEnd_lawful.after onForm_lawful)) .refl

theorem cabChanges_lawful {e : UnitEnd} {a : Bool} : Lawful T o o s (cabChanges e a s) :=
  Lawful.after (inRun_lawful evalQualEnd_lawful) onForm_lawful

theorem rollSensed_lawful {e : UnitEnd} : Lawful T o o s (rollSensed e s) :=
  Lawful.ite (sendLine_lawful.after onForm_lawful) .refl

theorem claimLead_lawful : Lawful T o o s (claimLead s) :=
  Lawful.ite (startRollCall_lawful.after (sendBeacon_lawful.after changeRole_lawful)) .refl

theorem awaitRoll_lawful : Lawful T o o s (awaitRoll s) :=
  restartLoss_lawful.after (Lawful.after onForm_lawful changeRole_lawful)

theorem hearRollCall_lawful {u : Nat} : Lawful T o o s (hearRollCall u s) := by
  unfold hearRollCall
  dsimp only
  split
  · exact (awaitRoll_lawful.after leaderConflict_lawful).ite leaderConflict_lawful
  · exact awaitRoll_lawful

/-- Collecting an answer keeps the bounds of a roll call, and one more answer than it may hold closes it. -/
theorem collect_bounds {f : RollAnswerFrame} {l : List RollAnswerFrame} (hf : f.booked.length ≤ 8)
    (h : l.length ≤ 1 ∧ ∀ x ∈ l, x.booked.length ≤ 8) :
    (collect f l).length ≤ 2 ∧ ∀ x ∈ collect f l, x.booked.length ≤ 8 := by
  refine ⟨(length_collect f l).trans (Nat.succ_le_succ h.1), fun x hx => ?_⟩
  obtain rfl | hx := mem_collect hx
  · exact hf
  · exact h.2 x hx

theorem hearAnswer_lawful {f : RollAnswerFrame} (hf : T .form → f.booked.length ≤ 8) : Lawful T o o s (hearAnswer f s) := by
  unfold hearAnswer
  split
  · rename_i l _ hl
    dsimp only
    split
    · exact closeRollCall_lawful fun hT h => collect_bounds (hf hT) (h.roll l hl)
    · rename_i hless
      refine .of (form := fun hT h => ⟨h.1, h.2, fun l' hl' => ?_, h.4, h.5, h.6⟩)
      obtain rfl : collect f l = l' := Option.some.inj hl'
      exact ⟨by omega, (collect_bounds (hf hT) (h.roll l hl)).2⟩
  · exact onForm_lawful
  · exact .refl

theorem rollSilence_lawful : Lawful T o o s (rollSilence s) := by
  unfold rollSilence
  split
  · rename_i l _ hl
    exact closeRollCall_lawful fun _ h => ⟨(h.roll l hl).1.trans (Nat.le_succ 1), (h.roll l hl).2⟩
  · exact .refl

theorem takeFormation_lawful {epoch : Nat} {units : List UnitEntry}
    (h : T .form → units.length ≤ 3 ∧ ∀ u ∈ units, u.booked.length ≤ 8) : Lawful T o o s (takeFormation epoch units s) := by
  unfold takeFormation
  dsimp only
  split
  · exact restartLoss_lawful.after (Lawful.after (takeRecord_lawful fun hT _ => h hT) onForm_lawful)
  · exact (latch_lawful _).after (separate_lawful.after onForm_lawful)

theorem hearFormation_lawful {leader epoch : Nat} {units : List UnitEntry}
    (h : T .form → units.length ≤ 3 ∧ ∀ u ∈ units, u.booked.length ≤ 8) :
    Lawful T o o s (hearFormation leader epoch units s) :=
  leaderConflict_lawful.ite ((takeFormation_lawful h).ite .refl)

/-! ### The line cycle -/

/-- A change of the Formation Controller that ends the grant in force and leaves its stores alone. -/
theorem endGrantWith_lawful {f : Formation → Formation} (hf : ∀ g, (f g).record = g.record ∧ (f g).rollCall = g.rollCall ∧
    (f g).trainTally = g.trainTally ∧ (f g).late = g.late ∧ (f g).queue = g.queue ∧ (f g).forwards = g.forwards) :
    Lawful T o o s (onForm f s) := by
  obtain ⟨h1, h2, h3, h4, h5, h6⟩ := hf s.form
  exact onForm_lawful h1 (fun h => h2 ▸ h) h3 h4 h5 h6

theorem lineCycle_lawful : Lawful T o o s (lineCycle s) := by
  have hended : Lawful T o o s (onForm (fun f => { endGrant f with windowOpen := false, responses := [] }) s) :=
    endGrantWith_lawful fun g => by simp
  unfold lineCycle
  dsimp only
  split
  · exact (startRollCall_lawful.after hended).ite (Lawful.after onForm_lawful (sendBeacon_lawful.after hended))
  · exact .refl

theorem ownTurn_lawful : Lawful T o o s (ownTurn s) :=
  Lawful.after (endGrantWith_lawful fun g => by simp [beginGrant]) sendGranted_lawful

theorem grantTo_lawful {u : Nat} : Lawful T o o s (grantTo u s) :=
  (ownTurn_lawful.after sendLine_lawful).ite (beginGrant_lawful.after sendLine_lawful)

theorem windowEnds_lawful : Lawful T o o s (windowEnds s) := by
  unfold windowEnds
  dsimp only
  split
  · split
    · exact Lawful.after grantTo_lawful onForm_lawful
    · exact onForm_lawful
  · exact .refl

theorem hearResponse_lawful {u c l : Nat} : Lawful T o o s (hearResponse u c l s) :=
  Lawful.ite (heardUnit_lawful.after onForm_lawful) .refl

theorem hearMark_lawful : Lawful T o o s (hearMark s) := Lawful.ite onForm_lawful .refl

theorem noteGrant_lawful {l u : Nat} : Lawful T o o s (noteGrant l u s) := beginGrant_lawful.ite .refl

theorem hearGrant_lawful {l u c : Nat} : Lawful T o o s (hearGrant l u c s) := by
  unfold hearGrant
  split
  · exact ownTurn_lawful.ite noteGrant_lawful
  · exact restartLoss_lawful.after noteGrant_lawful
  · exact leaderConflict_lawful.after noteGrant_lawful
  · exact leaderConflict_lawful.after noteGrant_lawful
  · exact .refl
  · exact noteGrant_lawful

/-! ### Data frames -/

theorem hearFormationReq_lawful {u e : Nat} : Lawful T o o s (hearFormationReq u e s) :=
  Lawful.ite (heardUnit_lawful.after onForm_lawful) .refl

theorem hearNoticeFwd_lawful {f : NoticeFwdFrame} : Lawful T o o s (hearNoticeFwd f s) := by
  unfold hearNoticeFwd
  dsimp only
  split
  · split
    · exact Lawful.after (queueItem_lawful fun _ => nofun) (receiveNotice_lawful.after heardUnit_lawful)
    · exact heardUnit_lawful
  · exact .refl

/-- Answering a forward leaves its tag and the text that it names. -/
theorem answerForward_lawful {f : NoticeAnsFrame} {e : Forward} (he : e ∈ s.form.forwards)
    (hnodup : T .refs → (s.form.forwards.map (·.tag)).Nodup) :
    Lawful T o o s (onForm (fun g =>
      { g with forwards := g.forwards.map fun x => if x.tag == e.tag then answered f e else x }) s) := by
  refine mapForwards_lawful (htags := fun _ => ?_) (hraise := fun hT => ?_)
  all_goals
    dsimp only
    rw [List.map_map]
    refine List.map_congr_left fun x hx => ?_
    simp only [Function.comp_apply]
    split
  · rename_i heq
    exact (beq_iff_eq.mp heq).symm
  · rfl
  · rename_i heq
    rw [List.inj_on_of_nodup_map (hnodup hT) hx he (beq_iff_eq.mp heq)]
    rfl
  · rfl

theorem completeForward_lawful {e : Forward} (h : T .port → ∃ f ∈ s.form.forwards, f.tag = e.tag) :
    Lawful T o o s (completeForward e s) := (endForward_lawful h).ite (endForward_lawful h)

theorem matchAnswer_lawful {f : NoticeAnsFrame} (hnodup : T .refs → (s.form.forwards.map (·.tag)).Nodup) :
    Lawful T o o s (matchAnswer f s) := by
  unfold matchAnswer
  dsimp only
  split
  · rename_i e hfind
    have he := List.mem_of_find?_eq_some hfind
    have hanswered := answerForward_lawful (T := T) (o := o) (f := f) he hnodup
    refine Lawful.ite (Lawful.after (completeForward_lawful fun _ => ?_) hanswered) hanswered
    exact ⟨answered f e, List.mem_map.mpr ⟨e, he, if_pos (beq_self_eq_true _)⟩, rfl⟩
  · exact .of (late := fun _ h => (List.length_filter_le ..).trans h)
      (form := fun _ h => ⟨h.1, h.2, h.3, h.4, h.5, h.6.1.filter _, (List.length_filter_le ..).trans h.6.2⟩)

theorem heardUnit_forwards (u : Nat) (s : Part) : (heardUnit u s).form.forwards = s.form.forwards := by
  unfold heardUnit
  split <;> rfl

theorem hearNoticeAns_lawful {f : NoticeAnsFrame} (hnodup : T .refs → (s.form.forwards.map (·.tag)).Nodup) :
    Lawful T o o s (hearNoticeAns f s) := by
  unfold hearNoticeAns
  dsimp only
  split
  · refine Lawful.ite ((matchAnswer_lawful fun hT => ?_).after heardUnit_lawful) heardUnit_lawful
    rw [heardUnit_forwards]
    exact hnodup hT
  · exact .refl

theorem hearTally_lawful {f : TallyFrame} (hf : T .form → f.wf = true) : Lawful T o o s (hearTally f s) := by
  unfold hearTally
  dsimp only
  split
  · exact ((takeTally_lawful hf).after heardUnit_lawful).ite heardUnit_lawful
  · exact .refl

/-! ### Times of the coupler line -/

theorem lossExpires_lawful : Lawful T o o s (lossExpires s) := (isolate_lawful.ite onForm_lawful).ite .refl

theorem absenceExpires_lawful {u : Nat} : Lawful T o o s (absenceExpires u s) := Lawful.ite onForm_lawful .refl

theorem answerExpires_lawful {n : Nat} : Lawful T o o s (answerExpires n s) := by
  unfold answerExpires
  split
  · rename_i e hfind
    have hlate (x : Part) : Lawful T o o x (onForm (fun f => { f with late := lateAfter n e.awaited f.late }) x) :=
      .of (late := fun _ h => length_lateAfter h) (form := fun _ h => ⟨h.1, h.2, h.3, h.4, h.5, lateAfter_law h.6⟩)
    exact (latch_lawful _).after ((hlate _).after
      (endForward_lawful fun _ => ⟨e, List.mem_of_find?_eq_some hfind, rfl⟩))
  · exact .refl

theorem spacingExpires_lawful : Lawful T o o s (spacingExpires s) := by
  unfold spacingExpires
  split
  · split
    · have hpaced (x : Part) : Lawful T o o x (onForm (fun f => { f with spacing := true, tallyPending := false }) x) :=
        onForm_lawful
      refine (hpaced (onForm queueTally s)).after ?_
      by_cases hqueued : s.form.queue.contains .tally = true
      · have hsame : onForm queueTally s = s := by simp only [onForm, queueTally, hqueued, if_true]
        rw [hsame]
        exact .refl
      · have hjoin : onForm queueTally s = onForm (queueItem .tally) s := by
          unfold onForm queueTally
          rw [if_neg hqueued]
        rw [hjoin]
        exact queueTally_lawful
    · exact onForm_lawful
  · exact .refl

/-- The head of the line queue leaves it. -/
theorem tailQueue_lawful {i : LineItem} {q : List LineItem} (hq : s.form.queue = i :: q) :
    Lawful T o o s (onForm (fun f => { f with queue := q }) s) :=
  .of (lineQueue := fun _ h => by
        have hlen := congrArg List.length hq
        rw [List.length_cons] at hlen
        have hlong : s.form.queue.length ≤ 16 := h
        show q.length ≤ 16
        omega)
    (port := fun _ h => h.congr rfl rfl rfl rfl fun _ hm => hq ▸ List.mem_cons_of_mem i hm)

theorem withdraw_lawful : Lawful T o o s (withdraw s) := by
  unfold withdraw
  split
  · exact .refl
  · rename_i tag q hq
    have hgone : Lawful T o o s (endForward tag .linkFailed [] (onForm (fun f => { f with queue := q }) s)) := by
      refine .except .port ((endForward_lawful fun hT => absurd rfl hT.2).after (tailQueue_lawful hq)) fun _ k => ?_
      exact endForward_port (k.items tag (hq ▸ List.mem_cons_self)) (k.congr rfl rfl rfl rfl fun _ hm =>
        hq ▸ List.mem_cons_of_mem _ hm)
    exact (latch_lawful _).after hgone
  · rename_i i q _ hq
    exact (latch_lawful _).after (tailQueue_lawful hq)

/-! ### The display line and the host line -/

theorem ackArrives_lawful {a : EpAddr} {w : Nat} : Lawful T o o s (ackArrives a w s) := by
  unfold ackArrives
  split
  · rename_i v b hop
    split
    · rename_i hab
      exact ackTransfer_lawful (beq_iff_eq.mp hab ▸ hop)
    · exact .refl
  · exact .refl

theorem replyArrives_lawful {a : EpAddr} {held : Option Nat} {x : PollStatus} : Lawful T o o s (replyArrives a held x s) := by
  unfold replyArrives
  split
  · rename_i b hop
    split
    · rename_i hab
      exact pollAnswered_lawful (beq_iff_eq.mp hab ▸ hop)
    · exact .refl
  · rename_i b hop
    split
    · rename_i hab
      exact probeAnswered_lawful (beq_iff_eq.mp hab ▸ hop)
    · exact .refl
  · exact .refl

theorem dropFrame_lawful : Lawful T o o s (dropFrame s) := frameEnd_lawful.ite .refl

theorem lengthError_lawful {n : Nat} : Lawful T o o s (lengthError n s) := dropFrame_lawful.ite .refl

theorem crcError_lawful {kind tag : Byte} {body : List Byte} {crc : BitVec 16} :
    Lawful T o o s (crcError kind tag body crc s) := Lawful.refl.ite (frameEnd_lawful.ite .refl)

theorem beginFrame_lawful {rest : List Byte} : Lawful T o o s (beginFrame rest s) := by
  unfold beginFrame onHost
  refine Lawful.ite ?_ .refl
  dsimp only
  split
  · exact host_lawful rfl (fun _ h => h) (fun _ h => h.congr rfl rfl rfl rfl fun _ h => h) fun _ => ⟨rfl, Iff.rfl⟩
  · exact host_lawful rfl (fun _ h => h) (fun _ h => h.congr rfl rfl rfl rfl fun _ h => h) fun _ => ⟨rfl, Iff.rfl⟩

end Sys2Proof.Proofs.Changes
end

section
/-! The effect of every command is law-abiding, and with it every step: the invariants that a step keeps. -/
namespace Sys2Proof.Proofs.Changes
open Sys2Proof Sys2Proof.Machine Texts DisplayLine Legs Port FormationStores Effects

-- The default evidence of `Lawful.of` is read from the checked environment: one proof after the other, no queue of threads.
set_option Elab.async false

variable {T : Law → Prop} {o : Option Byte} {x y s : Part} {c : Instr}

/-- The commands that tell of the reported set by latching alone: not those that clear or mask kinds, and not those that enter
RUN. -/
def Tracked (c : Instr) (x : Part) : Prop :=
  match c with
  | .eventClear _ _ => False
  | .configSet _ body => ∀ b, readConfigSet body = some b → b.1 ≠ 15
  | .clearingEnd => x.supply.mode ≠ .coldStart
  | .mainReturn _ => ¬ Holding x
  | _ => True

theorem beacon_clock {f : BeaconFrame} (h : (Instr.beacon f).wf = true) : f.clock ≤ 172799 := by
  simp only [Instr.wf, BeaconFrame.wf, Bool.and_eq_true, decide_eq_true_eq] at h
  obtain ⟨⟨⟨-, hclock⟩, -⟩, -⟩ := h
  exact hclock

theorem rollAnswer_booked {f : RollAnswerFrame} (h : (Instr.rollAnswer f).wf = true) : f.booked.length ≤ 8 := by
  simp only [Instr.wf, RollAnswerFrame.wf, Bool.and_eq_true] at h
  obtain ⟨⟨⟨-, hbooked⟩, -⟩, -⟩ := h
  exact bookedWf_length hbooked

theorem formation_units {l e : Nat} {us : List UnitEntry} (h : (Instr.formation l e us).wf = true) :
    us.length ≤ 3 ∧ ∀ u ∈ us, u.booked.length ≤ 8 := by
  simp only [Instr.wf, Bool.and_eq_true, decide_eq_true_eq, List.all_eq_true] at h
  obtain ⟨⟨-, hlen⟩, hall⟩ := h
  refine ⟨hlen, fun u hu => ?_⟩
  have hwf := hall u hu
  simp only [UnitEntry.wf, Bool.and_eq_true] at hwf
  obtain ⟨⟨⟨-, hbooked⟩, -⟩, -⟩ := hwf
  exact bookedWf_length hbooked

/-- Every command's effect follows the laws; a beacon brings a clock, frames bring units, and an answer is matched with the
forward of its tag. -/
theorem effect_lawful (c : Instr) (hclock : T .clock → c.wf = true) (hform : T .form → c.wf = true)
    (hrefs : T .refs → (x.form.forwards.map (·.tag)).Nodup) (hevents : T .events → Tracked c x) :
    Lawful T none none x (effect c x) := by
  cases c with
  | configSet tag body => exact hostRequest_lawful fun b hb => ownConfigSet_lawful fun hT => hevents hT b hb
  | configGet tag body => exact hostRequest_lawful fun _ _ => ownConfigGet_lawful
  | unitSetup tag body => exact hostRequest_lawful fun _ _ => ownUnitSetup_lawful
  | coachNumbers tag body => exact hostRequest_lawful fun _ _ => ownCoachNumbers_lawful
  | portionSet tag body => exact hostRequest_lawful fun _ _ => ownPortionSet_lawful
  | textPut tag body => exact hostRequest_lawful fun _ _ => ownTextPut_lawful
  | textDrop tag body => exact hostRequest_lawful fun _ _ => ownTextDrop_lawful
  | routeOpen tag body => exact hostRequest_lawful fun _ _ => ownRouteOpen_lawful
  | stopPut tag body => exact hostRequest_lawful fun _ _ => ownStopPut_lawful
  | routeClose tag body => exact hostRequest_lawful fun _ _ => ownRouteClose_lawful
  | routeClear tag body => exact hostRequest_lawful fun _ _ => ownRouteClear_lawful
  | stopAmend tag body => exact hostRequest_lawful fun _ _ => ownStopAmend_lawful
  | time tag body => exact hostRequest_lawful fun _ _ => ownTime_lawful
  | departed tag body => exact hostRequest_lawful fun _ _ => ownDeparted_lawful
  | arrived tag body => exact hostRequest_lawful fun _ _ => ownArrived_lawful
  | position tag body => exact hostRequest_lawful fun _ _ => ownPositionReport_lawful
  | legAdd tag body => exact hostRequest_lawful fun _ _ => ownLegAdd_lawful
  | legCancel tag body => exact hostRequest_lawful fun _ _ => ownLegCancel_lawful
  | legRestore tag body => exact hostRequest_lawful fun _ _ => ownLegRestore_lawful
  | seatQuery tag body => exact hostRequest_lawful fun _ _ => ownSeatQuery_lawful
  | tallyQuery tag body => exact hostRequest_lawful fun _ _ => ownTallyQuery_lawful
  | noticeRaise tag body => exact hostRequest_lawful fun _ _ => ownNoticeRaise_lawful
  | noticeClear tag body => exact hostRequest_lawful fun _ _ => ownNoticeClear_lawful
  | levelQuery tag body => exact hostRequest_lawful fun _ _ => ownLevelQuery_lawful
  | statusQuery tag body => exact hostRequest_lawful fun _ _ => ownStatusQuery_lawful
  | endpointQuery tag body => exact hostRequest_lawful fun _ _ => ownEndpointQuery_lawful
  | eventClear tag body => exact hostRequest_lawful fun _ _ => ownEventClear_lawful hevents
  | restart tag body => exact hostRequest_lawful fun _ _ => ownRestart_lawful
  | unknownKindFrame kind tag body => exact unknownKind_lawful
  | frameGapTimeout => exact dropFrame_lawful
  | frameSent => exact frameSent_lawful
  | mainLevelFall mv => exact levelFalls_lawful
  | mainLevelRise mv => exact levelRises_lawful
  | mainBreak => exact mainBreak_lawful
  | mainReturn mv => exact mainReturn_lawful hevents
  | retentionLow => exact retentionFails_lawful
  | retentionOk => exact retentionRecovers_lawful
  | holdTimeExpiry => exact holdExpires_lawful
  | extendedHoldExpiry => exact extendedExpires_lawful
  | clearingEnd => exact clearingEnds_lawful hevents
  | resetAssert => exact assertReset_lawful
  | resetRelease => exact releaseReset_lawful
  | settleLimitReached => exact settled_lawful
  | clockTick => exact clockTick_lawful
  | claimDeadline i => exact claimDeadline_lawful
  | coupledSenseChange e c => exact senseChanges_lawful
  | couplingEvent e => exact couplingEvent_lawful
  | cabActiveChange e a => exact cabChanges_lawful
  | rollSensed e => exact inRun_lawful rollSensed_lawful
  | claim => exact inRun_lawful claimLead_lawful
  | lineCycle => exact inRun_lawful lineCycle_lawful
  | requestWindowEnd => exact inRun_lawful windowEnds_lawful
  | beacon f => exact inRun_lawful (hearBeacon_lawful fun hT => beacon_clock (hclock hT))
  | windowResponse u c l => exact inRun_lawful hearResponse_lawful
  | openSlotMark => exact inRun_lawful hearMark_lawful
  | grant l u c => exact inRun_lawful hearGrant_lawful
  | releaseMark => exact inRun_lawful endGrant_lawful
  | rollCall u e => exact inRun_lawful hearRollCall_lawful
  | rollAnswer f => exact inRun_lawful (hearAnswer_lawful fun hT => rollAnswer_booked (hform hT))
  | rollAnswerSilence => exact inRun_lawful rollSilence_lawful
  | formation l e us => exact inRun_lawful (hearFormation_lawful fun hT => formation_units (hform hT))
  | formationReq u e => exact inRun_lawful hearFormationReq_lawful
  | noticeFwd f => exact inRun_lawful hearNoticeFwd_lawful
  | noticeAns f => exact inRun_lawful (hearNoticeAns_lawful hrefs)
  | tally f => exact inRun_lawful (hearTally_lawful hform)
  | beaconLoss => exact inRun_lawful lossExpires_lawful
  | absenceTimeExpiry u => exact inRun_lawful absenceExpires_lawful
  | answerTimeExpiry n => exact inRun_lawful answerExpires_lawful
  | spacingTimeExpiry => exact inRun_lawful spacingExpires_lawful
  | lineQueueWithdrawal => exact inRun_lawful withdraw_lawful
  | ack a v => exact inRun_lawful ackArrives_lawful
  | pollReply a h st => exact inRun_lawful replyArrives_lawful
  | replyWindowExpiry => exact inRun_lawful windowExpired_lawful
  | probeTimeExpiry a => exact inRun_lawful probeFallsDue_lawful
  | evidenceAgeExpiry c p => exact evidenceExpires_lawful
  | dwellExpiry i => exact dwellEnds_lawful
  | noticeExpiry l i => exact noticeExpires_lawful
  | stablingExpiry => exact stablingEnds_lawful
  | frameStartByte rest => exact beginFrame_lawful
  | frameLengthError n => exact lengthError_lawful
  | frameCrcError kind tag body crc => exact crcError_lawful

theorem quiet_lawful : Lawful T o o s (quiet s) := .of

/-- What a command does to the part follows the laws, those of the reported set apart. -/
theorem after_lawful (hT : ¬ T .events) (hclock : T .clock → c.wf = true) (hform : T .form → c.wf = true)
    (hrefs : T .refs → (x.form.forwards.map (·.tag)).Nodup) : Lawful T none none x (after c x) :=
  (finish_lawful hT).after ((effect_lawful (x := quiet x) c hclock hform hrefs fun he => absurd he hT).after quiet_lawful)

/-- A law of its own over a command, for the laws that no command threatens. -/
theorem after_keeps {l : Law} (hl : l ∉ [.events, .clock, .form, .refs]) (c : Instr) (x : Part) :
    l.Kept none none x (after c x) := by
  simp only [List.mem_cons, List.not_mem_nil, or_false, not_or] at hl
  obtain ⟨hevents, hclock, hform, hrefs⟩ := hl
  exact after_lawful (T := (· = l)) (fun h => hevents h.symm) (fun h => absurd h.symm hclock) (fun h => absurd h.symm hform)
    (fun h => absurd h.symm hrefs) l rfl

/-! ### The invariants -/

/-- A well-formed queue stays so, for a step takes commands off it alone. -/
theorem step_preserves_wf {I : Part → Prop} (hafter : ∀ c x, c.wf = true → I x → I (after c x)) {s t : State}
    (hwf : ∀ c ∈ s.pending, c.wf = true) (hs : I s.part) (h : step s = .next t) :
    I t.part ∧ ∀ c ∈ t.pending, c.wf = true := by
  obtain rfl | ⟨c, rest, hp, rfl⟩ := step_cases h
  · exact ⟨hs, hwf⟩
  · rw [hp, List.forall_mem_cons] at hwf
    exact ⟨hafter c _ hwf.1 hs, hwf.2⟩

/-- Settles O46: the clock counts to its top and no further, a beacon brings one in range, and the break count rises in a
return alone, from a hold in which it lies below the limit. -/
theorem theClockAndTheBreakCountStayInRange : Obligations.TheClockAndTheBreakCountStayInRange := by
  refine ⟨fun s t ⟨hclock, hwf⟩ hstep => ?_, fun s t => step_preserves (after_keeps (l := .breaks) (by decide))⟩
  exact step_preserves_wf (I := fun x => x.route.clock ≤ 172799) (fun c x hc hx =>
    after_lawful (T := (· = .clock)) nofun (fun _ => hc) nofun nofun .clock rfl hx) hwf hclock hstep

/-- Settles O47: one law for each store, each kept by every command. -/
theorem storesStayWithinTheirBounds : Obligations.StoresStayWithinTheirBounds := by
  rintro s t ⟨h1, h2, h3, h4, h5, h6, h7, h8, h9, h10, h11, h12⟩ hstep
  have hkept {l : Law} (hl : l ∉ [.events, .clock, .form, .refs]) : l.Kept none none s.part t.part := by
    obtain rfl | ⟨c, rest, -, rfl⟩ := step_cases hstep
    · exact Lawful.refl (T := (· = l)) l rfl
    · exact after_keeps hl c s.part
  obtain ⟨k3, k4⟩ := hkept (l := .counts) (by decide) ⟨h3, h4⟩
  obtain ⟨k7, k8⟩ := hkept (l := .entries) (by decide) ⟨h7, h8⟩
  obtain ⟨k9, k10⟩ := hkept (l := .slots) (by decide) ⟨h9, h10⟩
  exact ⟨hkept (l := .stops) (by decide) h1, hkept (l := .legPool) (by decide) h2, k3, k4,
    hkept (l := .lineQueue) (by decide) h5, hkept (l := .late) (by decide) h6, k7, k8, k9, k10,
    hkept (l := .tag) (by decide) h11, hkept (l := .thresholds) (by decide) h12⟩

/-- Settles O48: blocks move between chains and the free list, none is lost and none stands twice. -/
theorem thePoolKeepsItsBlocks : Obligations.ThePoolKeepsItsBlocks :=
  fun _ _ => step_preserves (I := fun x => PoolLaw x.text) (after_keeps (l := .pool) (by decide))

/-- Settles O49: the laws of the display line, address by address. -/
theorem theDisplayLineKeepsItsLaws : Obligations.TheDisplayLineKeepsItsLaws := by
  intro s t hs hstep
  rw [lineLaw_iff] at hs ⊢
  exact step_preserves (I := fun x => PointLaw x.disp) (after_keeps (l := .line) (by decide)) hs hstep

/-- Settles O55: the pool's law against the own portion sequence, through every change of either. -/
theorem legsKeepTheirLaw : Obligations.LegsKeepTheirLaw := by
  intro s t hs hstep
  rw [legLaw_iff] at hs ⊢
  exact step_preserves (I := fun x => LegsLaw x.res.legs x.route.ownSeq) (after_keeps (l := .legs) (by decide)) hs hstep

/-- Settles O57: entries, replies and forwards, with the request that is with its owner for the moment. -/
theorem requestsInFlightKeepTheirLaw : Obligations.RequestsInFlightKeepTheirLaw := by
  intro s t hs hstep
  rw [portLaw_iff] at hs ⊢
  exact step_preserves (I := fun x => PortMid none x.host x.form.forwards x.form.queue) (after_keeps (l := .port) (by decide))
    hs hstep

/-- Settles O56: every place that comes or goes is counted; the tags of the forwards are distinct by the law of requests in
flight, so that an answer changes the forward that it matches and no other. -/
theorem referenceCountsCountThePlaces : Obligations.ReferenceCountsCountThePlaces := by
  intro s t hport hrefs hstep
  have hnodup := ((portLaw_iff _).mp hport).forwards
  obtain rfl | ⟨c, rest, -, rfl⟩ := step_cases hstep
  · exact hrefs
  · exact after_lawful (T := (· = .refs)) nofun nofun nofun (fun _ => hnodup) .refs rfl hrefs

/-- Settles O58: well-formed frames bring no more than the stores of the formation may hold. -/
theorem theFormationKeepsItsBounds : Obligations.TheFormationKeepsItsBounds := by
  intro s t hs hstep
  rw [formationBounds_iff] at hs ⊢
  obtain ⟨hwf, hform⟩ := hs
  exact (step_preserves_wf (I := FormLaw) (fun c x hc hx =>
    after_lawful (T := (· = .form)) nofun nofun (fun _ => hc) nofun .form rfl hx) hwf hform hstep).symm

end Sys2Proof.Proofs.Changes
end

section
/-! The reported set and its EVENT frame (R197, R198): what the commands tell that clear or mask kinds or enter RUN, and what
the beginning of the next frame leaves told. -/
namespace Sys2Proof.Proofs.Reporting
open Sys2Proof Sys2Proof.Machine Changes Effects Port

variable {x y z : Part} {h h' h'' : HostPort}

/-- From one Host Port to the next a kind that joins the reported set has an EVENT frame waiting, and no other EVENT frame joins
the queue. -/
structure Tells (h h' : HostPort) : Prop where
  told : ∀ k, (reported h').getLsbD k = true → (reported h).getLsbD k = false → QFrame.event ∈ h'.queue
  only : QFrame.event ∈ h'.queue → QFrame.event ∈ h.queue ∨
    ∃ k, (reported h').getLsbD k = true ∧ (reported h).getLsbD k = false

/-- The same reported set, and an EVENT frame waits in both Host Ports or in neither. -/
def SameReport (h h' : HostPort) : Prop := reported h' = reported h ∧ (QFrame.event ∈ h'.queue ↔ QFrame.event ∈ h.queue)

theorem tells_of_reports (r : Reports h h') : Tells h h' := ⟨r.told, r.only⟩

theorem tells_of_same (k : SameReport h h') : Tells h h' := tells_of_reports (Reports.same k.1 k.2)

theorem Tells.between (t : Tells h' h'') (hl : SameReport h h') {h''' : HostPort} (hr : SameReport h'' h''') : Tells h h''' where
  told k hk hn := hr.2.mpr (t.told k (hr.1 ▸ hk) (hl.1 ▸ hn))
  only hm := by
    rw [hr.1, ← hl.1, ← hl.2]
    exact t.only (hr.2.mp hm)

/-! ### The commands that clear or mask kinds -/

theorem answer_sameReport (tag : Byte) (r : Result) (d : List Byte) (s : Part) :
    SameReport s.host (answer tag r d s).host := by
  unfold answer
  split
  · exact ⟨rfl, by simp⟩
  · exact ⟨rfl, Iff.rfl⟩

/-- An owner that answers at once tells with its step what it tells itself. -/
theorem hostRequest_tells {α : Type} {kind tag : Byte} {body : Option α} {owner : α → Part → Part × Reply}
    (hnow : ∀ b s, (owner b s).2 ≠ .wait) (hown : ∀ b s, body = some b → Tells s.host (owner b s).1.host) :
    Tells x.host (hostRequest kind tag body owner x).host := by
  have hrefuse (r : Result) : Tells x.host (onHost (refuse tag kind r) (frameEnd x)).host :=
    tells_of_same ⟨by simp [reported, frameEnd], by simp [frameEnd, event_mem_refuse]⟩
  unfold hostRequest
  split
  · dsimp only
    split
    · exact hrefuse _
    · exact hrefuse _
    · rename_i b _
      unfold handRequest
      dsimp only
      split
      · rename_i s2 r d heq
        have hs2 : s2 = (owner b _).1 := congrArg Prod.fst heq.symm
        rw [hs2]
        refine Tells.between (hown b _ rfl) ?_ (answer_sameReport ..)
        exact ⟨rfl, Iff.rfl⟩
      · rename_i heq
        exact absurd (congrArg Prod.snd heq) (hnow _ _)
  · exact tells_of_same ⟨rfl, Iff.rfl⟩

theorem ownEventClear_tells (m : Nat) (s : Part) : Tells s.host (ownEventClear m s).1.host := by
  unfold ownEventClear
  split
  · exact tells_of_same ⟨rfl, Iff.rfl⟩
  · refine ⟨fun k hk hn => ?_, Or.inl⟩
    simp only [takenWith, clearEvents, reported, BitVec.getLsbD_and, Bool.and_eq_true, Bool.and_eq_false_iff] at hk hn
    obtain ⟨⟨hlatched, -⟩, henable⟩ := hk
    simp [hlatched, henable] at hn

/-- A new enable set has an EVENT frame arranged exactly where it reports a kind more. -/
theorem setEnable_tells {v : Nat} {s : Part} : Tells s.host (setParam 15 v s).host := by
  unfold setParam
  split
  · exact tells_of_same ⟨rfl, Iff.rfl⟩
  · have hgain (new old : BitVec 14) : new &&& ~~~old ≠ 0#14 ↔ ∃ k, new.getLsbD k = true ∧ old.getLsbD k = false := by
      constructor
      · intro hne
        by_contra hno
        refine hne (BitVec.eq_of_getLsbD_eq fun k hk => ?_)
        cases hn : new.getLsbD k with
        | false => simp [hn]
        | true =>
          have hold : old.getLsbD k = true := by
            by_contra ho
            exact hno ⟨k, hn, by simpa using ho⟩
          simp [hold]
      · rintro ⟨k, hn, ho⟩ heq
        have hbit : (new &&& ~~~old).getLsbD k = (0#14).getLsbD k := by rw [heq]
        rw [BitVec.getLsbD_and, BitVec.getLsbD_not, hn, ho] at hbit
        simp [BitVec.lt_of_getLsbD hn] at hbit
    simp only [configEffect, enableChanged]
    split
    · rename_i hne
      have hmem (g : HostPort) : QFrame.event ∈ (arrangeEvent g).queue := by
        unfold arrangeEvent
        split <;> simp_all
      refine ⟨fun _ _ _ => hmem _, fun _ => Or.inr ?_⟩
      have hrep (g : HostPort) : reported (arrangeEvent g) = reported g := by simp [reported]
      rw [onHost_host, hrep]
      exact (hgain _ _).mp (by simpa using hne)
    · rename_i heq
      refine ⟨fun k hk hn => absurd ((hgain _ _).mpr ⟨k, hk, hn⟩) (by simpa using heq), Or.inl⟩

theorem ownConfigSet_tells {b : Nat × Nat} (hb : b.1 = 15) (s : Part) : Tells s.host (ownConfigSet b s).1.host := by
  unfold ownConfigSet
  split
  · exact tells_of_same ⟨rfl, Iff.rfl⟩
  · rw [hb]
    exact setEnable_tells

/-! ### Entry into RUN -/

theorem hostStart_event (s : Part) : QFrame.event ∈ (hostStart s).host.queue := by
  unfold hostStart
  rw [onHost_host]
  unfold arrangeEvent
  split <;> simp_all

theorem clearingEnds_event (hmode : x.supply.mode = .coldStart) (hrun : isRun (clearingEnds x) = true) :
    QFrame.event ∈ (clearingEnds x).host.queue := by
  unfold clearingEnds at *
  split
  · split
    · simp_all [enterOffQuietly, coldPart, coldSupply, isRun]
    · exact hostStart_event _
  · simp_all [isRun]

theorem mainReturn_event (hhold : Holding x) {mv : Nat} (hrun : isRun (mainReturn mv x) = true) :
    QFrame.event ∈ (mainReturn mv x).host.queue := by
  have hnot : isRun x = false := by
    unfold isRun
    obtain h | h := hhold <;> simp [h]
  unfold mainReturn at *
  split
  · rename_i hreturn
    rw [if_pos hreturn] at hrun
    unfold handleReturn
    obtain h | h := hhold
    · simp only [onSupply_supply, h]
      exact hostStart_event _
    · simp only [onSupply_supply, h]
      exact hostStart_event _
  · rename_i hno
    rw [if_neg hno, hnot] at hrun
    cases hrun

/-! ### Every command -/

/-- What a command that leaves the part in RUN tells: an EVENT frame waits for every kind gained, and from RUN it waits for no
other reason. -/
theorem effect_tells (c : Instr) (hrun : isRun (effect c x) = true) :
    Tells x.host (effect c x).host ∨ isRun x = false ∧ QFrame.event ∈ (effect c x).host.queue := by
  by_cases htracked : Tracked c x
  · exact Or.inl (tells_of_reports
      (effect_lawful (T := (· = .events)) c nofun nofun nofun (fun _ => htracked) .events rfl hrun).2)
  · cases c
    case eventClear tag body =>
      refine Or.inl (hostRequest_tells (fun b s => ?_) fun b s _ => ownEventClear_tells b s)
      unfold ownEventClear
      split <;> nofun
    case configSet tag body =>
      refine Or.inl (hostRequest_tells (fun b s => ?_) fun b s hb => ownConfigSet_tells ?_ s)
      · unfold ownConfigSet
        split <;> nofun
      · by_contra hne
        refine htracked fun b' hb' => ?_
        rw [hb] at hb'
        exact Option.some.inj hb' ▸ hne
    case clearingEnd =>
      have hmode : x.supply.mode = .coldStart := by simpa [Tracked] using htracked
      exact Or.inr ⟨by simp [isRun, hmode], clearingEnds_event hmode hrun⟩
    case mainReturn mv =>
      have hhold : Holding x := by simpa [Tracked] using htracked
      refine Or.inr ⟨?_, mainReturn_event hhold hrun⟩
      obtain h | h := hhold <;> simp [isRun, h]
    all_goals exact absurd trivial htracked

/-! ### The next frame -/

theorem nextFrame_event {q : List QFrame} (hq : QFrame.event ∈ q) :
    (nextFrame false q).1 = some .event ∨ QFrame.event ∈ (nextFrame false q).2 := by
  cases q with
  | nil => cases hq
  | cons a q => cases a <;> simp_all [nextFrame]

theorem mem_of_mem_nextFrame {b : Bool} {q : List QFrame} {a : QFrame} (h : a ∈ (nextFrame b q).2) : a ∈ q := by
  induction q with
  | nil => exact h
  | cons e q ih =>
    cases e with
    | event =>
      cases b
      · exact List.mem_cons_of_mem _ h
      · exact List.mem_cons_of_mem _ (ih h)
    | reply => exact List.mem_cons_of_mem _ h
    | refusal => exact List.mem_cons_of_mem _ h

/-- A waiting EVENT frame waits on or begins, where a kind is reported. -/
theorem pump_event (hrep : reported x.host ≠ 0#14) (hq : QFrame.event ∈ x.host.queue) :
    QFrame.event ∈ (pump x).host.queue ∨ (pump x).host.sending = some (sentFrame x .event) := by
  have hempty : (reported x.host == 0#14) = false := by simpa using hrep
  unfold pump
  rw [hempty]
  split
  · obtain hnow | hlater := nextFrame_event hq
    · exact Or.inr (by simp [hnow])
    · exact Or.inl hlater
  · exact Or.inl hq

theorem mem_queue_of_pump {a : QFrame} (h : a ∈ (pump x).host.queue) : a ∈ x.host.queue := by
  unfold pump at h
  split at h
  · exact mem_of_mem_nextFrame h
  · exact h

/-- The beginning of an operation on the display line leaves the endpoint table. -/
theorem kick_table (s : Part) : (kick s).disp.table = s.disp.table := by
  unfold kick arbiter beginTransfer beginPoll
  (repeat' split) <;> rfl

/-- Sending begins without a change of what an EVENT frame reads. -/
theorem eventBody_finish (s : Part) : eventBody (finish s) = eventBody s := by
  have hpump : eventBody (pump s) = eventBody s := by
    unfold pump
    split <;> rfl
  have hkick (y : Part) : eventBody (kick y) = eventBody y := by
    have hsame := kick_eq y
    unfold eventBody absentCount
    rw [kick_table]
    rw [hsame]
  exact (hkick _).trans hpump

theorem reported_finish (s : Part) : reported (finish s).host = reported s.host := by
  unfold finish
  rw [kick_host]
  unfold pump
  split <;> rfl

theorem finish_mode (s : Part) : (finish s).supply = s.supply := by
  unfold finish
  rw [kick_eq]
  unfold pump
  split <;> rfl

theorem attention_iff {s : Part} (hrun : isRun s = true) : attention s = true ↔ ∃ k < 14, (reported s.host).getLsbD k = true := by
  rw [attention, hrun, Bool.true_and, bne_iff_ne]
  constructor
  · intro hne
    by_contra hno
    refine hne (BitVec.eq_of_getLsbD_eq fun k hk => ?_)
    by_contra hb
    exact hno ⟨k, hk, by simpa using hb⟩
  · rintro ⟨k, -, hk⟩ heq
    simp [heq] at hk

/-- A command that leaves the part in RUN: a kind gained is told or being told, and no other EVENT frame joins the queue. -/
theorem after_tells (c : Instr) (x : Part) (hrun : isRun (after c x) = true) :
    ((∃ k < 14, (reported (after c x).host).getLsbD k = true ∧ (reported x.host).getLsbD k = false) →
      QFrame.event ∈ (after c x).host.queue ∨ (after c x).host.sending = some (sentFrame (after c x) .event)) ∧
    (isRun x = true → (¬ ∃ k < 14, (reported (after c x).host).getLsbD k = true ∧ (reported x.host).getLsbD k = false) →
      QFrame.event ∈ (after c x).host.queue → QFrame.event ∈ x.host.queue) := by
  have hqueue (e : QFrame) : e ∈ (after c x).host.queue ↔ e ∈ (pump (effect c (quiet x))).host.queue := by
    rw [after, finish, kick_host]
  have heffect : isRun (effect c (quiet x)) = true := by
    rw [after, isRun, finish_mode] at hrun
    exact hrun
  have htells := effect_tells c heffect
  rw [after, reported_finish]
  refine ⟨fun ⟨k, _, hk, hn⟩ => ?_, fun hx hno hm => ?_⟩
  · have hwaits : QFrame.event ∈ (effect c (quiet x)).host.queue := by
      obtain ht | ⟨-, hm⟩ := htells
      · exact ht.told k hk hn
      · exact hm
    have hrep : reported (effect c (quiet x)).host ≠ 0#14 := fun heq => by simp [heq] at hk
    obtain h1 | h1 := pump_event hrep hwaits
    · exact Or.inl ((hqueue _).mpr h1)
    · refine Or.inr ?_
      rw [finish, kick_host, h1, sentFrame, sentFrame, ← finish, eventBody_finish]
  · have hm' := mem_queue_of_pump ((hqueue _).mp hm)
    obtain ht | ⟨hnot, -⟩ := htells
    · obtain h1 | ⟨k, hk, hn⟩ := ht.only hm'
      · exact h1
      · exact absurd ⟨k, BitVec.lt_of_getLsbD hk, hk, hn⟩ hno
    · rw [show isRun x = false from hnot] at hx
      cases hx

/-- The frame on the line was sent, and it was no reply to a RESTART: the next frame of the queue has its turn. -/
theorem finish_frameSent {f : SentFrame} (hrun : isRun x = true) (hsending : x.host.sending = some f)
    (hrestart : restartSent f = false) :
    let n := nextFrame (reported x.host == 0#14) x.host.queue
    (finish (frameSent x)).host.queue = n.2 ∧ (finish (frameSent x)).host.sending = n.1.map (sentFrame x) := by
  have hsent : frameSent x = onHost (entryDone f) x := by
    simp [frameSent, hrun, hsending, hrestart]
  have hidle : (isRun (onHost (entryDone f) x) && (onHost (entryDone f) x).host.sending.isNone) = true := by
    simpa [entryDone, isRun] using hrun
  rw [hsent, finish, kick_host]
  unfold pump
  rw [if_pos hidle]
  exact ⟨rfl, rfl⟩

/-- Settles O59: a command's effect tells of the kinds it gains by an EVENT frame in the queue, and where the line is free that
frame may begin in the same step. -/
theorem aGainedEventIsReported : Obligations.AGainedEventIsReported := by
  refine ⟨fun c s t hexec hmode => ?step, fun s hmode => ?idle, fun s f rest hmode hsending hrestart hqueue => ?sent⟩
  case step =>
    rw [exec_eq] at hexec
    cases hexec
    have hrun : isRun (after c s.part) = true := (isRun_iff _).mpr hmode
    obtain ⟨h1, h2⟩ := after_tells c s.part hrun
    simp only [reported, BitVec.getLsbD_and] at h1 h2
    refine ⟨h1, fun hs => h2 ((isRun_iff _).mpr hs), ?_⟩
    simpa [reported] using attention_iff hrun
  case idle => simp [attention, isRun, hmode]
  case sent =>
    have hnot : restartSent f = false := by
      simp only [restartSent, Bool.and_eq_false_iff, beq_eq_false_iff_ne]
      rw [not_and_or, not_not] at hrestart
      exact hrestart.imp id fun h => by simp [h]
    obtain ⟨hq, hs⟩ := finish_frameSent (x := quiet s.part) ((isRun_iff _).mpr hmode) hsending hnot
    refine ⟨_, exec_eq .frameSent s, fun hne => ?_, fun hzero hrest => ?_⟩
    · have hrep : (reported (quiet s.part).host == 0#14) = false := by simpa [reported] using hne
      rw [hrep, show (quiet s.part).host.queue = .event :: rest from hqueue] at hq hs
      exact ⟨hq, hs⟩
    · have hrep : (reported (quiet s.part).host == 0#14) = true := by simpa [reported] using hzero
      rw [hrep, show (quiet s.part).host.queue = .event :: rest from hqueue, hrest] at hq hs
      exact ⟨hq, hs⟩

end Sys2Proof.Proofs.Reporting
end

section
/-! From an owner to the step: a request that the request stage lets through is answered by its owner, and what the owner
leaves is what the step leaves, but that the free lines begin to send. -/
namespace Sys2Proof.Proofs.Requests
open Sys2Proof Sys2Proof.Machine Effects ConfigGet Port

variable {α : Type} {s : State} {c : Instr} {kind tag : Byte} {b : α} {owner : α → Part → Part × Reply} {r : Result}
  {d : List Byte} {y : Part} {L : List Block}

/-! ### What the end of a step leaves -/

theorem pump_eq (s : Part) : pump s = { s with host := { s.host with queue := (pump s).host.queue
                                                                     sending := (pump s).host.sending } } := by
  unfold pump
  split <;> rfl

/-- Only queue and frame of the host line, the driver and the frames sent are changed where a step ends. -/
theorem finish_eq (s : Part) : finish s = { s with
    host := { s.host with queue := (finish s).host.queue, sending := (finish s).host.sending }
    disp := (finish s).disp, out := (finish s).out } := by
  unfold finish
  rw [Changes.kick_eq, pump_eq]

@[simp] theorem finish_unit (s : Part) : (finish s).unit = s.unit := by rw [finish_eq]
@[simp] theorem finish_text (s : Part) : (finish s).text = s.text := by rw [finish_eq]
@[simp] theorem finish_route (s : Part) : (finish s).route = s.route := by rw [finish_eq]
@[simp] theorem finish_est (s : Part) : (finish s).est = s.est := by rw [finish_eq]
@[simp] theorem finish_form (s : Part) : (finish s).form = s.form := by rw [finish_eq]
@[simp] theorem finish_res (s : Part) : (finish s).res = s.res := by rw [finish_eq]
@[simp] theorem finish_seat (s : Part) : (finish s).seat = s.seat := by rw [finish_eq]
@[simp] theorem finish_panel (s : Part) : (finish s).panel = s.panel := by rw [finish_eq]
@[simp] theorem finish_supply (s : Part) : (finish s).supply = s.supply := by rw [finish_eq]
@[simp] theorem finish_params (s : Part) : (finish s).host.params = s.host.params := by rw [finish_eq]
@[simp] theorem finish_latched (s : Part) : (finish s).host.latched = s.host.latched := by rw [finish_eq]

@[simp] theorem finish_table (s : Part) : (finish s).disp.table = s.disp.table := by
  rw [finish, Reporting.kick_table, pump_eq]

@[simp] theorem answer_unit (tag : Byte) (r : Result) (d : List Byte) (s : Part) : (answer tag r d s).unit = s.unit := by
  rw [answer_eq]
@[simp] theorem answer_text (tag : Byte) (r : Result) (d : List Byte) (s : Part) : (answer tag r d s).text = s.text := by
  rw [answer_eq]
@[simp] theorem answer_route (tag : Byte) (r : Result) (d : List Byte) (s : Part) : (answer tag r d s).route = s.route := by
  rw [answer_eq]
@[simp] theorem answer_est (tag : Byte) (r : Result) (d : List Byte) (s : Part) : (answer tag r d s).est = s.est := by
  rw [answer_eq]
@[simp] theorem answer_form (tag : Byte) (r : Result) (d : List Byte) (s : Part) : (answer tag r d s).form = s.form := by
  rw [answer_eq]
@[simp] theorem answer_res (tag : Byte) (r : Result) (d : List Byte) (s : Part) : (answer tag r d s).res = s.res := by
  rw [answer_eq]
@[simp] theorem answer_seat (tag : Byte) (r : Result) (d : List Byte) (s : Part) : (answer tag r d s).seat = s.seat := by
  rw [answer_eq]
@[simp] theorem answer_panel (tag : Byte) (r : Result) (d : List Byte) (s : Part) : (answer tag r d s).panel = s.panel := by
  rw [answer_eq]
@[simp] theorem answer_disp (tag : Byte) (r : Result) (d : List Byte) (s : Part) : (answer tag r d s).disp = s.disp := by
  rw [answer_eq]
@[simp] theorem answer_supply (tag : Byte) (r : Result) (d : List Byte) (s : Part) : (answer tag r d s).supply = s.supply := by
  rw [answer_eq]
@[simp] theorem answer_out (tag : Byte) (r : Result) (d : List Byte) (s : Part) : (answer tag r d s).out = s.out := by
  rw [answer_eq]
@[simp] theorem answer_params (tag : Byte) (r : Result) (d : List Byte) (s : Part) :
    (answer tag r d s).host.params = s.host.params := by
  unfold answer
  split <;> rfl
@[simp] theorem answer_latched (tag : Byte) (r : Result) (d : List Byte) (s : Part) :
    (answer tag r d s).host.latched = s.host.latched := by
  unfold answer
  split <;> rfl

@[simp] theorem handed_unit (kind tag : Byte) (s : Part) : (handed kind tag s).unit = s.unit := rfl
@[simp] theorem handed_text (kind tag : Byte) (s : Part) : (handed kind tag s).text = s.text := rfl
@[simp] theorem handed_route (kind tag : Byte) (s : Part) : (handed kind tag s).route = s.route := rfl
@[simp] theorem handed_est (kind tag : Byte) (s : Part) : (handed kind tag s).est = s.est := rfl
@[simp] theorem handed_form (kind tag : Byte) (s : Part) : (handed kind tag s).form = s.form := rfl
@[simp] theorem handed_res (kind tag : Byte) (s : Part) : (handed kind tag s).res = s.res := rfl
@[simp] theorem handed_seat (kind tag : Byte) (s : Part) : (handed kind tag s).seat = s.seat := rfl
@[simp] theorem handed_panel (kind tag : Byte) (s : Part) : (handed kind tag s).panel = s.panel := rfl
@[simp] theorem handed_disp (kind tag : Byte) (s : Part) : (handed kind tag s).disp = s.disp := rfl
@[simp] theorem handed_supply (kind tag : Byte) (s : Part) : (handed kind tag s).supply = s.supply := rfl
@[simp] theorem handed_latched (kind tag : Byte) (s : Part) : (handed kind tag s).host.latched = s.host.latched := rfl

/-! ### A request at its owner -/

/-- The effect of a request that the stage lets through is what its owner does, and the answer. -/
theorem effect_of_owner (h : Accepts s tag)
    (hc : effect c (quiet s.part) = hostRequest kind tag (some b) owner (quiet s.part))
    (ho : owner b (handed kind tag s.part) = (y, .now r d)) : effect c (quiet s.part) = answer tag r d y := by
  rw [hc, hostRequest_accepts h]
  unfold handRequest
  dsimp only
  rw [← handed, ho]

/-- A request that its owner answers at once, leaving the in-flight table alone. -/
theorem step_of_owner (h : Accepts s tag)
    (hc : effect c (quiet s.part) = hostRequest kind tag (some b) owner (quiet s.part)) (hkind : requestKind kind = true)
    (ho : owner b (handed kind tag s.part) = (y, .now r d))
    (hin : y.host.inFlight = (handed kind tag s.part).host.inFlight) :
    exec c s = .next { s with part := finish (answer tag r d y) } ∧
      Answered s { s with part := finish (answer tag r d y) } kind tag r d := by
  have heffect := effect_of_owner h hc ho
  have hanswered := handRequest_answered (x := handed kind tag s.part) (owner := owner b) h hkind rfl (congrArg Prod.snd ho)
    ((congrArg (·.1.host.inFlight) ho).trans hin)
  rw [← hostRequest_accepts h, ← hc, heffect] at hanswered
  exact ⟨by rw [exec_eq, after, heffect], hanswered⟩

theorem handed_keeps : Keeps [.host] (quiet s.part) (handed kind tag s.part) :=
  Keeps.step (M := [.host]) (onHostBut_keeps rfl rfl) (by simp) frameEnd_host_keeps

/-- The owner changes what it may change, and the step nothing else but the Host Port. -/
theorem only_of_owner (hy : Keeps L (handed kind tag s.part) y) :
    Only (.host :: L) s { s with part := finish (answer tag r d y) } := by
  refine Keeps.only (f := fun _ => answer tag r d y) (Keeps.step (M := [.host]) answer_keeps (by simp) ?_)
  refine Keeps.step hy ?_ (Keeps.step handed_keeps (by simp) .refl)
  simp [List.all_eq_true]
  tauto

theorem only_mono {M : List Block} {t : State} (h : Only L s t) (hM : (L.all fun b => M.contains b) = true) : Only M s t :=
  ⟨h.1, fun b hb => h.2 b fun hm => hb (by simpa using List.all_eq_true.mp hM b hm)⟩

/-- What an owner changes: nothing outside the list, and nothing of the in-flight table. -/
structure Leaves (L : List Block) (x y : Part) : Prop where
  keeps : Keeps L x y
  inFlight : y.host.inFlight = x.host.inFlight

theorem Leaves.refl (x : Part) : Leaves L x x := ⟨.refl, rfl⟩

theorem leaves_of_keeps {x : Part} (h : Keeps L x y) (hL : Block.host ∉ L) : Leaves L x y := ⟨h, (h.all .host hL).2.2.1⟩

/-- Steps compose: what comes last changes no more than the whole. -/
theorem Leaves.step {M : List Block} {x z : Part} (k : Leaves M y z) (hM : (M.all fun b => L.contains b) = true)
    (h : Leaves L x y) : Leaves L x z := ⟨Keeps.step k.keeps hM h.keeps, k.inFlight.trans h.inFlight⟩

/-- A request that its owner answers at once, with what the owner changes. -/
theorem step_of_taken (h : Accepts s tag)
    (hc : effect c (quiet s.part) = hostRequest kind tag (some b) owner (quiet s.part)) (hkind : requestKind kind = true)
    (ho : owner b (handed kind tag s.part) = (y, .now r d))
    (hy : Leaves L (handed kind tag s.part) y) :
    ∃ t, exec c s = .next t ∧ t = { s with part := finish (answer tag r d y) } ∧ Answered s t kind tag r d ∧
      Only (.host :: L) s t :=
  have ⟨hexec, hanswered⟩ := step_of_owner h hc hkind ho hy.inFlight
  ⟨_, hexec, rfl, hanswered, only_of_owner hy.keeps⟩

/-- A request that its owner answers without a change. -/
theorem step_of_unchanged (h : Accepts s tag)
    (hc : effect c (quiet s.part) = hostRequest kind tag (some b) owner (quiet s.part)) (hkind : requestKind kind = true)
    (ho : owner b (handed kind tag s.part) = (handed kind tag s.part, .now r d)) :
    ∃ t, exec c s = .next t ∧ Only [.host] s t ∧ Answered s t kind tag r d := by
  obtain ⟨t, hexec, -, hanswered, honly⟩ := step_of_taken (L := []) h hc hkind ho (.refl _)
  exact ⟨t, hexec, honly, hanswered⟩

section
variable {k : Bool × Result} {ks : List (Bool × Result)} {take : Part → Part × Reply} {x : Part}

/-- The first check that fails gives the answer. -/
theorem checked_here (hk : k.1 = true) : checked (k :: ks) take x = (x, .now k.2 []) := by
  simp only [checked, List.find?_cons, hk, refused]

theorem checked_next (hk : k.1 = false) : checked (k :: ks) take x = checked ks take x := by
  simp only [checked, List.find?_cons, hk]

/-- Where no check fails the request is taken. -/
theorem checked_nil : checked [] take x = take x := rfl

end

end Sys2Proof.Proofs.Requests
end

section
/-! The queries: the details that their owners give, byte by byte, and no change. -/
namespace Sys2Proof.Proofs.Queries
open Sys2Proof Sys2Proof.Machine Effects ConfigGet Requests DisplayLine

/-! ### Bytes -/

theorem byte_flag (b : Bool) : byte (if b then 1 else 0) = if b then 1#8 else 0#8 := by cases b <;> rfl

theorem byte_clear (b : Bool) : byte (if !b then 1 else 0) = if b then 0#8 else 1#8 := by cases b <;> rfl

theorem byte_source (x : Source) : byte (if x == .own then 0 else 1) = if x = .beacon then 1#8 else 0#8 := by cases x <;> rfl

theorem byte_unless (b : Bool) : byte (if b then 0 else 1) = if b then 0#8 else 1#8 := by cases b <;> rfl

@[simp] theorem length_e1 (n : Nat) : (e1 n).length = 1 := rfl
@[simp] theorem length_e2 (n : Nat) : (e2 n).length = 2 := rfl
@[simp] theorem length_e3 (n : Nat) : (e3 n).length = 3 := rfl
@[simp] theorem length_o1 (n : Option Nat) : (o1 n).length = 1 := rfl
@[simp] theorem length_o2 (n : Option Nat) : (o2 n).length = 2 := rfl
@[simp] theorem length_o3 (n : Option Nat) : (o3 n).length = 3 := rfl
@[simp] theorem length_eb (b : Bool) : (eb b).length = 1 := rfl

theorem flatten_map_e1 (l : List Nat) : (l.map e1).flatten = l.map byte := by
  induction l with
  | nil => rfl
  | cons n l ih => simp [e1, ih]

/-- The bytes of a list, entry by entry. -/
theorem flatten_map_congr {α : Type} {f g : α → List Byte} (h : ∀ x, f x = g x) (l : List α) :
    (l.map f).flatten = (l.map g).flatten := by
  rw [funext h]

theorem kindRank_bytes (k : EpKind) : byte (kindRank k) = (match k with
    | .seat => 0#8
    | .interior => 1#8
    | .exterior => 2#8) := by cases k <;> rfl

/-- The three bytes of an address, or of none. -/
theorem oAddr_bytes (o : Option EpAddr) : oAddr o = (match o with
    | some a => [byte a.coach, (match a.kind with
        | .seat => 0#8
        | .interior => 1#8
        | .exterior => 2#8), byte a.number]
    | none => [255#8, 255#8, 255#8]) := by
  cases o with
  | none => rfl
  | some a => exact congrArg (fun k => [byte a.coach, k, byte a.number]) (kindRank_bytes a.kind)

/-! ### Counts -/

theorem sensorCount_eq (q : SeatSense) (f : Sensor → Bool) : sensorCount q f = (q.sensors.flatten.filter f).length := by
  simp [sensorCount, List.filter_flatten, List.length_flatten, Function.comp_def]

theorem present_count (l : List EpEntry) :
    l.length - (l.filter fun e => !e.present).length = (l.filter fun e => e.present).length := by
  have := List.length_eq_length_filter_add (l := l) fun e => e.present
  omega

/-! ### ENDPOINT-QUERY -/

/-- The entries of the table that a query picks, each with its index. -/
def picked (start sel max : Nat) (d : Display) : List (EpEntry × Nat) :=
  ((d.table.zipIdx.drop start).filter fun x => sel == 0 || !x.1.present).take max

theorem pickEntries_eq {start sel max : Nat} (hsel : sel ≤ 1) (d : Display) :
    pickEntries (sel == 1) start max d = (picked start sel max d).map Prod.swap := by
  have hall : ((!(sel == 1)) = (sel == 0)) := by
    obtain rfl | rfl : sel = 0 ∨ sel = 1 := by omega
    all_goals rfl
  unfold pickEntries picked
  rw [hall, mapFrom_eq_map_zipIdx, List.map_take, ← List.map_drop, List.filter_map]
  rfl

/-- The index to go on at, by the last entry picked. -/
theorem nextIndex_eq {start sel max : Nat} (hmax : 1 ≤ max) (d : Display) :
    (nextIndex start max d ((picked start sel max d).map Prod.swap)).getD 65535 =
      match (picked start sel max d).getLast? with
      | some x => if (picked start sel max d).length = max ∧ x.2 + 1 < d.table.length then x.2 + 1 else 65535
      | none => 65535 := by
  have hle : (picked start sel max d).length ≤ max := List.length_take_le ..
  unfold nextIndex
  rw [List.length_map, List.getLast?_map]
  cases hlast : (picked start sel max d).getLast? with
  | none =>
    have hnil : picked start sel max d = [] := List.getLast?_eq_none_iff.mp hlast
    rw [hnil]
    dsimp only [List.length_nil]
    rw [if_pos (Nat.lt_of_lt_of_le Nat.zero_lt_one hmax)]
    rfl
  | some x =>
    dsimp only [Option.map_some, Option.getD_some, Prod.swap]
    by_cases hfull : (picked start sel max d).length = max
    · rw [if_neg (by omega)]
      by_cases hmore : x.2 + 1 < d.table.length
      · rw [if_pos hmore, if_pos ⟨hfull, hmore⟩]
        rfl
      · rw [if_neg hmore, if_neg fun h => hmore h.2]
        rfl
    · rw [if_pos (by omega), if_neg fun h => hfull h.1]
      rfl

@[simp] theorem length_estDetail (e : Option EstEntry) : (estDetail e).length = 7 := by
  unfold estDetail
  split
  · rename_i x
    cases x.delay <;> cases x.minutes <;> rfl
  · rfl

theorem length_statusDetail (s : Part) : (statusDetail s).length = 70 := by
  unfold statusDetail
  simp only [List.length_append, length_e1, length_e2, length_e3, length_o1, length_o2, length_o3, length_eb, length_estDetail]

/-- Settles O6: each owner answers with what it reads and changes nothing; the details byte by byte. -/
theorem queriesAnswerAndChangeNothing : Obligations.QueriesAnswerAndChangeNothing := by
  refine ⟨fun s tag body c p h hbody => ?seat, fun s tag h => ?tally, fun s tag h => ?level, fun s tag h => ?status,
    fun s tag body start sel max h hbody hsel hmax1 hmax2 hstart hlow => ?endpoint,
    fun s tag body start sel max h hbody hbad => ?bad⟩
  case seat =>
    have hstep {r : Result} {d : List Byte}
        (ho : ownSeatQuery (c, p) (handed 0x14#8 tag s.part) = (handed 0x14#8 tag s.part, .now r d)) :
        ∃ t, exec (.seatQuery tag body) s = .next t ∧ Only [.host] s t ∧ Answered s t 0x14#8 tag r d :=
      step_of_unchanged h (by rw [← hbody]; rfl) rfl ho
    cases hseat : seatAt s.part.unit c p with
    | none =>
      refine hstep ?_
      simp only [ownSeatQuery, handed_unit, hseat, refused]
    | some r =>
      refine hstep ?_
      simp only [ownSeatQuery, handed_unit, hseat, takenWith]
      refine Prod.ext rfl (congrArg (Reply.now .ok) ?_)
      simp only [seatDetail, e1, e2, o1, eb, eList, List.cons_append, List.nil_append, List.cons.injEq, true_and, handed_res,
        handed_seat]
      refine ⟨byte_flag _, byte_unless _, ?_, rfl, rfl, by rw [List.length_take]; rfl, flatten_map_congr (fun l => ?_) _⟩
      · cases ((viewAt s.part.res c p).getD {}).display <;> rfl
      · simp only [legDetail, e1, e2, eb, o1, o3, e3, List.cons_append, List.nil_append, List.cons.injEq, true_and]
        refine ⟨byte_flag _, ?_, ?_⟩
        · cases l.state <;> rfl
        · cases l.phase <;> simp only [phaseCode, deadlineOf, pollsOf, Option.getD_none, Option.getD_some] <;> rfl
  case tally =>
    refine step_of_unchanged (owner := ownTallyQuery) (b := ()) h rfl rfl ?_
    refine Prod.ext rfl (congrArg (Reply.now .ok) ?_)
    simp only [tallyQueryDetail, coachDetail, mapFrom_eq_map_zipIdx, e1, e2, o1, eList,
      List.cons_append, List.nil_append, List.cons.injEq, List.append_assoc, handed_form, handed_route, handed_unit,
      handed_seat, flatten_map_e1, sensorCount_eq, true_and]
    refine ⟨?_, rfl⟩
    cases s.part.route.prog.state <;> rfl
  case level =>
    refine step_of_unchanged (owner := ownLevelQuery) (b := ()) h rfl rfl ?_
    refine Prod.ext rfl (congrArg (Reply.now .ok) ?_)
    simp only [levelDetail, showDetail, mapFrom_eq_map_zipIdx, e1, e2, o2, eb, List.cons_append, List.nil_append,
      List.cons.injEq, List.append_assoc, handed_unit, handed_panel, rotationDetail, true_and]
    refine ⟨?_, byte_flag _, ?_⟩
    · cases s.part.panel.brightness <;> rfl
    refine congrArg₂ (· ++ ·) (congrArg List.flatten (List.map_congr_left fun x _ => ?_)) ?_
    · unfold shownSlot
      cases ((s.part.panel.coaches[x.2]?).getD {}).shown <;> rfl
    · simp only [List.cons.injEq, true_and]
      refine flatten_map_congr (fun o => ?_) _
      cases o with
      | none => rfl
      | some x =>
        simp only [slotDetail, e1, e2, o2, rotationDetail, List.cons_append, List.nil_append, List.append_assoc]
        cases x.targets <;> simp [targetsDetail, eList, e1, flatten_map_e1, byte]
  case status =>
    have hstep : ∃ t, exec (.statusQuery tag []) s = .next t ∧ Only [.host] s t ∧
        Answered s t 0x19#8 tag .ok (statusDetail (handed 0x19#8 tag s.part)) :=
      step_of_unchanged (owner := ownStatusQuery) (b := ()) h rfl rfl (by rw [ownStatusQuery, takenWith])
    obtain ⟨t, hexec, honly, hanswered⟩ := hstep
    refine ⟨t, hexec, honly, ?_⟩
    intro two three flag g r waited entry listed d
    have hd : statusDetail (handed 0x19#8 tag s.part) = d := by
      unfold statusDetail
      simp only [d, two, three, flag, g, r, waited, e1, e2, e3, o1, o2, o3, eb, List.cons_append, List.nil_append,
        List.cons.injEq, List.append_assoc, true_and, handed_route, handed_form, handed_unit, handed_text, handed_res,
        handed_disp, handed_supply, handed_latched, handed_params]
      have hentry (x : Option EstEntry) : estDetail x = entry x := by
        cases x with
        | none => rfl
        | some e =>
          simp only [estDetail, entry, two, three, flag, e1, eb, byte_flag, List.append_assoc]
          cases e.delay <;> cases e.minutes <;> rfl
      have hp : estOfP (handed 0x19#8 tag s.part) = if g.state = .standing then listed g.p else none := by
        simp only [estOfP, handed_route, handed_est, beq_iff_eq]
        rfl
      refine ⟨?cause, ?off, byte_clear _, rfl, rfl, byte_flag _, ?state, byte_flag _, byte_source _, byte_unless _,
        congrArg₂ (· ++ ·) (hp ▸ hentry _) (congrArg₂ (· ++ ·) (hentry _) ?rest)⟩
      case cause => cases s.part.supply.startCause <;> rfl
      case off => cases s.part.supply.lastOff <;> rfl
      case state => cases s.part.route.prog.state <;> rfl
      case rest =>
        simp only [List.cons.injEq]
        refine ⟨?role, rfl, rfl, rfl, ?turn, byte_flag _, rfl, byte_flag _, trivial, trivial, trivial, rfl, rfl, trivial⟩
        case role => cases s.part.form.role <;> rfl
        case turn =>
          have hsame : ownOrientation (handed 0x19#8 tag s.part) = ownOrientation s.part := rfl
          rw [hsame]
          cases ownOrientation s.part <;> rfl
    exact ⟨hd ▸ length_statusDetail _, hd ▸ hanswered⟩
  case endpoint =>
    refine step_of_unchanged h (by rw [← hbody]; rfl) rfl ?_
    have hpass : ownEndpointQuery (start, sel, max) (handed 0x1A#8 tag s.part) =
        (handed 0x1A#8 tag s.part, .now .ok (endpointDetail (start, sel, max) s.part.disp)) := by
      have hin : (decide (s.part.disp.table.length ≤ start) && !(s.part.disp.table.length == 0 && start == 0)) = false := by
        obtain hlt | ⟨hnil, rfl⟩ := hstart
        · simp [hlt]
        · simp [hnil]
      have hfields : (decide (1 < sel) || max == 0 || decide (64 < max) || decide (799 < start)) = false := by
        simp only [Bool.or_eq_false_iff, decide_eq_false_iff_not, beq_eq_false_iff_ne]
        omega
      exact (checked_next hfields).trans ((checked_next hin).trans checked_nil)
    rw [hpass]
    refine Prod.ext rfl (congrArg (Reply.now .ok) ?_)
    simp only [endpointDetail, pickEntries_eq hsel, absentCount, e1, e2, o1, o2, eList, List.cons_append, List.nil_append,
      List.cons.injEq, List.append_assoc, List.length_map, present_count, nextIndex_eq hmax1, true_and]
    refine ⟨?op, congrArg₂ (· ++ ·) (oAddr_bytes ..) (congrArg₂ List.cons (byte_unless _) (congrArg₂ (· ++ ·) (oAddr_bytes ..)
      (congrArg₂ List.cons rfl (congrArg₂ (· ++ ·) (congrArg List.flatten ?entries) rfl))))⟩
    case op =>
      cases s.part.disp.inFlight with
      | none => rfl
      | some y =>
        obtain ⟨op, a⟩ := y
        cases op <;> rfl
    case entries =>
      refine (List.map_map ..).trans (List.map_congr_left fun x _ => ?_)
      simp only [Function.comp_apply, Prod.snd_swap, entryDetail, eAddr, e1, e2, o2, eb, kindRank_bytes, byte_unless, byte_flag,
        List.cons_append, List.nil_append]
      simp only [List.contains_iff_mem]
      cases x.1.status with
      | none => rfl
      | some st => cases st <;> rfl
  case bad =>
    have hrefused : ownEndpointQuery (start, sel, max) (handed 0x1A#8 tag s.part) =
        (handed 0x1A#8 tag s.part, .now .badField []) := by
      cases hfields : decide (1 < sel) || max == 0 || decide (64 < max) || decide (799 < start) with
      | true => exact checked_here hfields
      | false =>
        refine (checked_next hfields).trans (checked_here ?_)
        simp only [Bool.or_eq_false_iff, decide_eq_false_iff_not, beq_eq_false_iff_ne] at hfields
        obtain hin | hin | hin | hin | ⟨hle, hno⟩ := hbad
        · omega
        · omega
        · omega
        · omega
        · rw [not_and_or] at hno
          simpa [hle] using hno
    obtain ⟨t, hexec, honly, hanswered⟩ := step_of_unchanged (c := .endpointQuery tag body) h (by rw [← hbody]; rfl) rfl hrefused
    exact ⟨t, hexec, hanswered, honly⟩

end Sys2Proof.Proofs.Queries
end

section
/-! CONFIG-SET: which values the parameters take, and that the parameter of a request alone is written. -/
namespace Sys2Proof.Proofs.Parameters
open Sys2Proof Sys2Proof.Machine Effects ConfigGet Requests

/-! ### The table of section 11.7 -/

theorem clamp_eq {lo hi : Nat} (h : lo ≤ hi) (v : Nat) : clamp lo hi v = if v < lo then lo else min v hi := by
  simp only [clamp]
  split <;> omega

/-- An id outside 1..15 admits no value. -/
theorem admitted_eq_none (q : Params) {id : Nat} (v : Nat) (h : id = 0 ∨ 15 < id) : q.admitted id v = none := by
  obtain rfl | h := h
  · rfl
  · obtain ⟨k, rfl⟩ := Nat.exists_eq_add_of_lt h
    rw [Nat.add_comm 15 k]
    rfl

theorem le_of_admitted {q : Params} {id v w : Nat} (h : q.admitted id v = some w) : 1 ≤ id ∧ id ≤ 15 := by
  by_contra hno
  rw [admitted_eq_none q v (by omega)] at h
  cases h

theorem admitted_table (q : Params) (v : Nat) :
    q.admitted 1 v = (if v ≤ 3 then some v else none) ∧
    q.admitted 2 v = some (min v 1000) ∧
    q.admitted 3 v = some (if v < 1 then 1 else min v 15) ∧
    q.admitted 4 v = some (min v 30) ∧
    q.admitted 5 v = (if 1 ≤ v ∧ v ≤ 63 ∧ q.offThreshold < v then some v else none) ∧
    q.admitted 6 v = (if v ≤ 62 ∧ v < q.onThreshold then some v else none) ∧
    q.admitted 7 v = some (min v 31) ∧
    q.admitted 8 v = some (if v < 2 then 2 else min v 30) ∧
    q.admitted 9 v = some (if v < 1 then 1 else min v 60) ∧
    q.admitted 10 v = (if v ≤ 1 then some v else none) ∧
    q.admitted 11 v = some (if v < 2 then 2 else min v 60) ∧
    q.admitted 12 v = some (if v < 1 then 1 else min v 120) ∧
    q.admitted 13 v = some (if v < 60 then 60 else min v 3600) ∧
    q.admitted 14 v = some (min v 15) ∧
    q.admitted 15 v = some (v % 2 ^ 14) ∧
    ∀ id, id = 0 ∨ 15 < id → q.admitted id v = none := by
  refine ⟨rfl, ?_, ?_, ?_, ?_, ?_, ?_, ?_, ?_, rfl, ?_, ?_, ?_, ?_, rfl, fun _ => admitted_eq_none q v⟩
  all_goals simp [Params.admitted, clamp_eq, and_assoc]

/-! ### Storing a parameter -/

theorem get_put_self {q : Params} {id v w : Nat} (h : q.admitted id v = some w) : (q.put id w).get id = some w := by
  obtain ⟨h1, h15⟩ := le_of_admitted h
  rcases Nat.lt_or_eq_of_le h15 with hlt | rfl
  · interval_cases id <;> rfl
  · obtain rfl : v % 16384 = w := by simpa [Params.admitted] using h
    simp [Params.put, Params.get]

theorem get_put_ne (q : Params) {id j : Nat} (w : Nat) (h : j ≠ id) : (q.put id w).get j = q.get j := by
  unfold Params.put
  split
  case h_16 => rfl
  all_goals
    unfold Params.get
    split
    all_goals simp_all

/-! ### The owner -/

theorem redebounce_leaves {ms : Nat} {s : Part} : Leaves [.form] s (onForm (redebounce ms) s) :=
  leaves_of_keeps (onFormBut_keeps rfl rfl rfl Iff.rfl) (by decide)

theorem enableChanged_leaves {old : BitVec 14} {s : Part} : Leaves [.host] s (enableChanged old s) := by
  refine ⟨enableChanged_keeps, ?_⟩
  unfold enableChanged
  split
  · exact Changes.arrangeEvent_inFlight _
  · rfl

/-- The owner of a parameter touches neither the parameters nor the tallies. -/
theorem configEffect_leaves {old : BitVec 14} {id : Nat} {s : Part} :
    Leaves [.est, .form, .sensors, .panel, .disp, .supply, .host] s (configEffect old id s) := by
  unfold configEffect
  split
  case h_1 => exact redebounce_leaves.step rfl (.refl s)
  case h_2 =>
    have hest : Leaves [.est, .panel, .disp] s (estRecompute s) := leaves_of_keeps estRecompute_keeps (by decide)
    exact (leaves_of_keeps (composer_keeps (cause := {})) (by decide)).step rfl (hest.step rfl (.refl s))
  case h_3 => exact (leaves_of_keeps mapSensors_keeps (by decide)).step rfl (.refl s)
  case h_4 => exact (leaves_of_keeps mapSensors_keeps (by decide)).step rfl (.refl s)
  case h_5 => exact (leaves_of_keeps mapSensors_keeps (by decide)).step rfl (.refl s)
  case h_6 => exact (leaves_of_keeps nightChanged_keeps (by decide)).step rfl (.refl s)
  case h_7 => exact (leaves_of_keeps settleLimitChanged_keeps (by decide)).step rfl (.refl s)
  case h_8 => exact (leaves_of_keeps breakLimitChanged_keeps (by decide)).step rfl (.refl s)
  case h_9 => exact enableChanged_leaves.step rfl (.refl s)
  case h_10 => exact .refl s

theorem setParam_leaves {id w : Nat} {s : Part} :
    Leaves [.params, .form, .est, .sensors, .panel, .disp, .supply, .host] s (setParam id w s) := by
  unfold setParam
  split
  · exact .refl s
  · exact configEffect_leaves.step rfl (Leaves.step ⟨params_keeps, rfl⟩ rfl (.refl s))

/-- The parameter of the request takes the value, and every other keeps its own. -/
theorem setParam_get {id v w : Nat} {s : Part} (h : s.host.params.admitted id v = some w) :
    (setParam id w s).host.params.get id = some w ∧
      ∀ j, j ≠ id → (setParam id w s).host.params.get j = s.host.params.get j := by
  unfold setParam
  split
  · rename_i hsame
    exact ⟨by simpa using hsame, fun _ _ => rfl⟩
  · have hparams (x : Part) : (configEffect (reported s.host) id x).host.params = x.host.params :=
      configEffect_leaves.keeps.all .params (by decide)
    rw [hparams]
    exact ⟨get_put_self h, fun _ hj => get_put_ne _ w hj⟩

/-- Settles O4: the owner of CONFIG-SET admits a value or refuses, stores it, and hands the change to its block. -/
theorem configSetStoresTheAdmittedValue : Obligations.ConfigSetStoresTheAdmittedValue := by
  refine ⟨fun s tag body id v h hbody => ?_, admitted_table⟩
  have heffect : effect (.configSet tag body) (quiet s.part) = hostRequest 0x01#8 tag (some (id, v)) ownConfigSet (quiet s.part) := by
    rw [← hbody]
    rfl
  cases hv : s.part.host.params.admitted id v with
  | none =>
    obtain ⟨t, hexec, honly, hanswered⟩ := step_of_unchanged (r := .badField) (d := []) h heffect rfl (by
      simp only [ownConfigSet, handed_params, hv, refused])
    exact ⟨t, hexec, hanswered, honly⟩
  | some w =>
    obtain ⟨t, hexec, rfl, hanswered, honly⟩ := step_of_taken (y := setParam id w (handed 0x01#8 tag s.part)) (r := .ok)
      (d := e1 id ++ e2 w) h heffect rfl (by simp only [ownConfigSet, handed_params, hv, takenWith]) setParam_leaves
    obtain ⟨hself, hother⟩ := setParam_get (s := handed 0x01#8 tag s.part) hv
    refine ⟨_, hexec, ?_, fun j hj => ?_, hanswered, ?_⟩
    · simpa using hself
    · simpa using hother j hj
    · exact only_mono honly rfl

end Sys2Proof.Proofs.Parameters
end

section
/-! From an event to the step, and the supply inputs: qualification, the holds, OFF and the cold start. -/
namespace Sys2Proof.Proofs.Events
open Sys2Proof Sys2Proof.Machine Effects Requests Changes

variable {s : State} {x y : Part} {c : Instr} {L : List Block}

/-! ### An event as a step -/

/-- An event that does `y` to the quiet part: the step it is, and what that leaves alone. -/
theorem step_of_effect (h : effect c (quiet s.part) = y) (hy : Keeps L (quiet s.part) y) :
    ∃ t, exec c s = .next t ∧ t = { s with part := finish y } ∧ Only L s t :=
  ⟨_, by rw [exec_eq, after, h], rfl, Keeps.only (f := fun _ => y) hy⟩

theorem step_of_effect_bare (h : effect c (quiet s.part) = y) : exec c s = .next { s with part := finish y } := by
  rw [exec_eq, after, h]

/-- Outside RUN no line begins to send. -/
theorem finish_of_not_run (h : isRun x = false) : finish x = x := by
  unfold finish kick
  have hpump : pump x = x := by
    unfold pump
    rw [h, Bool.false_and]
    rfl
  rw [hpump, h, Bool.false_and]
  rfl

@[simp] theorem quiet_line (x : Part) : (quiet x).out.line = [] := rfl

/-- An event of the Supply Monitor alone. -/
theorem step_of_supply {f : Supply → Supply} (h : effect c (quiet s.part) = onSupply f (quiet s.part)) :
    ∃ t, exec c s = .next t ∧ Only [.supply] s t ∧ t.part.supply = f s.part.supply := by
  obtain ⟨t, hexec, rfl, honly⟩ := step_of_effect h onSupply_keeps
  exact ⟨_, hexec, honly, finish_supply _⟩

/-- An event that leaves the part at the cold values of a mode that is not RUN. -/
theorem step_of_cold {f : Supply → Supply} {m : SupplyMode} (hf : effect c (quiet s.part) = onSupply f (coldPart m (quiet s.part)))
    (hm : (f (coldSupply m s.part.supply)).mode ≠ .run) :
    exec c s = .next { s with part := { form := { coupledRaw := s.part.form.coupledRaw, cab := s.part.form.cab }
                                        supply := f (coldSupply m s.part.supply) } } := by
  rw [step_of_effect_bare hf, finish_of_not_run]
  · rfl
  · simpa [isRun, onSupply, coldPart] using hm

/-! ### The modes -/

theorem mainBreak_qualified (hmain : x.supply.mainBroken = false) (hq : x.supply.qualifying = true) :
    mainBreak x = handleBreak (onSupply (fun u => { u with mainBroken := true, qualifying := false }) x) := by
  simp [mainBreak, hmain, hq]

theorem mainReturn_qualified {mv : Nat} (hmain : x.supply.mainBroken = true) (hq : x.supply.qualifying = true) :
    mainReturn mv x = handleReturn mv (onSupply (fun u => { u with mainBroken := false, qualifying := false }) x) := by
  simp [mainReturn, hmain, hq]

theorem retentionFails_hold (h : Holding x) :
    retentionFails x = enterOff .retention (onSupply (fun u => { u with retentionLow := true }) x) := by
  obtain h | h := h
  · simp [retentionFails, h]
  · simp [retentionFails, h]

theorem retentionFails_cold (h : x.supply.mode = .coldStart) :
    retentionFails x = if x.supply.mainBroken = true then enterOffQuietly (onSupply (fun u => { u with retentionLow := true }) x)
      else onSupply (fun u => { u with retentionLow := true }) x := by
  simp [retentionFails, h]

/-- Settles O25: each input in each mode, by the supply it leaves and, where the state ends, by the cold part. -/
theorem supplyInputsAct : Obligations.SupplyInputsAct := by
  refine ⟨fun s mv => ⟨?fall, ?rise⟩, fun s hmode => ?lowRun, fun s hmode => ?lowHold, fun s hmode => ?ok, fun s hmode => ?lowCold,
    fun s hmode hmain hq hlow => ?breakCold, fun s mv hmode hmain hq => ?returnOff,
    fun s hmode hq => ⟨fun hmain hlow => ?breakOk, fun mv hmain => ?returnCold⟩⟩
  case fall =>
    obtain ⟨t, hexec, honly, ht⟩ := step_of_supply (s := s) (c := .mainLevelFall mv) rfl
    refine ⟨t, hexec, honly, ht.trans ?_⟩
    cases h : s.part.supply.mainBroken
    · simp only [levelFalls, h]
      rfl
    · simp only [levelFalls, h]
      rfl
  case rise =>
    obtain ⟨t, hexec, honly, ht⟩ := step_of_supply (s := s) (c := .mainLevelRise mv) rfl
    refine ⟨t, hexec, honly, ht.trans ?_⟩
    cases h : s.part.supply.mainBroken
    · simp only [levelRises, h]
      rfl
    · simp only [levelRises, h]
      rfl
  case lowRun =>
    exact step_of_supply (f := fun u => { u with retentionLow := true }) (by simp [effect, retentionFails, hmode])
  case lowHold =>
    exact ⟨_, step_of_cold (f := fun u => { u with retentionLow := true, lastOff := .retention }) (m := .off)
      (by rw [effect, retentionFails_hold (x := quiet s.part) hmode]; rfl) nofun, rfl, rfl⟩
  case ok =>
    exact step_of_supply (f := fun u => { u with retentionLow := false }) (by simp [effect, retentionRecovers, hmode])
  case lowCold =>
    have heffect := retentionFails_cold (x := quiet s.part) hmode
    split
    · rename_i hmain
      rw [if_pos (by exact hmain)] at heffect
      refine ⟨_, step_of_cold (f := fun u => { u with retentionLow := true }) (m := .off) heffect nofun, rfl, ?_⟩
      simp [coldSupply, hmain]
    · rename_i hmain
      rw [if_neg (by exact hmain)] at heffect
      obtain ⟨t, hexec, honly, ht⟩ := step_of_supply (c := .retentionLow) heffect
      exact ⟨t, hexec, honly.1, honly, ht⟩
  case breakCold =>
    refine ⟨_, step_of_cold (f := fun u => { u with mainBroken := true, qualifying := false }) (m := .off) ?_ nofun, rfl, ?_⟩
    · rw [effect, mainBreak_qualified (x := quiet s.part) hmain hq]
      simp [handleBreak, hmode, hlow, onSupply, enterOffQuietly, coldPart, coldSupply]
    · simp [coldSupply, hlow]
  case returnOff =>
    refine ⟨_, step_of_cold (m := .coldStart) (f := fun u => { u with
      mainBroken := false, qualifying := false, retentionLow := decide (mv < 2900), clearing := !u.resetAsserted
      lastOff := if u.resetAsserted = true then .reset else u.lastOff }) ?_ nofun, rfl, rfl⟩
    rw [effect, mainReturn_qualified (x := quiet s.part) hmain hq]
    cases h : s.part.supply.resetAsserted
    · simp only [handleReturn, hmode, onSupply_supply, quiet_supply, enterColdStart, h, recordOff, coldPart, coldSupply]
      rfl
    · simp only [handleReturn, hmode, onSupply_supply, quiet_supply, enterColdStart, h, recordOff, coldPart, coldSupply]
      rfl
  case breakOk =>
    refine step_of_supply (f := fun u => { u with mainBroken := true, qualifying := false }) ?_
    rw [effect, mainBreak_qualified (x := quiet s.part) hmain hq]
    simp [handleBreak, hmode, hlow]
  case returnCold =>
    refine step_of_supply (f := fun u => { u with mainBroken := false, qualifying := false }) ?_
    rw [effect, mainReturn_qualified (x := quiet s.part) hmain hq]
    simp [handleReturn, hmode]

/-! ### A break in RUN -/

theorem abandon_eq (d : Display) : abandon d = { d with inFlight := none, queue := (abandon d).queue } := by
  unfold abandon enqueue
  (repeat' split) <;> rfl

theorem endGrant_eq (f : Formation) : endGrant f = { f with grant := none, ended := endedThen f } := by
  unfold endGrant endedThen
  cases f
  dsimp only
  split <;> simp

/-- The Formation Controller in BREAK_HOLD: role, record and tallies stand, and what runs on the coupler line is gone. -/
theorem enterHold_form (x : Part) : (enterHold x).form = { x.form with
    grant := none, ended := endedThen x.form
    queue := [], forwards := [], late := [], spacing := false, tallyPending := false, beaconLoss := none, absence := []
    debounce := { a := none, b := none }, drive := { a := false, b := false }, rollCall := none, rollAgain := false
    windowOpen := false, responses := [], waiting := false, rollFront := none, heardAnswers := 0 } := by
  simp only [enterHold, stopHost, stopCoupler, onHost, onText, onForm, onDisp, onSupply, endGrant_eq]

/-- Settles O26: at the limit and with LOW retention the part goes cold, else every block stops what runs only in RUN. -/
theorem aBreakInRunHoldsOrEndsTheState : Obligations.ABreakInRunHoldsOrEndsTheState := by
  intro s hmode hmain hq
  have heffect : effect .mainBreak (quiet s.part) =
      breakInRun (onSupply (fun u => { u with mainBroken := true, qualifying := false }) (quiet s.part)) := by
    rw [effect, mainBreak_qualified (x := quiet s.part) hmain hq]
    simp [handleBreak, hmode]
  by_cases hlimit : s.part.host.params.breakLimit ≠ 0 ∧ s.part.supply.breakCount = s.part.host.params.breakLimit
  · simp only [if_pos hlimit]
    refine ⟨_, step_of_cold (m := .off) (f := fun u => { u with mainBroken := true, qualifying := false, lastOff := .limit })
      ?_ nofun, rfl, rfl, rfl⟩
    rw [heffect]
    simp [breakInRun, hlimit.1, hlimit.2, enterOff, recordOff, onSupply, coldPart, coldSupply]
  simp only [if_neg hlimit]
  have hbelow : ¬ (s.part.host.params.breakLimit != 0 && s.part.supply.breakCount == s.part.host.params.breakLimit) = true := by
    simpa using hlimit
  by_cases hlow : s.part.supply.retentionLow = true
  · simp only [if_pos hlow]
    refine ⟨_, step_of_cold (m := .off) (f := fun u => { u with mainBroken := true, qualifying := false, lastOff := .retention })
      ?_ nofun, rfl, rfl, ?_⟩
    · rw [heffect]
      simp [breakInRun, hbelow, hlow, enterOff, recordOff, onSupply, coldPart, coldSupply]
    · simp [coldSupply, hlow]
  simp only [if_neg hlow]
  have hhold : effect .mainBreak (quiet s.part) =
      enterHold (onSupply (fun u => { u with mainBroken := true, qualifying := false }) (quiet s.part)) := by
    rw [heffect]
    unfold breakInRun
    rw [if_neg (by exact hbelow), if_neg (by exact hlow)]
  obtain ⟨t, hexec, ht, honly⟩ := step_of_effect (L := [.supply, .host, .disp, .form, .tallies, .text]) hhold
    (Keeps.step enterHold_keeps rfl (Keeps.step onSupply_keeps rfl .refl))
  rw [finish_of_not_run rfl] at ht
  subst ht
  refine ⟨_, hexec, rfl, rfl, rfl, rfl, ?_, ?_, ?_, honly⟩
  · exact congrArg Display.inFlight (abandon_eq s.part.disp)
  · exact (congrArg Display.table (abandon_eq s.part.disp) :)
  · rw [enterHold_form]
    exact ⟨rfl, rfl, rfl, rfl, rfl, rfl, rfl, rfl, rfl, rfl, rfl, rfl⟩

end Sys2Proof.Proofs.Events
end

section
/-! The times of the Supply Monitor and the reset input, the beginning and the end of a frame, EVENT-CLEAR and RESTART. -/
namespace Sys2Proof.Proofs.Events
open Sys2Proof Sys2Proof.Machine Effects Requests Changes ConfigGet

variable {s : State} {x y : Part} {c : Instr} {L : List Block}

/-! ### The times of the Supply Monitor -/

theorem startCold_supply (x : Part) : (startCold x).supply =
    { x.supply with mode := .run, clearing := false, settle := some 0, startCause := .cold } := rfl

theorem hostStart_latched (x : Part) : (hostStart x).host.latched = x.host.latched ||| 1#14 := by
  simp only [hostStart, onHost, arrangeEvent]
  split <;> rfl

theorem hostStart_params (x : Part) : (hostStart x).host.params = x.host.params := by
  simp only [hostStart, onHost, arrangeEvent]
  split <;> rfl

/-- Settles O28: each time and each edge of the reset input, by the supply it leaves or by the cold part. -/
theorem supplyTimesAndResetAct : Obligations.SupplyTimesAndResetAct := by
  refine ⟨fun s n hmode hhold => ?hold, fun s n hmode hext => ?extended, fun s hmode hclear => ?clearing, fun s => ?assert,
    fun s hasserted => ?release, fun s n hmode hsettle => ?settle⟩
  case hold =>
    refine step_of_supply (f := fun u => { u with
      mode := .extendedHold, hold := none, extHold := some (60 * s.part.host.params.extHoldLimit) }) ?_
    simp [effect, holdExpires, hmode, hhold]
  case extended =>
    refine ⟨_, step_of_cold (m := .off) (f := fun u => { u with lastOff := .expired }) ?_ nofun, rfl, rfl⟩
    simp [effect, extendedExpires, hmode, hext, enterOff, recordOff]
  case clearing =>
    have heffect : effect .clearingEnd (quiet s.part) =
        if s.part.supply.mainBroken = true then enterOffQuietly (quiet s.part) else startCold (quiet s.part) := by
      simp only [effect, clearingEnds, quiet_supply, hmode, hclear]
      rfl
    split
    · rename_i hmain
      rw [if_pos hmain] at heffect
      refine ⟨_, step_of_cold (m := .off) (f := id) heffect nofun, rfl, ?_⟩
      simp [coldSupply, hmain]
    · rename_i hmain
      rw [if_neg hmain] at heffect
      obtain ⟨t, hexec, rfl, honly⟩ := step_of_effect (L := [.supply, .host, .events, .form, .panel, .disp]) heffect
        (Keeps.step startCold_keeps rfl .refl)
      refine ⟨_, hexec, rfl, ?_, ?_, ?_, ?_, ?_, honly⟩
      · simp [startCold_supply]
      · simp only [finish_latched, startCold, hostStart_latched]
        rfl
      · simp only [finish_params, startCold, hostStart_params]
        rfl
      · rw [finish_form]
        rfl
      · rw [finish_form]
        rfl
  case assert =>
    by_cases hmode : s.part.supply.mode = .off
    · simp only [if_pos hmode]
      obtain ⟨t, hexec, honly, ht⟩ := step_of_supply (s := s) (c := .resetAssert) (f := fun u => { u with resetAsserted := true })
        (by simp [effect, assertReset, hmode])
      exact ⟨t, hexec, honly.1, honly, ht⟩
    · simp only [if_neg hmode]
      refine ⟨_, step_of_cold (m := .coldStart) (f := fun u => { u with resetAsserted := true, lastOff := .reset }) ?_ nofun,
        rfl, rfl⟩
      have hcold : assertReset (quiet s.part) =
          enterColdStart (onSupply (fun u => { u with resetAsserted := true }) (quiet s.part)) := by
        unfold assertReset
        split
        · exact absurd ‹_› hmode
        · rfl
      rw [effect, hcold]
      rfl
  case release =>
    refine step_of_supply (f := fun u => { u with
      resetAsserted := false, clearing := u.clearing || decide (u.mode = .coldStart) }) ?_
    simp only [effect, releaseReset, onSupply, quiet_supply, hasserted, Bool.true_and]
    rfl
  case settle =>
    refine step_of_supply (f := fun u => { u with breakCount := 0, settle := none }) ?_
    simp [effect, settled, isRun, hmode, hsettle]

/-! ### RESTART and the end of a frame -/

theorem restartPart_eq (x : Part) : restartPart x =
    onSupply (fun u => { u with lastOff := .reset, clearing := !u.resetAsserted }) (coldPart .coldStart x) := by
  simp only [restartPart, enterColdStart]
  split <;> rfl

/-- Settles O22: the reply is arranged like any other, and where it has been sent the part starts cold. -/
theorem restartIsAnsweredThenActs : Obligations.RestartIsAnsweredThenActs := by
  refine ⟨fun s tag h => ?_, fun s f hmode hsending => ?_⟩
  · obtain ⟨t, hexec, honly, hanswered⟩ := step_of_unchanged (c := .restart tag []) (owner := ownRestart) h rfl rfl rfl
    exact ⟨t, hexec, hanswered, honly⟩
  have hrun : isRun (quiet s.part) = true := (isRun_iff _).mpr hmode
  split
  · rename_i hrestart
    have hsent : restartSent f = true := by simpa [restartSent, Option.isSome_iff_ne_none] using hrestart
    refine ⟨_, step_of_cold (m := .coldStart)
      (f := fun u => { u with lastOff := .reset, clearing := !u.resetAsserted }) ?_ nofun, rfl, rfl⟩
    rw [← restartPart_eq, effect]
    simp [frameSent, hrun, hsending, hsent]
  · rename_i hno
    have hsent : restartSent f = false := by
      rw [← Bool.not_eq_true]
      simpa [restartSent, Option.isSome_iff_ne_none] using hno
    have heffect : effect .frameSent (quiet s.part) = onHost (entryDone f) (quiet s.part) := by
      simp [effect, frameSent, hrun, hsending, hsent]
    obtain ⟨t, hexec, rfl, honly⟩ := step_of_effect (L := [.host]) heffect (onHostBut_keeps rfl rfl)
    obtain ⟨hqueue, hnext⟩ := Reporting.finish_frameSent (x := quiet s.part) hrun hsending hsent
    rw [show frameSent (quiet s.part) = _ from heffect] at hqueue hnext
    refine ⟨_, hexec, ?_, fun hq => ?_, fun k tag r rest hq => ?_, honly⟩
    · rw [finish_inFlight]
      rfl
    · rw [hqueue, hnext, show (quiet s.part).host.queue = [] from hq]
      exact ⟨rfl, rfl⟩
    · rw [hqueue, hnext, show (quiet s.part).host.queue = .refusal tag k r :: rest from hq]
      exact ⟨rfl, rfl⟩

/-! ### EVENT-CLEAR -/

theorem clearEvents_leaves (m : BitVec 14) : Leaves [.events, .legs] x (clearEvents m x) :=
  ⟨⟨fun b hb => by cases b <;> simp_all [Block.kept, Block.same, clearEvents]⟩, rfl⟩

/-- Settles O21: the kinds of the mask leave the latch set bit by bit. -/
theorem eventClearUnlatchesItsKinds : Obligations.EventClearUnlatchesItsKinds := by
  intro s tag body m h hbody
  by_cases hbad : 2 ^ 14 ≤ m
  · simp only [if_pos hbad]
    obtain ⟨t, hexec, honly, hanswered⟩ := step_of_unchanged (c := .eventClear tag body) (owner := ownEventClear) (b := m)
      (d := []) (r := .badField) h (by rw [← hbody]; rfl) rfl (by unfold ownEventClear; rw [if_pos (by exact hbad)]; rfl)
    exact ⟨t, hexec, hanswered, honly⟩
  · simp only [if_neg hbad]
    have hown (y : Part) : ownEventClear m y = takenWith (e2 (clearEvents (BitVec.ofNat 14 m) y).host.latched.toNat)
        (clearEvents (BitVec.ofNat 14 m) y) := by
      unfold ownEventClear
      rw [if_neg (by exact hbad)]
    obtain ⟨t, hexec, rfl, hanswered, honly⟩ := step_of_taken (c := .eventClear tag body) (owner := ownEventClear) (b := m) h
      (by rw [← hbody]; rfl) rfl (hown _) (clearEvents_leaves _)
    refine ⟨_, hexec, fun k hk => ?_, ?_, ?_, only_mono honly rfl⟩
    · simp [clearEvents, hk, -BitVec.getLsbD_eq_getElem, BitVec.getLsbD_ofNat]
    · simp [clearEvents, inSet, EventKind.bit, -BitVec.getLsbD_eq_getElem, BitVec.getLsbD_ofNat]
    · simpa [e2, clearEvents] using hanswered

end Sys2Proof.Proofs.Events
end

section
/-! The receiver of the host line, and the request stage: which bodies fit their kinds, and what becomes of a refused frame. -/
namespace Sys2Proof.Proofs.HostLine
open Sys2Proof Sys2Proof.Machine Effects Requests Events Changes ConfigGet Port

variable {s : State} {x y : Part} {c : Instr} {kind tag : Byte} {body : List Byte} {r : Result}

/-! ### The receiver -/

theorem unfinished_iff (bs : List Byte) : unfinished bs = true ↔ EndsNoFrame bs := by
  unfold unfinished EndsNoFrame lengthField Config.maxBody
  rw [Bool.or_eq_true, Bool.and_eq_true, decide_eq_true_iff, decide_eq_true_iff, decide_eq_true_iff]

/-- What begins bytes that end no frame ends none either. -/
theorem endsNoFrame_of_append {as bs : List Byte} (h : EndsNoFrame (as ++ bs)) : EndsNoFrame as := by
  by_cases hshort : as.length < 3
  · exact Or.inl hshort
  have hfield {i : Nat} (hi : i < 3) : (as ++ bs)[i]? = as[i]? := List.getElem?_append_left (by omega)
  obtain h | ⟨hlength, hmore⟩ := h
  · rw [List.length_append] at h
    omega
  · rw [hfield (by omega), hfield (by omega)] at hlength hmore
    rw [List.length_append] at hmore
    exact Or.inr ⟨hlength, by omega⟩

/-- Bytes that end no frame are all collected. -/
theorem collectBytes_eq {buf rest : List Byte} (h : EndsNoFrame (buf ++ rest)) : collectBytes buf rest = buf ++ rest := by
  induction rest generalizing buf with
  | nil => simp [collectBytes]
  | cons b rest ih =>
    rw [List.append_cons] at h
    rw [collectBytes, if_pos ((unfinished_iff _).mpr (endsNoFrame_of_append h)), ih h, ← List.append_cons]

/-- An event of the receiver alone: with a frame on the line nothing else of the Host Port moves. -/
theorem step_of_receiver {f : HostPort → HostPort} (h : effect c (quiet s.part) = onHost f (quiet s.part))
    (hf : f s.part.host = { s.part.host with receiver := (f s.part.host).receiver, buffer := (f s.part.host).buffer }) :
    ∃ t, exec c s = .next t ∧ t.part.host.receiver = (f s.part.host).receiver ∧
      t.part.host.buffer = (f s.part.host).buffer ∧ t.part.host.inFlight = s.part.host.inFlight ∧ Unanswered s t ∧
      Only [.host] s t := by
  have hkeeps : Keeps [.host] (quiet s.part) (onHost f (quiet s.part)) :=
    onHostBut_keeps (congrArg HostPort.latched hf :) (congrArg HostPort.params hf :)
  obtain ⟨t, hexec, rfl, honly⟩ := step_of_effect h hkeeps
  obtain ⟨hreceiver, hbuffer, hin, hsending⟩ := (finish_keeps (s := onHost f (quiet s.part))).all .host (by simp)
  refine ⟨_, hexec, hreceiver, hbuffer, ?_, fun hs => ?_, honly⟩
  · exact hin.trans (congrArg HostPort.inFlight hf :)
  · have hqueue : (f s.part.host).queue = s.part.host.queue := (congrArg HostPort.queue hf :)
    have hline : (f s.part.host).sending = s.part.host.sending := (congrArg HostPort.sending hf :)
    obtain ⟨h1, h2⟩ := hsending (by simpa [hline] using hs)
    exact ⟨h1.trans hqueue, h2.trans hline⟩

/-- A frame given up: the receiver hunts with nothing collected. -/
theorem step_of_drop (h : effect c (quiet s.part) = frameEnd (quiet s.part)) :
    ∃ t, exec c s = .next t ∧ t.part.host.receiver = .hunting ∧ t.part.host.buffer = [] ∧
      t.part.host.inFlight = s.part.host.inFlight ∧ Unanswered s t ∧ Only [.host] s t :=
  step_of_receiver h rfl

/-- Settles O24: a start byte collects what ends no frame, and gap, length and CRC give the frame up. -/
theorem theReceiverHuntsAndCollects : Obligations.TheReceiverHuntsAndCollects := by
  intro s hmode
  have hrun : isRun (quiet s.part) = true := (isRun_iff _).mpr hmode
  have hdrop (hr : s.part.host.receiver = .inFrame) : dropFrame (quiet s.part) = frameEnd (quiet s.part) := by
    simp [dropFrame, hrun, hr]
  refine ⟨fun rest hr hends => ?hunting, fun rest hr hends => ?inside, fun hr => step_of_drop (hdrop hr),
    fun n hn hr => step_of_drop ?length, fun k tag body crc hcrc => step_of_drop ?crc⟩
  case hunting =>
    have hcollect : collectBytes [0xA5#8] rest = 0xA5#8 :: rest := collectBytes_eq hends
    obtain ⟨t, hexec, hreceiver, hbuffer, hrest⟩ := step_of_receiver (s := s) (c := .frameStartByte rest)
      (by rw [effect, beginFrame, if_pos hrun]) (by simp [hr])
    simp only [hr] at hreceiver hbuffer
    exact ⟨t, hexec, hreceiver, hbuffer.trans hcollect, hrest⟩
  case inside =>
    obtain ⟨t, hexec, hreceiver, hbuffer, hrest⟩ := step_of_receiver (s := s) (c := .frameStartByte rest)
      (by rw [effect, beginFrame, if_pos hrun]) (by simp [hr])
    simp only [hr] at hreceiver hbuffer
    exact ⟨t, hexec, hreceiver, hbuffer.trans (collectBytes_eq hends), hrest⟩
  case length =>
    rw [effect, lengthError, if_pos (by exact hn), hdrop hr]
  case crc =>
    have hne : (crc == crc16 (coveredBytes k tag body)) = false := beq_false_of_ne hcrc
    simp [effect, crcError, hne, hrun]

/-! ### Bodies that fit -/

theorem length_of_readSeats {bs : List Byte} {ss : List (Nat × Nat)} (h : readSeats bs = some ss) : bs.length = 3 * ss.length := by
  fun_induction readSeats bs generalizing ss with
  | case1 => simp_all
  | case2 a b c t ih =>
    obtain ⟨ss', h', rfl⟩ := Option.map_eq_some_iff.mp h
    simp [ih h']
    omega
  | case3 => cases h

theorem length_of_readInbound {bs : List Byte} {es : List (Nat × Nat × Nat)} (h : readInbound bs = some es) :
    bs.length = 5 * es.length := by
  fun_induction readInbound bs generalizing es with
  | case1 => simp_all
  | case2 m a b c d t ih =>
    obtain ⟨es', h', rfl⟩ := Option.map_eq_some_iff.mp h
    simp [ih h']
    omega
  | case3 => cases h

theorem fits_unitSetup {x : SegmentReq} (h : readUnitSetup body = some x) : fitsKind 0x03#8 body = true := by
  unfold readUnitSetup at h
  split at h
  · split at h
    · rename_i hseats
      split at h
      · rename_i hcount
        have hlength := length_of_readSeats hseats
        simp [fitsKind, hlength]
        omega
      · cases h
    · cases h
  · cases h

theorem fits_list {ns : List Nat} (h : readList body = some ns) : fitsKind 0x04#8 body = true := by
  unfold readList at h
  split at h
  · split at h
    · rename_i hcount
      simp [fitsKind, hcount]
      omega
    · cases h
  · cases h

theorem fits_textPut {x : Nat × Nat × List Byte} (h : readTextPut body = some x) : fitsKind 0x06#8 body = true := by
  unfold readTextPut at h
  split at h
  · split at h
    · rename_i hcount
      simp [fitsKind, hcount]
      omega
    · cases h
  · cases h

theorem fits_stopPut {x : StopReq} (h : readStopPut body = some x) : fitsKind 0x09#8 body = true := by
  unfold readStopPut at h
  split at h
  · split at h
    · rename_i hinbound
      split at h
      · rename_i hcount
        have hlength := length_of_readInbound hinbound
        simp [fitsKind, hlength, hcount]
        omega
      · cases h
    · cases h
  · cases h

theorem fits_noticeRaise {x : RaiseReq} (h : readNoticeRaise body = some x) : fitsKind 0x16#8 body = true := by
  unfold readNoticeRaise at h
  split at h
  · split at h
    · split at h
      · rename_i hcount
        simp [fitsKind, hcount]
        omega
      · cases h
    · cases h
  · cases h

/-- A body of fixed length. -/
theorem none_of_length {α : Type} {n : Nat} {read : List Byte → Option α}
    (hread : ∀ bs a, read bs = some a → bs.length = n) (h : (body.length == n) = false) : read body = none := by
  cases ha : read body with
  | none => rfl
  | some a => simp [hread _ _ ha] at h

theorem none_of_fits {α : Type} {read : List Byte → Option α} (hread : ∀ a, read body = some a → fitsKind kind body = true)
    (h : fitsKind kind body = false) : read body = none := by
  cases ha : read body with
  | none => rfl
  | some a =>
    rw [hread _ ha] at h
    cases h

theorem length_of_readNone {bs : List Byte} {a : Unit} (h : readNone bs = some a) : bs.length = 0 := by
  unfold readNone at h
  split at h <;> simp_all

theorem length_of_readOne {bs : List Byte} {a : Nat} (h : readOne bs = some a) : bs.length = 1 := by
  unfold readOne at h
  split at h <;> simp_all

theorem length_of_readTwo {bs : List Byte} {a : Nat} (h : readTwo bs = some a) : bs.length = 2 := by
  unfold readTwo at h
  split at h <;> simp_all

theorem length_of_readPair {bs : List Byte} {a : Nat × Nat} (h : readPair bs = some a) : bs.length = 2 := by
  unfold readPair at h
  split at h <;> simp_all

theorem length_of_readConfigSet {bs : List Byte} {a : Nat × Nat} (h : readConfigSet bs = some a) : bs.length = 3 := by
  unfold readConfigSet at h
  split at h <;> simp_all

theorem length_of_readRouteOpen {bs : List Byte} {a : Nat × Nat} (h : readRouteOpen bs = some a) : bs.length = 3 := by
  unfold readRouteOpen at h
  split at h <;> simp_all

theorem length_of_readStopAmend {bs : List Byte} {a : AmendReq} (h : readStopAmend bs = some a) : bs.length = 11 := by
  unfold readStopAmend at h
  split at h <;> simp_all

theorem length_of_readTime {bs : List Byte} {a : ClockTime} (h : readTime bs = some a) : bs.length = 4 := by
  unfold readTime at h
  split at h <;> simp_all

theorem length_of_readIndexTime {bs : List Byte} {a : Nat × ClockTime} (h : readIndexTime bs = some a) : bs.length = 5 := by
  unfold readIndexTime at h
  split at h <;> simp_all

theorem length_of_readPosition {bs : List Byte} {a : Int} (h : readPosition bs = some a) : bs.length = 4 := by
  unfold readPosition at h
  split at h <;> simp_all

theorem length_of_readLegAdd {bs : List Byte} {a : LegReq} (h : readLegAdd bs = some a) : bs.length = 7 := by
  unfold readLegAdd at h
  split at h <;> simp_all

theorem length_of_readEndpointQuery {bs : List Byte} {a : Nat × Nat × Nat} (h : readEndpointQuery bs = some a) : bs.length = 4 := by
  unfold readEndpointQuery at h
  split at h <;> simp_all

/-! ### The request stage -/

/-- A request whose reader fixes the length of its body. -/
theorem request_of_length {α : Type} {n : Nat} {read : List Byte → Option α} {owner : α → Part → Part × Reply}
    (heffect : effect c = hostRequest kind tag (read body) owner) (hfits : fitsKind kind body = (body.length == n))
    (hread : ∀ bs a, read bs = some a → bs.length = n) :
    ∃ (α : Type) (b : Option α) (owner : α → Part → Part × Reply), effect c = hostRequest kind tag b owner ∧
      (fitsKind kind body = false → b = none) :=
  ⟨α, _, owner, heffect, fun h => none_of_length hread (hfits ▸ h)⟩

theorem request_of_fits {α : Type} {read : List Byte → Option α} {owner : α → Part → Part × Reply}
    (heffect : effect c = hostRequest kind tag (read body) owner)
    (hread : ∀ a, read body = some a → fitsKind kind body = true) :
    ∃ (α : Type) (b : Option α) (owner : α → Part → Part × Reply), effect c = hostRequest kind tag b owner ∧
      (fitsKind kind body = false → b = none) :=
  ⟨α, _, owner, heffect, fun h => none_of_fits hread h⟩

/-- Every frame of a known kind is a request whose body is read only where its length fits. -/
theorem effect_of_request (h : request c = some (kind, tag, body)) (hc : c ≠ .unknownKindFrame kind tag body) :
    ∃ (α : Type) (b : Option α) (owner : α → Part → Part × Reply), effect c = hostRequest kind tag b owner ∧
      (fitsKind kind body = false → b = none) := by
  cases c <;> cases h
  case unknownKindFrame => exact absurd rfl hc
  case unitSetup => exact request_of_fits rfl fun _ => fits_unitSetup
  case coachNumbers => exact request_of_fits rfl fun _ => fits_list
  case textPut => exact request_of_fits rfl fun _ => fits_textPut
  case stopPut => exact request_of_fits rfl fun _ => fits_stopPut
  case noticeRaise => exact request_of_fits rfl fun _ => fits_noticeRaise
  case configSet => exact request_of_length rfl rfl fun _ _ => length_of_readConfigSet
  case routeOpen => exact request_of_length rfl rfl fun _ _ => length_of_readRouteOpen
  case stopAmend => exact request_of_length rfl rfl fun _ _ => length_of_readStopAmend
  case time => exact request_of_length rfl rfl fun _ _ => length_of_readTime
  case position => exact request_of_length rfl rfl fun _ _ => length_of_readPosition
  case endpointQuery => exact request_of_length rfl rfl fun _ _ => length_of_readEndpointQuery
  case legAdd => exact request_of_length rfl rfl fun _ _ => length_of_readLegAdd
  case seatQuery => exact request_of_length rfl rfl fun _ _ => length_of_readPair
  case departed | arrived => exact request_of_length rfl rfl fun _ _ => length_of_readIndexTime
  case legCancel | legRestore | noticeClear | eventClear => exact request_of_length rfl rfl fun _ _ => length_of_readTwo
  case configGet | portionSet | textDrop => exact request_of_length rfl rfl fun _ _ => length_of_readOne
  case routeClose | routeClear | tallyQuery | levelQuery | statusQuery | restart =>
    exact request_of_length rfl rfl fun _ _ => length_of_readNone

theorem stageFault_busy {h : HostPort} (hfull : 4 ≤ h.inFlight.length) : stageFault h tag = some .busy := if_pos hfull

theorem stageFault_conflict {h : HostPort} (hroom : h.inFlight.length < 4) (huse : ∃ e ∈ h.inFlight, e.tag = tag) :
    stageFault h tag = some .conflict := by
  unfold stageFault
  rw [if_neg (by exact Nat.not_le.mpr hroom), if_pos (by simpa using huse)]

theorem stageFault_none {h : HostPort} (hroom : h.inFlight.length < 4) (hfree : ∀ e ∈ h.inFlight, e.tag ≠ tag) :
    stageFault h tag = none := by
  unfold stageFault
  rw [if_neg (by exact Nat.not_le.mpr hroom), if_neg (by simpa using hfree)]

/-- The result the request stage refuses a frame with: its checks of the in-flight table, then kind and length. -/
inductive Refuses (s : State) (c : Instr) (kind tag : Byte) (body : List Byte) : Result → Prop
  | stage {r : Result} (h : stageFault s.part.host tag = some r) : Refuses s c kind tag body r
  | unknown (h : stageFault s.part.host tag = none) (hc : c = .unknownKindFrame kind tag body) :
      Refuses s c kind tag body .unknownKind
  | length (h : stageFault s.part.host tag = none) (hc : c ≠ .unknownKindFrame kind tag body)
      (hfits : fitsKind kind body = false) : Refuses s c kind tag body .badField

/-- A refused frame does nothing but that its refusal joins the send queue. -/
theorem effect_of_refuses (h : request c = some (kind, tag, body)) (hmode : s.part.supply.mode = .run)
    (hr : Refuses s c kind tag body r) :
    effect c (quiet s.part) = onHost (refuse tag kind r) (frameEnd (quiet s.part)) := by
  have hrun : isRun (quiet s.part) = true := (isRun_iff _).mpr hmode
  by_cases hc : c = .unknownKindFrame kind tag body
  · have hunknown : effect c (quiet s.part) = onHost (refuse tag kind ((stageFault s.part.host tag).getD .unknownKind))
        (frameEnd (quiet s.part)) := by
      rw [hc, effect, unknownKind, if_pos hrun]
      rfl
    rw [hunknown]
    cases hr with
    | stage h => rw [h, Option.getD_some]
    | unknown h => rw [h, Option.getD_none]
    | length _ hne => exact absurd hc hne
  · obtain ⟨α, b, owner, heffect, hnone⟩ := effect_of_request h hc
    have hstage : (frameEnd (quiet s.part)).host.inFlight = s.part.host.inFlight := rfl
    rw [heffect, hostRequest, if_pos hrun]
    cases hr with
    | stage h =>
      have h' : stageFault (frameEnd (quiet s.part)).host tag = some r := h
      simp only [h']
    | unknown _ heq => exact absurd heq hc
    | length h _ hfits =>
      have h' : stageFault (frameEnd (quiet s.part)).host tag = none := h
      simp only [h', hnone hfits]

/-- The refusals in a send queue. -/
def refusals (q : List QFrame) : List QFrame := q.filter isRefusal

/-- Where a queue holds more than EVENT frames, one of its frames begins, and the queue loses the frames up to it. -/
theorem nextFrame_drop {b : Bool} {q : List QFrame} {a : QFrame} (ha : a ∈ q) (hne : a ≠ .event) :
    ∃ k, 1 ≤ k ∧ (nextFrame b q).2 = q.drop k ∧ (nextFrame b q).1 = q[k - 1]? := by
  induction q with
  | nil => cases ha
  | cons e q ih =>
    have hhead (h : nextFrame b (e :: q) = (some e, q)) :
        ∃ k, 1 ≤ k ∧ (nextFrame b (e :: q)).2 = (e :: q).drop k ∧ (nextFrame b (e :: q)).1 = (e :: q)[k - 1]? :=
      ⟨1, le_rfl, by rw [h]; rfl, by rw [h]; rfl⟩
    cases e with
    | event =>
      cases b
      · exact hhead rfl
      · obtain ⟨k, hk, h2, h1⟩ := ih ((List.mem_cons.mp ha).resolve_left hne)
        obtain ⟨j, rfl⟩ := Nat.exists_eq_add_of_le' hk
        exact ⟨j + 2, by omega, h2, h1⟩
    | reply => exact hhead rfl
    | refusal => exact hhead rfl

theorem refuse_room {h : HostPort} (hfew : (refusals h.queue).length < 3) :
    refuse tag kind r h = { h with queue := h.queue ++ [.refusal tag kind r] } := by
  unfold refuse
  rw [filter_isRefusal (fun x => by cases x <;> rfl)]
  exact if_pos hfew

theorem refuse_full {h : HostPort} (hthree : 3 ≤ (refusals h.queue).length) : refuse tag kind r h = h := by
  unfold refuse
  rw [filter_isRefusal (fun x => by cases x <;> rfl)]
  exact if_neg (Nat.not_lt.mpr hthree)

variable (heffect : effect c (quiet s.part) = onHost (refuse tag kind r) (frameEnd (quiet s.part)))
include heffect

theorem refused_only : Only [.host] s { s with part := finish (effect c (quiet s.part)) } := by
  refine Keeps.only ?_
  rw [heffect]
  exact Keeps.step (M := [.host]) (onHostBut_keeps (refuse_latched ..) (refuse_params ..)) rfl
    (Keeps.step frameEnd_host_keeps rfl .refl)

theorem refused_inFlight : (finish (effect c (quiet s.part))).host.inFlight = s.part.host.inFlight := by
  rw [finish_inFlight, heffect, onHost_host, refuse_inFlight]
  rfl

/-- With fewer than three refusals queued the refusal joins them, or begins at once. -/
theorem refused_told (hfew : (refusals s.part.host.queue).length < 3) :
    RefusedAtStage s { s with part := finish (effect c (quiet s.part)) } kind tag r := by
  refine ⟨refused_inFlight heffect, ?_⟩
  have hjoins : QFrame.refusal tag kind r ∈ (effect c (quiet s.part)).host.queue := by
    rw [heffect, onHost_host, refuse_room (h := (frameEnd (quiet s.part)).host) hfew]
    simp
  exact mem_finish hjoins nofun

/-- With three refusals queued the frame is lost: on a free line the next queued frame begins. -/
theorem refused_lost (hrun : isRun s.part = true) (hthree : 3 ≤ (refusals s.part.host.queue).length) :
    let t : State := { s with part := finish (effect c (quiet s.part)) }
    Unanswered s t ∧ (s.part.host.sending = none → ∃ k, 1 ≤ k ∧ t.part.host.queue = s.part.host.queue.drop k ∧
      t.part.host.sending = (s.part.host.queue[k - 1]?).map (sentFrame s.part)) := by
  have hlost : effect c (quiet s.part) = frameEnd (quiet s.part) := by
    rw [heffect, onHost, refuse_full (h := (frameEnd (quiet s.part)).host) hthree]
  rw [hlost]
  refine ⟨fun hs => ?_, fun hs => ?_⟩
  · obtain ⟨-, -, -, hsending⟩ := (finish_keeps (s := frameEnd (quiet s.part))).all .host (by simp)
    exact hsending hs
  · obtain ⟨a, ha⟩ := List.exists_mem_of_length_pos (by omega : 0 < (refusals s.part.host.queue).length)
    obtain ⟨hmem, hrefusal⟩ := List.mem_filter.mp ha
    obtain ⟨k, hk, h2, h1⟩ := nextFrame_drop (b := reported s.part.host == 0#14) hmem
      (fun h => by rw [h] at hrefusal; cases hrefusal)
    refine ⟨k, hk, ?_⟩
    have hidle : (isRun (frameEnd (quiet s.part)) && (frameEnd (quiet s.part)).host.sending.isNone) = true := by
      simpa [isRun, hs, frameEnd] using hrun
    simp only [finish, kick_host, pump, if_pos hidle]
    exact ⟨h2, congrArg (Option.map (sentFrame s.part)) h1⟩

omit heffect

/-- Settles O23: each check of the request stage refuses with its result, and the refusal joins the queue where it has room. -/
theorem theRequestStageRefusesInOrder : Obligations.TheRequestStageRefusesInOrder := by
  intro s c k tag body hreq hmode
  have hrun : isRun s.part = true := (isRun_iff _).mpr hmode
  refine ⟨_, exec_eq c s, fun hfew => ?_, fun hthree hbad => ?_⟩
  · rw [filter_isRefusal (fun x => by cases x <;> rfl)] at hfew
    have htold {r : Result} (hr : Refuses s c k tag body r) :
        RefusedAtStage s { s with part := after c s.part } k tag r ∧ Only [.host] s { s with part := after c s.part } :=
      have heffect := effect_of_refuses hreq hmode hr
      ⟨refused_told heffect hfew, refused_only heffect⟩
    exact ⟨fun hfull => htold (.stage (stageFault_busy hfull)), fun hroom huse => htold (.stage (stageFault_conflict hroom huse)),
      fun ⟨_, hroom, hfree⟩ hc => htold (.unknown (stageFault_none hroom hfree) hc),
      fun ⟨_, hroom, hfree⟩ hc hfits => htold (.length (stageFault_none hroom hfree) hc hfits)⟩
  · rw [filter_isRefusal (fun x => by cases x <;> rfl)] at hthree
    obtain ⟨r, hr⟩ : ∃ r, Refuses s c k tag body r := by
      cases hstage : stageFault s.part.host tag with
      | some r => exact ⟨r, .stage hstage⟩
      | none =>
        by_cases hc : c = .unknownKindFrame k tag body
        · exact ⟨_, .unknown hstage hc⟩
        · obtain hfull | huse | heq | hfits := hbad
          · rw [stageFault_busy hfull] at hstage
            cases hstage
          · by_cases hroom : s.part.host.inFlight.length < 4
            · rw [stageFault_conflict hroom huse] at hstage
              cases hstage
            · rw [stageFault_busy (Nat.not_lt.mp hroom)] at hstage
              cases hstage
          · exact absurd heq hc
          · exact ⟨_, .length hstage hc hfits⟩
    have heffect := effect_of_refuses hreq hmode hr
    obtain ⟨hunanswered, hnext⟩ := refused_lost heffect hrun hthree
    exact ⟨refused_inFlight heffect, hunanswered, hnext, refused_only heffect⟩

end Sys2Proof.Proofs.HostLine
end

section
/-! What the owners of texts, stop records and legs do: the text store entry by entry, and the requests that write them. -/
namespace Sys2Proof.Proofs.Owners
open Sys2Proof Sys2Proof.Machine Effects Requests ConfigGet Legs

variable {α : Type} {s : State} {c : Instr} {kind tag : Byte} {b : α} {owner : α → Part → Part × Reply} {r : Result}
  {x y : Part} {L : List Block}

/-! ### Blocks left alone -/

theorem text_of_keeps (h : Keeps L x y) (hb : Block.text ∉ L) : y.text = x.text := h.all _ hb
theorem unit_of_keeps (h : Keeps L x y) (hb : Block.unit ∉ L) : y.unit = x.unit := h.all _ hb
theorem est_of_keeps (h : Keeps L x y) (hb : Block.est ∉ L) : y.est = x.est := h.all _ hb
theorem panel_of_keeps (h : Keeps L x y) (hb : Block.panel ∉ L) : y.panel = x.panel := h.all _ hb
theorem supply_of_keeps (h : Keeps L x y) (hb : Block.supply ∉ L) : y.supply = x.supply := h.all _ hb
theorem latched_of_keeps (h : Keeps L x y) (hb : Block.events ∉ L) : y.host.latched = x.host.latched := h.all _ hb
theorem params_of_keeps (h : Keeps L x y) (hb : Block.params ∉ L) : y.host.params = x.host.params := h.all _ hb
theorem legs_of_keeps (h : Keeps L x y) (hb : Block.legs ∉ L) : y.res.legs = x.res.legs ∧
    y.res.releaseCount = x.res.releaseCount ∧ y.res.orphanCount = x.res.orphanCount := h.all _ hb

theorem route_of_keeps (h : Keeps L x y) (hr : Block.route ∉ L) (hs : Block.source ∉ L) : y.route = x.route := by
  have hroute : Block.route.same x y := h.all _ hr
  have hsource : y.route.prog.source = x.route.prog.source := h.all _ hs
  rw [show y.route = _ from hroute, hsource]

theorem record_of_keeps (h : Keeps L x y) (hb : Block.form ∉ L) : y.form.record = x.form.record :=
  (congrArg Formation.record (h.all _ hb).2 :)

theorem role_of_keeps (h : Keeps L x y) (hb : Block.form ∉ L) : y.form.role = x.form.role :=
  (congrArg Formation.role (h.all _ hb).2 :)

/-- A request that its owner refuses. -/
theorem step_of_refused (h : Accepts s tag)
    (hc : effect c (quiet s.part) = hostRequest kind tag (some b) owner (quiet s.part)) (hkind : requestKind kind = true)
    (ho : owner b (handed kind tag s.part) = refused r (handed kind tag s.part)) :
    ∃ t, exec c s = .next t ∧ Answered s t kind tag r [] ∧ Only [.host] s t := by
  obtain ⟨t, hexec, honly, hanswered⟩ := step_of_unchanged h hc hkind ho
  exact ⟨t, hexec, hanswered, honly⟩

/-! ### Entries of the text store -/

variable {t : TextStore} {e : TextEntry}

theorem textAt_set (h h' : Nat) (e : TextEntry) (f : List Nat) (t : TextStore) :
    textAt { entries := assocSet h e t.entries, free := f } h' = if h' = h then some e else textAt t h' := by
  unfold textAt
  split
  · next heq => rw [heq, assocGet_assocSet_self]
  · next hne => rw [assocGet_assocSet_ne hne]

theorem map_refs_zero (o : Option TextEntry) : (o.map fun e => { e with refs := e.refs + 0 }) = o := by cases o <;> rfl

theorem textAt_retain (a h : Nat) (t : TextStore) :
    textAt (retain a t) h = (textAt t h).map fun e => { e with refs := e.refs + if h = a then 1 else 0 } := by
  unfold retain
  split
  · next e he =>
    rw [textAt_set]
    split
    · next heq => rw [heq, he]; rfl
    · exact (map_refs_zero _).symm
  · next hnone =>
    split
    · next heq => rw [heq, hnone]; rfl
    · exact (map_refs_zero _).symm

theorem free_retain (a : Nat) (t : TextStore) : (retain a t).free = t.free := by
  unfold retain
  split <;> rfl

/-- A host handle is released: its entry stays, however low the count. -/
theorem release_host {a : Nat} (ha : a ≤ 191) (t : TextStore) : release a t = match textAt t a with
    | some e => { t with entries := assocSet a { e with refs := e.refs - 1 } t.entries }
    | none => t := by
  have hhost : ¬ 192 ≤ a := by omega
  unfold release
  cases textAt t a with
  | none => rfl
  | some e => simp [hhost]

theorem textAt_release {a : Nat} (ha : a ≤ 191) (h : Nat) (t : TextStore) :
    textAt (release a t) h = (textAt t h).map fun e => { e with refs := e.refs - if h = a then 1 else 0 } := by
  rw [release_host ha]
  split
  · next e he =>
    rw [textAt_set]
    split
    · next heq => rw [heq, he]; rfl
    · exact (map_refs_zero _).symm
  · next hnone =>
    split
    · next heq => rw [heq, hnone]; rfl
    · exact (map_refs_zero _).symm

theorem free_release {a : Nat} (ha : a ≤ 191) (t : TextStore) : (release a t).free = t.free := by
  rw [release_host ha]
  split <;> rfl

theorem textAt_retainAll (hs : List Nat) (h : Nat) (t : TextStore) :
    textAt (retainAll hs t) h = (textAt t h).map fun e => { e with refs := e.refs + hs.count h } := by
  induction hs generalizing t with
  | nil => exact (map_refs_zero _).symm
  | cons a hs ih =>
    rw [show retainAll (a :: hs) t = retainAll hs (retain a t) from rfl, ih, textAt_retain, Option.map_map]
    congr 1
    funext e
    by_cases heq : h = a
    · simp [heq, Nat.add_assoc, Nat.add_comm 1]
    · simp [heq, Ne.symm heq]

theorem free_retainAll (hs : List Nat) (t : TextStore) : (retainAll hs t).free = t.free := by
  induction hs generalizing t with
  | nil => rfl
  | cons a hs ih => exact (ih _).trans (free_retain a t)

theorem textAt_releaseAll {hs : List Nat} (hhost : ∀ a ∈ hs, a ≤ 191) (h : Nat) (t : TextStore) :
    textAt (releaseAll hs t) h = (textAt t h).map fun e => { e with refs := e.refs - hs.count h } := by
  induction hs generalizing t with
  | nil => exact (map_refs_zero _).symm
  | cons a hs ih =>
    obtain ⟨ha, hrest⟩ := List.forall_mem_cons.mp hhost
    rw [show releaseAll (a :: hs) t = releaseAll hs (release a t) from rfl, ih hrest, textAt_release ha, Option.map_map]
    congr 1
    funext e
    by_cases heq : h = a
    · simp [heq, Nat.sub_sub, Nat.add_comm]
    · simp [heq, Ne.symm heq]

theorem free_releaseAll {hs : List Nat} (hhost : ∀ a ∈ hs, a ≤ 191) (t : TextStore) : (releaseAll hs t).free = t.free := by
  induction hs generalizing t with
  | nil => rfl
  | cons a hs ih =>
    obtain ⟨ha, hrest⟩ := List.forall_mem_cons.mp hhost
    exact (ih hrest _).trans (free_release ha t)

/-! ### STOP-PUT -/

theorem getElem?_putStop {i : Nat} {r : StopRec} {stops : List StopRec} (hi : i ≤ stops.length) (j : Nat) :
    (putStop i r stops)[j]? = if j = i then some r else stops[j]? := by
  unfold putStop
  split
  · next hlt => rw [List.getElem?_set]; split <;> simp_all [eq_comm]
  · next hge =>
    obtain rfl : i = stops.length := by omega
    rw [List.getElem?_append]
    split
    · next hlt => rw [if_neg (by omega)]
    · next hge =>
      split
      · simp_all
      · simp_all
        omega

theorem index_of_stopBad {count : Nat} {x : StopReq} (h : stopBad count x = false) : x.index ≤ count := by
  simp only [stopBad, Bool.or_eq_false_iff, decide_eq_false_iff_not, Nat.not_lt, and_assoc] at h
  exact h.2.1

theorem takeStop_leaves (x : StopReq) (y : Part) : Leaves [.text, .route] y (takeStop x y) :=
  leaves_of_keeps (Keeps.step (M := [.route]) (routeBut_keeps rfl) rfl (Keeps.step onText_keeps rfl .refl)) (by decide)

/-- Settles O11: the four checks in their order, then record and counts. -/
theorem stopPutWritesARecord : Obligations.StopPutWritesARecord := by
  intro s tag body x h hbody
  have hc : effect (.stopPut tag body) (quiet s.part) = hostRequest 0x09#8 tag (some x) ownStopPut (quiet s.part) := by
    rw [← hbody]
    rfl
  by_cases hload : s.part.route.prog.state = .loading
  case neg =>
    obtain ⟨t, hexec, hrest⟩ := step_of_refused h hc rfl (checked_here (by simpa using hload))
    exact ⟨t, hexec, fun _ => hrest, fun hl => absurd hl hload, fun hl => absurd hl hload, fun hl => absurd hl hload,
      fun hl => absurd hl hload⟩
  have h1 (ks : List (Bool × Result)) (take : Part → Part × Reply) :
      checked ((s.part.route.prog.state != .loading, .wrongState) :: ks) take (handed 0x09#8 tag s.part) =
        checked ks take (handed 0x09#8 tag s.part) := checked_next (by simpa using hload)
  cases hbad : stopBad s.part.route.stops.length x with
  | true =>
    obtain ⟨t, hexec, hrest⟩ := step_of_refused h hc rfl ((h1 _ _).trans (checked_here hbad))
    exact ⟨t, hexec, fun hl => absurd hload hl, fun _ _ => hrest, fun _ => nofun, fun _ => nofun, fun _ => nofun⟩
  | false =>
  cases htime : stopTimeBad x with
  | true =>
    obtain ⟨t, hexec, hrest⟩ := step_of_refused h hc rfl ((h1 _ _).trans ((checked_next hbad).trans (checked_here htime)))
    exact ⟨t, hexec, fun hl => absurd hload hl, fun _ => nofun, fun _ _ _ => hrest, fun _ _ => nofun, fun _ _ => nofun⟩
  | false =>
  by_cases hknown : textKnown s.part.text x.name = true ∧ (x.short ≠ 0 → textKnown s.part.text x.short = true)
  case neg =>
    have hunknown : (!textKnown s.part.text x.name || (x.short != 0 && !textKnown s.part.text x.short)) = true := by
      simpa [or_iff_not_imp_left] using hknown
    obtain ⟨t, hexec, hrest⟩ := step_of_refused h hc rfl ((h1 _ _).trans ((checked_next hbad).trans ((checked_next htime).trans
      (checked_here hunknown))))
    exact ⟨t, hexec, fun hl => absurd hload hl, fun _ => nofun, fun _ _ => nofun, fun _ _ _ _ => hrest,
      fun _ _ _ hname hshort => absurd ⟨hname, hshort⟩ hknown⟩
  have htaken : ownStopPut x (handed 0x09#8 tag s.part) = taken (takeStop x (handed 0x09#8 tag s.part)) := by
    refine (h1 _ _).trans ((checked_next hbad).trans ((checked_next htime).trans ((checked_next ?_).trans checked_nil)))
    simp only [handed_text, Bool.or_eq_false_iff, Bool.not_eq_false', Bool.and_eq_false_iff, bne_eq_false_iff_eq]
    exact ⟨hknown.1, or_iff_not_imp_left.mpr hknown.2⟩
  obtain ⟨t, hexec, rfl, hanswered, honly⟩ := step_of_taken h hc rfl htaken (takeStop_leaves ..)
  refine ⟨_, hexec, fun hl => absurd hload hl, fun _ => nofun, fun _ _ => nofun, fun _ _ _ hno => absurd hknown hno,
    fun _ _ _ _ _ => ?_⟩
  intro old hold
  have hindex := index_of_stopBad hbad
  refine ⟨hanswered, honly, hindex, ?_, ?_, fun i hi => ?_, ?_, fun a => ?_⟩
  · simp [takeStop, onRoute, onText]
  · simp [takeStop, onRoute, onText, getElem?_putStop hindex]
  · simp [takeStop, onRoute, onText, getElem?_putStop hindex, hi]
  · simpa [takeStop, onRoute, onText, free_retainAll] using free_releaseAll hold (retainAll (recHandles (recordOf x)) s.part.text)
  · have htext : (takeStop x (handed 0x09#8 tag s.part)).text = releaseAll old (retainAll (recHandles (recordOf x)) s.part.text) := rfl
    simp only [finish_text, answer_text]
    rw [htext, textAt_releaseAll hold, textAt_retainAll, Option.map_map]
    rfl

end Sys2Proof.Proofs.Owners
end

section
/-! TEXT-PUT and TEXT-DROP: the checks in their order, the entry written or removed, and where its blocks go. -/
namespace Sys2Proof.Proofs.Owners
open Sys2Proof Sys2Proof.Machine Effects Requests ConfigGet Legs

variable {s : State} {r : Result} {x : Part} {t : TextStore} {e : TextEntry} {ks ls : List (Bool × Result)}
  {take : Part → Part × Reply}

/-! ### Runs of checks -/

/-- Of a run of checks with one result, one that fails gives that result. -/
theorem checked_of_mem (hall : ∀ k ∈ ks, k.2 = r) (hfails : ∃ k ∈ ks, k.1 = true) :
    checked (ks ++ ls) take x = refused r x := by
  induction ks with
  | nil => simp at hfails
  | cons k ks ih =>
    obtain ⟨hk, hks⟩ := List.forall_mem_cons.mp hall
    cases hb : k.1 with
    | true =>
      rw [← hk]
      exact checked_here hb
    | false => exact (checked_next hb).trans (ih hks (by simpa [hb] using hfails))

theorem checked_append (h : ∀ k ∈ ks, k.1 = false) : checked (ks ++ ls) take x = checked ls take x := by
  induction ks with
  | nil => rfl
  | cons k ks ih =>
    obtain ⟨hk, hks⟩ := List.forall_mem_cons.mp h
    exact (checked_next hk).trans (ih hks)

/-! ### TEXT-PUT -/

/-- The variant that TEXT-PUT writes: its codes in the first blocks of the free list. -/
def written (codes : List Byte) (t : TextStore) : Variant :=
  { codes := codes, chain := t.free.take ((codes.length + 15) / 16) }

theorem putVariant_of_some {h slot : Nat} {codes : List Byte} (he : textAt t h = some e) :
    putVariant h slot codes t = { entries := assocSet h (e.setVariant slot (written codes t)) t.entries
                                  free := t.free.drop ((codes.length + 15) / 16) ++ e.chain slot } := by
  simp only [putVariant, he]
  rfl

theorem putVariant_of_none {h slot : Nat} {codes : List Byte} (he : textAt t h = none) :
    putVariant h slot codes t = { entries := assocSet h { v0 := written codes t, v1 := none, v2 := none, refs := 0 } t.entries
                                  free := t.free.drop ((codes.length + 15) / 16) } := by
  simp only [putVariant, he]
  rfl

theorem variant_setVariant {slot : Nat} (hslot : slot ≤ 2) (v : Variant) (e : TextEntry) (j : Nat) :
    (e.setVariant slot v).variant j = if j = slot then some v else e.variant j := by
  split
  · next heq =>
    subst heq
    interval_cases j <;> rfl
  · next hne =>
    obtain hj | hj := Nat.lt_or_ge 2 j
    · obtain ⟨k, rfl⟩ := Nat.exists_eq_add_of_lt hj
      rw [Nat.add_right_comm, Nat.add_comm]
      rfl
    · interval_cases slot <;> interval_cases j <;> first | rfl | exact absurd rfl hne

theorem refs_setVariant (slot : Nat) (v : Variant) (e : TextEntry) : (e.setVariant slot v).refs = e.refs := by
  unfold TextEntry.setVariant
  split <;> rfl

/-- What TEXT-PUT writes: the one entry, and from which blocks. -/
theorem textAt_putVariant {h slot : Nat} {codes : List Byte} (hslot : slot ≤ 2) (hknown : slot ≠ 0 → textKnown t h = true) :
    ∃ e, textAt (putVariant h slot codes t) h = some e ∧ e.variant slot = some (written codes t) ∧
      (∀ h', h' ≠ h → textAt (putVariant h slot codes t) h' = textAt t h') ∧
      match textAt t h with
      | some old => e.refs = old.refs ∧ (∀ j, j ≠ slot → e.variant j = old.variant j) ∧
          (putVariant h slot codes t).free = t.free.drop ((codes.length + 15) / 16) ++ old.chain slot
      | none => e.refs = 0 ∧ (∀ j, j ≠ slot → e.variant j = none) ∧
          (putVariant h slot codes t).free = t.free.drop ((codes.length + 15) / 16) := by
  cases he : textAt t h with
  | some old =>
    simp only [putVariant_of_some he, textAt_set, if_true]
    refine ⟨_, rfl, ?_, fun h' hne => if_neg hne, refs_setVariant .., fun j hj => ?_, trivial⟩
    · rw [variant_setVariant hslot, if_pos rfl]
    · rw [variant_setVariant hslot, if_neg hj]
  | none =>
    have hzero : slot = 0 := by
      by_contra hne
      simpa [textKnown, he] using hknown hne
    subst hzero
    simp only [putVariant_of_none he, textAt_set, if_true]
    refine ⟨_, rfl, rfl, fun h' hne => if_neg hne, rfl, fun j hj => ?_, trivial⟩
    match j, hj with
    | 1, _ | 2, _ | _ + 3, _ => rfl

theorem takeText_leaves (h slot : Nat) (codes : List Byte) (x : Part) :
    Leaves [.text, .panel, .disp] x (takeText h slot codes x) :=
  leaves_of_keeps (Keeps.step nameHandle_keeps rfl (Keeps.step onText_keeps rfl .refl)) (by decide)

theorem takeText_text (h slot : Nat) (codes : List Byte) (x : Part) :
    (takeText h slot codes x).text = putVariant h slot codes x.text := text_of_keeps nameHandle_keeps (by decide)

/-- The five checks of TEXT-PUT that a field fails. -/
def fieldChecks (h slot : Nat) (codes : List Byte) : List (Bool × Result) :=
  [(h == 0, .badField), (decide (192 ≤ h), .badField), (decide (2 < slot), .badField),
   (codes.isEmpty || decide (64 < codes.length), .badField), (!codes.all admitted, .badField)]

theorem ownTextPut_eq (h slot : Nat) (codes : List Byte) (x : Part) : ownTextPut (h, slot, codes) x =
    checked (fieldChecks h slot codes ++ [(slot != 0 && !textKnown x.text h, .notFound),
      (decide (x.text.free.length < (codes.length + 15) / 16), .full)]) (fun y => taken (takeText h slot codes y)) x := rfl

theorem fieldChecks_fail {h slot : Nat} {codes : List Byte} :
    (∃ k ∈ fieldChecks h slot codes, k.1 = true) ↔
      h = 0 ∨ 192 ≤ h ∨ 2 < slot ∨ codes = [] ∨ 64 < codes.length ∨ ∃ c ∈ codes, admitted c = false := by
  simp [fieldChecks, or_assoc]

theorem fieldChecks_result (h slot : Nat) (codes : List Byte) : ∀ k ∈ fieldChecks h slot codes, k.2 = .badField := by
  simp [fieldChecks]

/-- Where every field is good the last two checks decide. -/
theorem ownTextPut_of_good {h slot : Nat} {codes : List Byte} (hlow : 1 ≤ h) (hhigh : h ≤ 191) (hslot : slot ≤ 2)
    (hsome : 1 ≤ codes.length) (hlen : codes.length ≤ 64) (hcodes : ∀ c ∈ codes, admitted c = true) (x : Part) :
    ownTextPut (h, slot, codes) x = checked [(slot != 0 && !textKnown x.text h, .notFound),
      (decide (x.text.free.length < (codes.length + 15) / 16), .full)] (fun y => taken (takeText h slot codes y)) x := by
  rw [ownTextPut_eq]
  refine checked_append fun k hk => ?_
  by_contra hfail
  obtain h1 | h1 | h1 | h1 | h1 | ⟨c, hc, h1⟩ := fieldChecks_fail.mp ⟨k, hk, by simpa using hfail⟩
  · omega
  · omega
  · omega
  · simp [h1] at hsome
  · omega
  · simp [hcodes c hc] at h1

/-! ### TEXT-DROP -/

theorem dropEntry_of_some {h : Nat} (he : textAt t h = some e) :
    dropEntry h t = { entries := assocErase h t.entries, free := t.free ++ e.blocks } := by
  simp only [dropEntry, he]

theorem textAt_erase (h k : Nat) (f : List Nat) (t : TextStore) :
    textAt { entries := assocErase h t.entries, free := f } k = if k = h then none else textAt t k := by
  unfold textAt
  split
  · next heq => rw [heq, assocGet_assocErase_self]
  · next hne => rw [assocGet_assocErase_ne hne]

/-- Settles O9: the entry written and the chain freed by the writing, the checks by their order, and the entry removed. -/
theorem textPutAndDropKeepTheirBlocks : Obligations.TextPutAndDropKeepTheirBlocks := by
  refine ⟨⟨fun s tag body h slot codes hacc hbody hlow hhigh hslot hsome hlen hcodes hknown hroom => ?put,
    fun s tag body h slot codes hacc hbody => ⟨fun hbad => ?field, fun hlow hhigh hslot hsome hlen hcodes =>
      ⟨fun hne hunknown => ?unknown, fun hknown hshort => ?short⟩⟩⟩, fun s tag h hacc => ?drop⟩
  case field =>
    exact step_of_refused (owner := ownTextPut) (b := (h, slot, codes)) hacc (by rw [← hbody]; rfl) rfl
      (checked_of_mem (fieldChecks_result h slot codes) (fieldChecks_fail.mpr hbad))
  case unknown =>
    refine step_of_refused hacc (by rw [← hbody]; rfl) rfl
      ((ownTextPut_of_good hlow hhigh hslot hsome hlen hcodes _).trans (checked_here ?_))
    simp [hne, hunknown]
  case short =>
    refine step_of_refused hacc (by rw [← hbody]; rfl) rfl
      ((ownTextPut_of_good hlow hhigh hslot hsome hlen hcodes _).trans ((checked_next ?_).trans (checked_here ?_)))
    · simpa [or_iff_not_imp_left] using hknown
    · exact decide_eq_true hshort
  case put =>
    have hown (y : Part) (hy : y.text = s.part.text) : ownTextPut (h, slot, codes) y = taken (takeText h slot codes y) := by
      refine (ownTextPut_of_good hlow hhigh hslot hsome hlen hcodes _).trans
        ((checked_next ?_).trans ((checked_next ?_).trans checked_nil))
      · simpa [hy, or_iff_not_imp_left] using hknown
      · simpa [hy] using hroom
    obtain ⟨t, hexec, rfl, hanswered, honly⟩ := step_of_taken (c := .textPut tag body) hacc (by rw [← hbody]; rfl) rfl
      (hown _ rfl) (takeText_leaves ..)
    obtain ⟨e, he⟩ := textAt_putVariant (codes := codes) hslot hknown
    refine ⟨_, e, hexec, hanswered, honly, ?_⟩
    rw [finish_text, answer_text, takeText_text]
    exact he
  case drop =>
    have hc (y : Part) : effect (.textDrop tag [h]) y = hostRequest 0x07#8 tag (some h.toNat) ownTextDrop y := rfl
    by_cases hbad : h.toNat = 0 ∨ 192 ≤ h.toNat
    · simp only [if_pos hbad]
      exact step_of_refused hacc (hc _) rfl (checked_here (by simpa [notHostHandle] using hbad))
    simp only [if_neg hbad]
    have hgood : notHostHandle h.toNat = false := by
      rw [← Bool.not_eq_true]
      simpa [notHostHandle] using hbad
    cases he : textAt s.part.text h.toNat with
    | none => exact step_of_refused hacc (hc _) rfl ((checked_next hgood).trans (checked_here (by simp [textKnown, he])))
    | some e =>
      have hknown : (!textKnown s.part.text h.toNat) = false := by simp [textKnown, he]
      have hcount : refCount s.part.text h.toNat = e.refs := by simp [refCount, he]
      dsimp only
      split
      · next hrefs =>
        exact step_of_refused hacc (hc _) rfl ((checked_next hgood).trans ((checked_next hknown).trans
          (checked_here (by simpa [hcount] using hrefs))))
      · next hrefs =>
        obtain ⟨t, hexec, rfl, hanswered, honly⟩ := step_of_taken hacc (hc _) rfl
          ((checked_next hgood).trans ((checked_next hknown).trans ((checked_next (by simpa [hcount] using hrefs)).trans checked_nil)))
          (leaves_of_keeps (onText_keeps (f := dropEntry h.toNat)) (by decide))
        refine ⟨_, hexec, hanswered, honly, ?_⟩
        simp only [finish_text, answer_text, onText, handed_text, dropEntry_of_some he, textAt_erase, if_true, true_and]
        exact ⟨fun k hk => if_neg hk, rfl⟩

end Sys2Proof.Proofs.Owners
end

section
/-! LEG-ADD, LEG-CANCEL and LEG-RESTORE: the checks in their order and the pool they leave. -/
namespace Sys2Proof.Proofs.Owners
open Sys2Proof Sys2Proof.Machine Effects Requests ConfigGet Legs

variable {s : State} {r : Result} {x : Part} {ks : List (Bool × Result)} {take : Part → Part × Reply}

theorem checked_of_find {k : Bool × Result} (h : ks.find? (·.1) = some k) : checked ks take x = refused k.2 x := by
  simp only [checked, h]

theorem checked_of_find_none (h : ks.find? (·.1) = none) : checked ks take x = take x := by
  simp only [checked, h]

/-! ### The pool after each request -/

theorem takeLeg_legs (l : LegReq) (x : Part) : (takeLeg l x).res.legs = insertBy Leg.before (newLeg x l) x.res.legs ∧
    (takeLeg l x).res.releaseCount = x.res.releaseCount ∧ (takeLeg l x).res.orphanCount = x.res.orphanCount :=
  legs_of_keeps refreshSeats_keeps (by decide)

theorem cancelLeg_legs (i : Nat) (x : Part) : (cancelLeg i x).res.legs = x.res.legs.filter (fun l => l.id != i) ∧
    (cancelLeg i x).res.releaseCount = x.res.releaseCount ∧ (cancelLeg i x).res.orphanCount = x.res.orphanCount :=
  legs_of_keeps refreshSeats_keeps (by decide)

theorem restoreLeg_legs (i : Nat) (x : Part) : (restoreLeg i x).res.legs =
      x.res.legs.map (fun l => if l.id == i then { l with state := .booked, phase := .done } else l) ∧
    (restoreLeg i x).res.releaseCount = x.res.releaseCount ∧ (restoreLeg i x).res.orphanCount = x.res.orphanCount :=
  legs_of_keeps refreshSeats_keeps (by decide)

theorem newPhase_eq (u : UnitDesc) (g : Progress) (l : Leg) : newPhase u g l =
    if g.p.getD 0 < l.frm then .ahead
    else if g.state = .standing ∧ sensorFitted u l.coach l.seat = true then .opened else .done := by
  unfold newPhase openedPhase
  simp only [beq_iff_eq, ite_and]

theorem legOf_eq_none_iff (q : Reservations) (i : Nat) : legOf q i = none ↔ ∀ l ∈ q.legs, l.id ≠ i := by
  simp [legOf]

theorem stopsCall_iff (seq : List Nat) (l : Leg) : stopsCall seq l = true ↔ l.frm ∈ seq ∧ l.till ∈ seq := by
  simp [stopsCall]

theorem meetsActive_iff (l : Leg) (legs : List Leg) : meetsActive l legs = true ↔
    ∃ y ∈ legs, y.active = true ∧ y.coach = l.coach ∧ y.seat = l.seat ∧ y.frm < l.till ∧ l.frm < y.till := by
  simp [meetsActive, Leg.sameSeat, Leg.overlaps, and_assoc]

/-- Settles O18: the first check that fails answers, and where none does the leg joins the pool. -/
theorem legAddBooksTheSeat : Obligations.LegAddBooksTheSeat := by
  intro s tag body l h hbody
  have hc : effect (.legAdd tag body) (quiet s.part) = hostRequest 0x11#8 tag (some l) ownLegAdd (quiet s.part) := by
    rw [← hbody]
    rfl
  cases hfind : (legChecks l s.part).find? (·.1) with
  | some k => exact step_of_refused h hc rfl (checked_of_find (ks := legChecks l s.part) hfind)
  | none =>
    have hown : ownLegAdd l (handed 0x11#8 tag s.part) = taken (takeLeg l (handed 0x11#8 tag s.part)) :=
      checked_of_find_none (ks := legChecks l s.part) hfind
    obtain ⟨t, hexec, rfl, hanswered, honly⟩ := step_of_taken h hc rfl hown
      (leaves_of_keeps takeLeg_keeps (by decide))
    obtain ⟨hlegs, hreleases, horphans⟩ := takeLeg_legs l (handed 0x11#8 tag s.part)
    refine ⟨_, hexec, hanswered, ?_, by simpa using hreleases, by simpa using horphans, fun y hy => ?_, only_mono honly rfl⟩
    · rw [finish_res, answer_res, hlegs]
      refine (insertBy_perm ..).trans (List.Perm.of_eq (congrArg (· :: _) ?_))
      simp only [newLeg, newPhase_eq]
      rfl
    · have hid : ((legOf s.part.res l.id).isSome || meetsActive (newLeg s.part l) s.part.res.legs) = false := by
        simpa using List.find?_eq_none.mp hfind
          ((legOf s.part.res l.id).isSome || meetsActive (newLeg s.part l) s.part.res.legs, .conflict) (by simp [legChecks])
      rw [Bool.or_eq_false_iff, Option.isSome_eq_false_iff, Option.isNone_iff_eq_none] at hid
      exact (legOf_eq_none_iff ..).mp hid.1 y hy

theorem legTest_of_legOf {i : Nat} {l : Leg} (hl : legOf x.res i = some l) (f : Leg → Bool) : legTest x i f = f l := by
  simp [legTest, hl]

/-- Settles O19: both requests by their checks, and the pool with the leg gone or BOOKED again. -/
theorem legCancelAndRestoreActOnTheirLeg : Obligations.LegCancelAndRestoreActOnTheirLeg := by
  refine ⟨fun s tag body i h hbody => ?cancel, fun s tag body i l h hbody hi hl => ?restore,
    fun s tag body i h hbody => ⟨fun hi => ?zero, fun hi hnone => ?unknown⟩⟩
  case cancel =>
    have hc : effect (.legCancel tag body) (quiet s.part) = hostRequest 0x12#8 tag (some i) ownLegCancel (quiet s.part) := by
      rw [← hbody]
      rfl
    by_cases hi : i = 0
    · simp only [if_pos hi]
      exact step_of_refused h hc rfl (checked_here (by simpa using hi))
    simp only [if_neg hi]
    have hid : (i == 0) = false := by simpa using hi
    by_cases hnone : ∀ l ∈ s.part.res.legs, l.id ≠ i
    · simp only [if_pos hnone]
      exact step_of_refused h hc rfl ((checked_next hid).trans (checked_here (by simpa [legOf] using hnone)))
    · simp only [if_neg hnone]
      obtain ⟨t, hexec, rfl, hanswered, honly⟩ := step_of_taken h hc rfl
        ((checked_next hid).trans ((checked_next (by simpa [legOf] using hnone)).trans checked_nil))
        (leaves_of_keeps cancelLeg_keeps (by decide))
      obtain ⟨hlegs, hreleases, horphans⟩ := cancelLeg_legs i (handed 0x12#8 tag s.part)
      refine ⟨_, hexec, hanswered, ?_, ?_, ?_, only_mono honly rfl⟩
      · simpa using hlegs
      · simpa using hreleases
      · simpa using horphans
  case zero =>
    exact step_of_refused (owner := ownLegRestore) (b := i) h (by rw [← hbody]; rfl) rfl (checked_here (by simpa using hi))
  case unknown =>
    exact step_of_refused (owner := ownLegRestore) (b := i) h (by rw [← hbody]; rfl) rfl
      ((checked_next (by simpa using hi)).trans (checked_here (by simpa [legOf] using hnone)))
  case restore =>
    have hc : effect (.legRestore tag body) (quiet s.part) = hostRequest 0x13#8 tag (some i) ownLegRestore (quiet s.part) := by
      rw [← hbody]
      rfl
    have htest (f : Leg → Bool) : legTest (handed 0x13#8 tag s.part) i f = f l := legTest_of_legOf hl f
    have hhead : ownLegRestore i (handed 0x13#8 tag s.part) =
        checked [(l.state != .released, .wrongState), (!stopsCall s.part.route.ownSeq l, .offRoute),
          (meetsActive l s.part.res.legs, .conflict)] (fun s => taken (restoreLeg i s)) (handed 0x13#8 tag s.part) := by
      refine (checked_next (by simpa using hi)).trans ((checked_next ?_).trans ?_)
      · rw [show legOf (handed 0x13#8 tag s.part).res i = some l from hl]
        rfl
      · rw [htest, htest, htest]
        rfl
    by_cases hstate : l.state ≠ .released
    · simp only [if_pos hstate]
      exact step_of_refused h hc rfl (hhead.trans (checked_here (by simpa using hstate)))
    simp only [if_neg hstate]
    have h1 : (l.state != .released) = false := by simpa using hstate
    by_cases hcall : ¬ (l.frm ∈ s.part.route.ownSeq ∧ l.till ∈ s.part.route.ownSeq)
    · simp only [if_pos hcall]
      exact step_of_refused h hc rfl (hhead.trans ((checked_next h1).trans (checked_here (by
        simpa [← stopsCall_iff] using hcall))))
    simp only [if_neg hcall]
    have h2 : (!stopsCall s.part.route.ownSeq l) = false := by
      simpa [← stopsCall_iff] using hcall
    by_cases hmeet : ∃ y ∈ s.part.res.legs, y.active = true ∧ y.coach = l.coach ∧ y.seat = l.seat ∧ y.frm < l.till ∧ l.frm < y.till
    · simp only [if_pos hmeet]
      exact step_of_refused h hc rfl (hhead.trans ((checked_next h1).trans ((checked_next h2).trans
        (checked_here (by simpa [← meetsActive_iff] using hmeet)))))
    · simp only [if_neg hmeet]
      obtain ⟨t, hexec, rfl, hanswered, honly⟩ := step_of_taken h hc rfl (hhead.trans ((checked_next h1).trans
        ((checked_next h2).trans ((checked_next (by simpa [← meetsActive_iff] using hmeet)).trans
          checked_nil)))) (leaves_of_keeps restoreLeg_keeps (by decide))
      obtain ⟨hlegs, hreleases, horphans⟩ := restoreLeg_legs i (handed 0x13#8 tag s.part)
      refine ⟨_, hexec, hanswered, ?_, ?_, ?_, only_mono honly rfl⟩
      · simpa using hlegs
      · simpa using hreleases
      · simpa using horphans

end Sys2Proof.Proofs.Owners
end

section
/-! The hand-off of a progress change: what it leaves alone, and the messages of Route and Progress that make one. -/
namespace Sys2Proof.Proofs.Journey
open Sys2Proof Sys2Proof.Machine Effects Requests ConfigGet Owners Events Changes

variable {s : State} {x y : Part} {L : List Block} {r : Result}

/-! ### What the Reservation Store leaves alone -/

theorem latch_leaves {k : EventKind} : Leaves [.host, .events] x (latch k x) := ⟨latch_keeps, latchMask_inFlight ..⟩

theorem legs_leaves {l : List Leg} {a b : Nat} :
    Leaves [.legs] x { x with res := { x.res with legs := l, releaseCount := a, orphanCount := b } } :=
  leaves_of_keeps legs_keeps (by decide)

theorem mapLegs_leaves {f : Leg → Leg} : Leaves [.legs] x (mapLegs f x) := leaves_of_keeps mapLegs_keeps (by decide)

theorem freeWhere_leaves {f : Leg → Bool} : Leaves [.legs] x (freeWhere f x) := leaves_of_keeps freeWhere_keeps (by decide)

theorem freeFinished_leaves : Leaves [.legs] x (freeFinished x) := leaves_of_keeps freeFinished_keeps (by decide)

theorem openWindows_leaves {k : Nat} : Leaves [.legs] x (openWindows k x) := leaves_of_keeps openWindows_keeps (by decide)

theorem noteReleases_leaves {k : Nat} : Leaves [.legs, .host, .events] x (noteReleases k x) := by
  unfold noteReleases
  split
  · exact .refl _
  · exact .step latch_leaves rfl (.step (M := [.legs]) legs_leaves rfl (.refl _))

theorem noteOrphans_leaves {k : Nat} : Leaves [.legs, .host, .events] x (noteOrphans k x) := by
  unfold noteOrphans
  split
  · exact .refl _
  · exact .step latch_leaves rfl (.step (M := [.legs]) legs_leaves rfl (.refl _))

theorem mapReleasing_leaves {f : Leg → Leg} : Leaves [.legs, .host, .events] x (mapReleasing f x) :=
  .step noteReleases_leaves rfl (.step mapLegs_leaves rfl (.refl _))

theorem decideDeadlines_leaves : Leaves [.legs, .host, .events] x (decideDeadlines x) := mapReleasing_leaves

theorem setDeadlines_leaves {t : Nat} : Leaves [.legs, .host, .events] x (setDeadlines t x) :=
  .step decideDeadlines_leaves rfl (.step mapLegs_leaves rfl (.refl _))

theorem orphanReevaluation_leaves : Leaves [.legs, .host, .events] x (orphanReevaluation x) :=
  .step (leaves_of_keeps restorePass_keeps (by decide)) rfl
    (.step noteOrphans_leaves rfl (.step mapLegs_leaves rfl (.refl _)))

theorem handleNote_leaves (x : Part) (n : Note) : Leaves [.legs, .host, .events] x (handleNote x n) := by
  cases n with
  | placement k => exact .step openWindows_leaves rfl (.step freeFinished_leaves rfl (.refl _))
  | arrival k => exact .step openWindows_leaves rfl (.step freeFinished_leaves rfl (.refl _))
  | halt => exact .step freeFinished_leaves rfl (.refl _)
  | departure t fromStop =>
    cases fromStop
    · exact .refl _
    · exact setDeadlines_leaves
  | termination => exact .step freeWhere_leaves rfl (.refl _)
  | opened => exact .step freeWhere_leaves rfl (.refl _)
  | rederived => exact .step freeFinished_leaves rfl (.step orphanReevaluation_leaves rfl (.refl _))

theorem handleNotes_leaves (notes : List Note) (x : Part) : Leaves [.legs, .host, .events] x (handleNotes notes x) := by
  induction notes generalizing x with
  | nil => exact .refl _
  | cons n notes ih => exact .step (ih _) rfl (handleNote_leaves x n)

/-! ### What a hand-off leaves alone -/

/-- After the Reservation Store a hand-off changes seats, tallies, estimates and panels. -/
theorem handOff_after (notes : List Note) (cause : Cause) (x : Part) :
    Keeps [.est, .tallies, .views, .seat, .panel, .disp] (handleNotes notes x) (handOff notes cause x) :=
  Keeps.step restartStabling_keeps rfl (Keeps.step lightAndCompose_keeps rfl (Keeps.step estRecompute_keeps rfl
    (Keeps.step refreshSeats_keeps rfl .refl)))

theorem handOff_legs (notes : List Note) (cause : Cause) (x : Part) :
    (handOff notes cause x).res.legs = (handleNotes notes x).res.legs ∧
      (handOff notes cause x).res.releaseCount = (handleNotes notes x).res.releaseCount ∧
      (handOff notes cause x).res.orphanCount = (handleNotes notes x).res.orphanCount :=
  legs_of_keeps (handOff_after notes cause x) (by decide)

theorem handOff_leaves (notes : List Note) (cause : Cause) (x : Part) :
    Leaves [.est, .tallies, .legs, .views, .seat, .panel, .disp, .host, .events] x (handOff notes cause x) :=
  .step (leaves_of_keeps (handOff_after notes cause x) (by decide)) rfl (.step (handleNotes_leaves notes x) rfl (.refl _))

theorem handOff_route (notes : List Note) (cause : Cause) (x : Part) : (handOff notes cause x).route = x.route :=
  route_of_keeps (handOff_leaves notes cause x).keeps (by decide) (by decide)

theorem setProg_leaves {g : Progress} (h : g.source = x.route.prog.source) : Leaves [.route] x (setProg g x) :=
  leaves_of_keeps (setProgBut_keeps h) (by decide)

/-- A new progress record with its source, handed on. -/
theorem progress_leaves {g : Progress} (h : g.source = x.route.prog.source) (notes : List Note) (cause : Cause) :
    Leaves [.route, .est, .tallies, .legs, .views, .seat, .panel, .disp, .events, .host] x (handOff notes cause (setProg g x)) :=
  .step (handOff_leaves ..) rfl (.step (setProg_leaves h) rfl (.refl _))

/-! ### The checks of a progress message -/

section
variable {k : Nat} {t : ClockTime} {ks : List (Bool × Result)} {take : Part → Part × Reply}

theorem message_badField (h : 63 < k ∨ 1 < t.day) : checked (messageChecks k t y ++ ks) take x = refused .badField x :=
  checked_here (by simpa using h)

theorem message_field_good (hk : k ≤ 63) (hday : t.day ≤ 1) : (decide (63 < k) || decide (1 < t.day)) = false := by
  simp [hk, hday]

theorem message_badTime (hk : k ≤ 63) (hday : t.day ≤ 1) (ht : t.ok = false) :
    checked (messageChecks k t y ++ ks) take x = refused .badTime x :=
  (checked_next (message_field_good hk hday)).trans (checked_here (by simp [ht]))

theorem message_following (hk : k ≤ 63) (hday : t.day ≤ 1) (ht : t.ok = true) (hsource : y.route.prog.source = .beacon) :
    checked (messageChecks k t y ++ ks) take x = refused .following x :=
  (checked_next (message_field_good hk hday)).trans ((checked_next (by simp [ht])).trans (checked_here (by simp [hsource])))

theorem message_good (hk : k ≤ 63) (hday : t.day ≤ 1) (ht : t.ok = true) (hsource : y.route.prog.source = .own) :
    checked (messageChecks k t y ++ ks) take x = checked ks take x :=
  (checked_next (message_field_good hk hday)).trans ((checked_next (by simp [ht])).trans (checked_next (by simp [hsource])))

end

/-! ### DEPARTED -/

theorem departsFrom_eq_some_iff {g : Progress} {k : Nat} :
    departsFrom g = some k ↔ (g.state = .standing ∧ g.p = some k) ∨ (g.state = .halted ∧ g.halt = some k) := by
  unfold departsFrom stoodAt
  split
  · simp_all
  · simp_all
  · next h1 h2 => simp_all

theorem takeDeparted_route (t : Nat) (x : Part) : (takeDeparted t x).route = { x.route with
    prog := { x.route.prog with state := .departed, halt := none, dep := some t, d := none, stale := false } } :=
  handOff_route ..

theorem takeDeparted_leaves (t : Nat) (x : Part) :
    Leaves [.route, .est, .tallies, .legs, .views, .seat, .panel, .disp, .events, .host] x (takeDeparted t x) := by
  unfold takeDeparted
  exact progress_leaves (by rfl) _ _

/-- Settles O15: the checks in their order, and the record a departure leaves. -/
theorem departedLeavesTheStopUnlessItFollows : Obligations.DepartedLeavesTheStopUnlessItFollows := by
  refine ⟨fun s tag body k t h hbody hk hday ht hsource => ?own, fun s tag body h hsource =>
    ⟨fun k t hbody hk hday ht => ⟨?departed, ?arrived⟩, fun d hbody => ?position⟩,
    fun s tag body k t h hbody => ⟨fun hbad => ?field, fun hk hday ht => ?time⟩⟩
  case own =>
    have hgood := message_good (x := handed 0x0E#8 tag s.part) (y := s.part)
      (ks := [(departsFrom s.part.route.prog != some k, .wrongState)]) (take := fun x => taken (takeDeparted t.seconds x))
      hk hday ht hsource
    have hc : effect (.departed tag body) (quiet s.part) = hostRequest 0x0E#8 tag (some (k, t)) ownDeparted (quiet s.part) := by
      rw [← hbody]
      rfl
    by_cases hstood : (s.part.route.prog.state = .standing ∧ s.part.route.prog.p = some k) ∨
        (s.part.route.prog.state = .halted ∧ s.part.route.prog.halt = some k)
    · simp only [if_pos hstood]
      have hown : ownDeparted (k, t) (handed 0x0E#8 tag s.part) = taken (takeDeparted t.seconds (handed 0x0E#8 tag s.part)) :=
        hgood.trans ((checked_next (by simpa [departsFrom_eq_some_iff] using hstood)).trans checked_nil)
      obtain ⟨t', hexec, rfl, hanswered, honly⟩ := step_of_taken h hc rfl hown (takeDeparted_leaves ..)
      refine ⟨_, hexec, hanswered, ?_, only_mono honly rfl⟩
      rw [finish_route, answer_route, takeDeparted_route]
      rfl
    · simp only [if_neg hstood]
      exact step_of_refused h hc rfl (hgood.trans (checked_here (by simpa [departsFrom_eq_some_iff] using hstood)))
  case departed =>
    exact step_of_refused (owner := ownDeparted) (b := (k, t)) h (by rw [← hbody]; rfl) rfl (message_following hk hday ht hsource)
  case arrived =>
    exact step_of_refused (owner := ownArrived) (b := (k, t)) h (by rw [← hbody]; rfl) rfl (message_following hk hday ht hsource)
  case position =>
    exact step_of_refused (owner := ownPositionReport) (b := (d : Int)) h (by rw [← hbody]; rfl) rfl
      ((checked_next (by simp)).trans (checked_here (by simp [hsource])))
  case field =>
    exact step_of_refused (owner := ownDeparted) (b := (k, t)) h (by rw [← hbody]; rfl) rfl (message_badField hbad)
  case time =>
    exact step_of_refused (owner := ownDeparted) (b := (k, t)) h (by rw [← hbody]; rfl) rfl (message_badTime hk hday ht)

/-! ### POSITION -/

theorem takePosition_route (d : Nat) (x : Part) : (takePosition d x).route = { x.route with prog := positioned x d } :=
  handOff_route ..

theorem takePosition_leaves (d : Nat) (x : Part) :
    Leaves [.route, .est, .tallies, .legs, .views, .seat, .panel, .disp, .events, .host] x (takePosition d x) := by
  unfold takePosition
  exact progress_leaves (by rfl) _ _

/-- Settles O16: the clamped distance, and the state that the hysteresis gives. -/
theorem positionMovesBetweenDepartedAndApproaching : Obligations.PositionMovesBetweenDepartedAndApproaching := by
  refine ⟨fun s tag body d h hbody hsource => ⟨fun p n hstate hp hn => ?taken, fun hd ha => ?state⟩,
    fun s tag body d h hbody hneg => ?negative⟩
  case taken =>
    have hrunning : running s.part.route.prog.state = true := by
      obtain hs | hs := hstate <;> simp [running, hs]
    have hown : ownPositionReport d (handed 0x10#8 tag s.part) = taken (takePosition d (handed 0x10#8 tag s.part)) :=
      (checked_next (by simp)).trans ((checked_next (by simp [hsource])).trans ((checked_next (by simp [hrunning])).trans checked_nil))
    obtain ⟨t, hexec, rfl, hanswered, honly⟩ := step_of_taken (c := .position tag body) h (by rw [← hbody]; rfl) rfl hown
      (takePosition_leaves ..)
    intro e a
    have hroute : (takePosition d (handed 0x10#8 tag s.part)).route = { s.part.route with prog := { s.part.route.prog with
        state := runningState s.part.route.prog.state a s.part.host.params.hysteresis e, d := some e, stale := false } } := by
      rw [takePosition_route]
      simp only [positioned, handed_route, handed_unit, hp, hn, Option.getD_some]
      rfl
    refine ⟨_, hexec, hanswered, fun hs => ?_, fun hs => ?_, ?_, only_mono honly rfl⟩
    · simp [hroute, runningState, hs]
    · simp [hroute, runningState, hs]
    · simp only [finish_route, answer_route, hroute]
  case state =>
    exact step_of_refused (owner := ownPositionReport) (b := (d : Int)) h (by rw [← hbody]; rfl) rfl
      ((checked_next (by simp)).trans ((checked_next (by simp [hsource])).trans (checked_here (by simp [running, hd, ha]))))
  case negative =>
    exact step_of_refused (owner := ownPositionReport) (b := d) h (by rw [← hbody]; rfl) rfl (checked_here (by simpa using hneg))

end Sys2Proof.Proofs.Journey
end

section
/-! TIME, the second of the clock, ARRIVED and STOP-AMEND. -/
namespace Sys2Proof.Proofs.Journey
open Sys2Proof Sys2Proof.Machine Effects Requests ConfigGet Owners Events Changes

variable {s : State} {x y : Part} {L : List Block} {r : Result}

/-! ### TIME -/

theorem writeClock_leaves (v : Nat) (x : Part) :
    Leaves [.route, .est, .tallies, .legs, .views, .seat, .panel, .disp, .events, .host] x (writeClock v x) := by
  unfold writeClock
  exact .step (M := [.est, .tallies, .views, .seat, .panel, .disp]) (leaves_of_keeps (Keeps.step composer_keeps rfl
      (Keeps.step estRecompute_keeps rfl (Keeps.step refreshSeats_keeps rfl .refl))) (by decide)) rfl
    (.step decideDeadlines_leaves rfl (.step (M := [.route]) (leaves_of_keeps (routeBut_keeps rfl) (by decide)) rfl (.refl _)))

/-- Deadlines, seats, estimates and panels leave Route and Progress alone. -/
theorem route_after_deadlines (x : Part) : (refreshSeats (decideDeadlines x)).route = x.route :=
  route_of_keeps (L := [.tallies, .views, .seat, .panel, .disp, .legs, .host, .events])
    (Keeps.step refreshSeats_keeps rfl (Keeps.step decideDeadlines_keeps rfl .refl)) (by decide) (by decide)

theorem writeClock_route (v : Nat) (x : Part) : (writeClock v x).route =
    { x.route with clock := v, clockSet := true, rangeLatched := false } := by
  unfold writeClock
  rw [route_of_keeps composer_keeps (by decide) (by decide), route_of_keeps estRecompute_keeps (by decide) (by decide),
    route_after_deadlines]

/-! ### The second -/

theorem beat_route (x : Part) : (beat x).route = x.route := route_of_keeps beat_keeps (by decide) (by decide)

theorem beat_supply (x : Part) : (beat x).supply = match x.supply.mode with
    | .run => { x.supply with settle := x.supply.settle.map fun n => min x.host.params.settleLimit (n + 1) }
    | .breakHold => { x.supply with hold := x.supply.hold.map fun n => n - 1 }
    | .extendedHold => { x.supply with extHold := x.supply.extHold.map fun n => n - 1 }
    | _ => x.supply := by
  cases hm : x.supply.mode <;> simp [beat, hm, onDisp, mapSensors, onSupply, countDown]

theorem latched_of_latch {k : EventKind} {j : Nat} (h : x.host.latched.getLsbD j = true ∨ k.mask.getLsbD j = true) :
    (latch k x).host.latched.getLsbD j = true := by
  have hmask : (latch k x).host.latched = x.host.latched ||| k.mask := by
    unfold latch latchMask
    dsimp only
    split
    · unfold arrangeEvent
      split <;> rfl
    · rfl
  rw [hmask, BitVec.getLsbD_or]
  obtain h | h := h <;> simp [h]

/-- A kind latched before the deadlines are decided is latched after. -/
theorem latched_decideDeadlines {j : Nat} (h : x.host.latched.getLsbD j = true) :
    (decideDeadlines x).host.latched.getLsbD j = true := by
  unfold decideDeadlines mapReleasing noteReleases
  split
  · exact h
  · exact latched_of_latch (.inl h)

theorem advanceClock_below (h : x.route.clock < 172799) :
    (advanceClock x).route = { x.route with clock := x.route.clock + 1 } := by
  unfold advanceClock
  rw [if_pos (by exact h)]

theorem advanceClock_top (h : ¬ x.route.clock < 172799) :
    (advanceClock x).route = { x.route with rangeLatched := true } ∧
      (x.route.rangeLatched = false → (advanceClock x).host.latched.getLsbD 8 = true) := by
  unfold advanceClock
  rw [if_neg (by exact h)]
  split
  · next hl =>
    refine ⟨?_, fun hn => ?_⟩
    · rw [← hl]
    · rw [hl] at hn
      cases hn
  · exact ⟨rfl, fun _ => latched_of_latch (.inr rfl)⟩

theorem advanceClock_supply (x : Part) : (advanceClock x).supply = x.supply := by
  unfold advanceClock
  (repeat' split) <;> rfl

/-- A second in which the clock runs, with what follows the advance. -/
theorem clockTick_runs (h : clockRuns x = true) :
    (clockTick x).route = (advanceClock (beat x)).route ∧ (clockTick x).supply = (beat x).supply ∧
      ∀ j, (advanceClock (beat x)).host.latched.getLsbD j = true → (clockTick x).host.latched.getLsbD j = true := by
  rw [clockTick, if_pos h]
  have hminute {b : Nat} {y : Part} : Keeps [.est, .panel, .disp] y (minuteAdvanced b y) := minuteAdvanced_keeps
  refine ⟨?_, ?_, fun j hj => ?_⟩
  · rw [route_of_keeps hminute (by decide) (by decide), route_after_deadlines]
  · rw [supply_of_keeps hminute (by decide), supply_of_keeps refreshSeats_keeps (by decide),
      supply_of_keeps decideDeadlines_keeps (by decide), advanceClock_supply]
  · rw [latched_of_keeps hminute (by decide), latched_of_keeps refreshSeats_keeps (by decide)]
    exact latched_decideDeadlines hj

/-- Settles O14: TIME by its checks, and the second by the mode it comes in. -/
theorem theServiceClockIsSetAndAdvances : Obligations.TheServiceClockIsSetAndAdvances := by
  refine ⟨fun s tag body t h hbody => ?time, fun s => ?tick⟩
  case time =>
    have hc : effect (.time tag body) (quiet s.part) = hostRequest 0x0D#8 tag (some t) ownTime (quiet s.part) := by
      rw [← hbody]
      rfl
    by_cases hday : 1 < t.day
    · simp only [if_pos hday]
      exact step_of_refused h hc rfl (checked_here (by simpa using hday))
    simp only [if_neg hday]
    by_cases hok : t.ok = false
    · simp only [if_pos hok]
      exact step_of_refused h hc rfl ((checked_next (by simpa using hday)).trans (checked_here (by simp [hok])))
    · simp only [if_neg hok]
      obtain ⟨t', hexec, rfl, hanswered, honly⟩ := step_of_taken h hc rfl
        ((checked_next (by simpa using hday)).trans ((checked_next (by simpa using hok)).trans checked_nil))
        (writeClock_leaves t.seconds _)
      refine ⟨_, hexec, hanswered, ⟨?_, ?_⟩, only_mono honly rfl⟩
      · exact seconds_le (by omega) (by simpa using hok)
      · rw [finish_route, answer_route, writeClock_route]
        rfl
  case tick =>
    obtain ⟨t, hexec, rfl, honly⟩ := step_of_effect (s := s) (c := .clockTick) rfl clockTick_keeps
    refine ⟨_, hexec, only_mono honly rfl, ?_⟩
    split
    · next hmode =>
      have hstands : clockTick (quiet s.part) = quiet s.part := by
        obtain hm | hm := hmode <;> simp [clockTick, clockRuns, isRun, isHold, hm]
      have hkeeps : Keeps [] (quiet s.part) (clockTick (quiet s.part)) := by
        rw [hstands]
        exact .refl
      exact hkeeps.only
    · next hmode =>
      have hruns : clockRuns (quiet s.part) = true := by
        cases hm : s.part.supply.mode <;> simp_all [clockRuns, isRun, isHold]
      obtain ⟨hroute, hsupply, hlatched⟩ := clockTick_runs hruns
      simp only [finish_route, finish_supply, finish_latched, effect, hroute, hsupply]
      refine ⟨?_, fun hm => ?_, fun hm => ?_, fun hm => ?_⟩
      · split
        · next hbelow => rw [advanceClock_below (by rwa [beat_route]), beat_route, quiet_route]
        · next htop =>
          obtain ⟨h1, h2⟩ := advanceClock_top (x := beat (quiet s.part)) (by rwa [beat_route])
          rw [beat_route] at h1 h2
          exact ⟨h1, fun hn => hlatched 8 (h2 hn)⟩
      · simp only [beat_supply, quiet_supply, hm]
      · simp only [beat_supply, quiet_supply, hm]
      · simp only [beat_supply, quiet_supply, quiet_host, hm]

/-! ### ARRIVED -/

theorem openWindows_till {k : Nat} {l : Leg} (h : l ∈ (openWindows k x).res.legs) : ∃ l' ∈ x.res.legs, l'.till = l.till := by
  obtain ⟨l', hl', rfl⟩ := List.mem_map.mp h
  refine ⟨l', hl', ?_⟩
  split <;> rfl

theorem freeFinished_till {p : Nat} (hp : x.route.prog.p = some p) {l : Leg} (h : l ∈ (freeFinished x).res.legs) : p < l.till := by
  simp only [freeFinished, hp, freeWhere] at h
  simpa using (List.mem_filter.mp h).2

/-- After an arrival every leg ends beyond the stop reached; after the last stop there is none. -/
theorem arrival_legs {k : Nat} (hp : x.route.prog.p = some k) (notes : List Note) (hn : notes = [] ∨ notes = [.termination]) :
    (∀ l ∈ (handleNotes (.arrival k :: notes) x).res.legs, k < l.till) ∧
      (notes = [.termination] → (handleNotes (.arrival k :: notes) x).res.legs = []) := by
  obtain rfl | rfl := hn
  · refine ⟨fun l hl => ?_, nofun⟩
    obtain ⟨l', hl', htill⟩ := openWindows_till (x := freeFinished x) hl
    exact htill ▸ freeFinished_till hp hl'
  · have hnone : (handleNotes [.arrival k, .termination] x).res.legs = [] := by
      simp [handleNotes, handleNote, freeWhere]
    exact ⟨fun l hl => absurd (hnone ▸ hl) List.not_mem_nil, fun _ => hnone⟩

/-- The notes of an arrival: at the last own calling stop the journey ends. -/
def arrivalNotes (g : Progress) : List Note := if g.state == .terminated then [.termination] else []

theorem takeArrived_stop {k : Nat} (t : Nat) (h : k ∈ x.route.ownSeq) : takeArrived k t x =
    handOff (.arrival k :: arrivalNotes (arrivedAt x.route k t)) {} (setProg (arrivedAt x.route k t) x) := by
  unfold takeArrived
  rw [if_pos (by simpa using h)]
  rfl

theorem takeArrived_halt {k : Nat} (t : Nat) (h : k ∉ x.route.ownSeq) :
    takeArrived k t x = handOff [.halt] {} (setProg (haltedAt x.route k) x) := by
  unfold takeArrived
  rw [if_neg (by simpa using h)]

theorem takeArrived_leaves (k t : Nat) (x : Part) :
    Leaves [.route, .est, .tallies, .legs, .views, .seat, .panel, .disp, .events, .host] x (takeArrived k t x) := by
  unfold takeArrived
  split
  · exact progress_leaves (by rfl) _ _
  · exact progress_leaves (by rfl) _ _

theorem takeArrived_prog_stop {k : Nat} (t : Nat) (h : k ∈ x.route.ownSeq) :
    (takeArrived k t x).route = { x.route with prog := arrivedAt x.route k t } := by
  rw [takeArrived_stop t h, handOff_route]
  rfl

theorem takeArrived_prog_halt {k : Nat} (t : Nat) (h : k ∉ x.route.ownSeq) :
    (takeArrived k t x).route = { x.route with prog := haltedAt x.route k } := by
  rw [takeArrived_halt t h, handOff_route]
  rfl

theorem takeArrived_legs {k : Nat} (t : Nat) (h : k ∈ x.route.ownSeq) :
    (∀ l ∈ (takeArrived k t x).res.legs, k < l.till) ∧
      ((arrivedAt x.route k t).state = .terminated → (takeArrived k t x).res.legs = []) := by
  rw [takeArrived_stop t h, (handOff_legs ..).1]
  have hnotes : arrivalNotes (arrivedAt x.route k t) = [] ∨ arrivalNotes (arrivedAt x.route k t) = [.termination] := by
    unfold arrivalNotes
    split <;> simp
  obtain ⟨htill, hnone⟩ := arrival_legs (x := setProg (arrivedAt x.route k t) x) rfl _ hnotes
  exact ⟨htill, fun hterm => hnone (by simp [arrivalNotes, hterm])⟩

/-- The own calling stops passed on the way to a halt. -/
theorem haltedAt_of_p {v : Route} {p : Nat} (hp : v.prog.p = some p) (k : Nat) :
    let passed := v.ownSeq.filter fun i => decide (p < i) && decide (i < k)
    (haltedAt v k).p = some (passed.getLast?.getD p) ∧
      (passed ≠ [] → (haltedAt v k).arr = none ∧ (haltedAt v k).dep = none) ∧
      (passed = [] → (haltedAt v k).arr = v.prog.arr ∧ (haltedAt v k).dep = v.prog.dep) := by
  intro passed
  have hpassed : (v.ownSeq.filter fun i => v.prog.p.getD 0 < i && i < k) = passed := by
    rw [hp]
    rfl
  simp only [haltedAt, hpassed]
  refine ⟨?_, fun hne => ?_, fun heq => ?_⟩
  · cases passed.getLast? with
    | none => exact hp
    | some i => rfl
  · simp [hne]
  · simp [heq]

theorem ownArrived_eq {k : Nat} {t : ClockTime} (hk : k ≤ 63) (hday : t.day ≤ 1) (ht : t.ok = true)
    (hsource : x.route.prog.source = .own) : ownArrived (k, t) x =
      checked [(!running x.route.prog.state, .wrongState), (arrivalBad x.route k, .badField)]
        (fun y => taken (takeArrived k t.seconds y)) x := message_good hk hday ht hsource

theorem arrivalBad_iff (v : Route) (k : Nat) : arrivalBad v k = true ↔
    v.stops.length ≤ k ∨ k ≤ v.prog.p.getD 0 ∨ (v.ownSeq.getLast?.getD 0 < k ∧ k ∉ v.ownSeq) := by
  simp [arrivalBad, or_assoc]

/-- Settles O17: the checks in their order, and the record at a stop or at a halt. -/
theorem arrivedBringsTheTrainToAStop : Obligations.ArrivedBringsTheTrainToAStop := by
  refine ⟨fun s tag body k p t h hbody hk hday ht hsource hstate hp hpk hklen => ?taken,
    fun s tag body k t h hbody => ⟨fun hbad => ?field, fun hk hday ht => ?time, fun hk hday ht hsource =>
      ⟨fun hd ha => ?standing, fun p hstate hp hbad => ?bad⟩⟩⟩
  case field =>
    exact step_of_refused (owner := ownArrived) (b := (k, t)) h (by rw [← hbody]; rfl) rfl (message_badField hbad)
  case time =>
    exact step_of_refused (owner := ownArrived) (b := (k, t)) h (by rw [← hbody]; rfl) rfl (message_badTime hk hday ht)
  case standing =>
    exact step_of_refused (owner := ownArrived) (b := (k, t)) h (by rw [← hbody]; rfl) rfl
      ((ownArrived_eq (x := handed 0x0F#8 tag s.part) hk hday ht hsource).trans (checked_here (by simp [running, hd, ha])))
  case bad =>
    have hrunning : running s.part.route.prog.state = true := by
      obtain hs | hs := hstate <;> simp [running, hs]
    exact step_of_refused (owner := ownArrived) (b := (k, t)) h (by rw [← hbody]; rfl) rfl
      ((ownArrived_eq (x := handed 0x0F#8 tag s.part) hk hday ht hsource).trans ((checked_next (by simp [hrunning])).trans
        (checked_here ((arrivalBad_iff s.part.route k).mpr (by rwa [hp])))))
  case taken =>
    have hrunning : running s.part.route.prog.state = true := by
      obtain hs | hs := hstate <;> simp [running, hs]
    have hc : effect (.arrived tag body) (quiet s.part) = hostRequest 0x0F#8 tag (some (k, t)) ownArrived (quiet s.part) := by
      rw [← hbody]
      rfl
    have hhead := (ownArrived_eq (x := handed 0x0F#8 tag s.part) hk hday ht hsource).trans (checked_next (by simp [hrunning]))
    by_cases hbad : arrivalBad s.part.route k = true
    · obtain ⟨t', hexec, -, honly⟩ := step_of_refused h hc rfl (hhead.trans (checked_here hbad))
      have hbeyond : s.part.route.ownSeq.getLast?.getD 0 < k ∧ k ∉ s.part.route.ownSeq := by
        simpa [arrivalBad_iff, hp, Nat.not_le.mpr hpk, Nat.not_le.mpr hklen] using hbad
      have hroute : t'.part.route = s.part.route := by
        have h1 : Block.route.same s.part t'.part := honly.2 _ (by decide)
        have h2 : t'.part.route.prog.source = s.part.route.prog.source := honly.2 .source (by decide)
        rw [show t'.part.route = _ from h1, h2]
      exact ⟨t', hexec, fun hk => absurd hk hbeyond.2, fun _ hle => absurd hle (Nat.not_le.mpr hbeyond.1), by rw [hroute],
        by rw [hroute], by rw [hroute]⟩
    · obtain ⟨t', hexec, rfl, hanswered, honly⟩ := step_of_taken h hc rfl
        (hhead.trans ((checked_next (by simpa using hbad)).trans checked_nil)) (takeArrived_leaves k t.seconds _)
      refine ⟨_, hexec, fun hmem => ?_, fun hmem _ => ?_, ?_⟩
      · obtain ⟨htill, hnone⟩ := takeArrived_legs (x := handed 0x0F#8 tag s.part) t.seconds hmem
        simp only [finish_route, answer_route, finish_res, answer_res]
        rw [takeArrived_prog_stop (x := handed 0x0F#8 tag s.part) _ hmem]
        exact ⟨hanswered, rfl, rfl, rfl, rfl, rfl, rfl, rfl, rfl, hnone, htill, only_mono honly rfl⟩
      · obtain ⟨hlast, hsome, hnone⟩ := haltedAt_of_p (v := s.part.route) hp k
        intro passed
        simp only [finish_route, answer_route]
        rw [takeArrived_prog_halt (x := handed 0x0F#8 tag s.part) _ hmem]
        exact ⟨hanswered, rfl, rfl, rfl, hlast, rfl, hsome, hnone, only_mono honly rfl⟩
      · simp only [finish_route, answer_route]
        by_cases hmem : k ∈ s.part.route.ownSeq
        · rw [takeArrived_prog_stop (x := handed 0x0F#8 tag s.part) _ hmem]
          exact ⟨rfl, rfl, rfl⟩
        · rw [takeArrived_prog_halt (x := handed 0x0F#8 tag s.part) _ hmem]
          exact ⟨rfl, rfl, rfl⟩

end Sys2Proof.Proofs.Journey
end

section
/-! STOP-AMEND: the checks in their order, and the record restated where CANCELLED flips. -/
namespace Sys2Proof.Proofs.Journey
open Sys2Proof Sys2Proof.Machine Effects Requests ConfigGet Owners Events Changes

variable {s : State} {x y : Part} {a : AmendReq}

/-- The amendment changes the CANCELLED flag of its record. -/
def flips (a : AmendReq) (stops : List StopRec) : Bool :=
  ((stops[a.index]?).map (·.cancelled)) != (((amended a stops)[a.index]?).map (·.cancelled))

theorem getElem?_amended (a : AmendReq) (stops : List StopRec) (i : Nat) :
    (amended a stops)[i]? = if i = a.index then (stops[i]?).map (amend a) else stops[i]? := by
  rw [amended, getElem?_modifyAt]
  simp only [eq_comm]

theorem flips_iff {stops : List StopRec} {r : StopRec} (hr : stops[a.index]? = some r) :
    flips a stops = true ↔ (amend a r).cancelled ≠ r.cancelled := by
  simp only [flips, getElem?_amended, hr, if_true, Option.map_some, bne_iff_ne, ne_eq, Option.some.injEq]
  exact ⟨Ne.symm, Ne.symm⟩

/-- The route record as an amendment leaves it. -/
def amendedRoute (a : AmendReq) (v : Route) (k : Nat) : Route :=
  let c := callSeq (amended a v.stops) k
  { v with stops := amended a v.stops
           ownSeq := if flips a v.stops then c else v.ownSeq
           prog := if flips a v.stops then restatedAhead c v.prog else v.prog }

theorem takeAmend_eq (a : AmendReq) (x : Part) : ∃ notes cause,
    takeAmend a x = handOff notes cause { x with route := amendedRoute a x.route x.unit.portionTag } := ⟨_, _, rfl⟩

theorem takeAmend_route (a : AmendReq) (x : Part) : (takeAmend a x).route = amendedRoute a x.route x.unit.portionTag := by
  obtain ⟨notes, cause, heq⟩ := takeAmend_eq a x
  rw [heq, handOff_route]

/-- The record restated ahead: n anew, and a running train whose n so changes is DEPARTED again. -/
theorem restatedAhead_eq (c : List Nat) (g : Progress) : restatedAhead c g =
    let n := firstAfter c (positionIndex g)
    let moved := (g.state = .departed ∨ g.state = .approaching) ∧ n ≠ g.n
    { g with n := n, state := if moved then .departed else g.state, d := if moved then none else g.d } := by
  simp only [restatedAhead]
  by_cases hmoved : (g.state = .departed ∨ g.state = .approaching) ∧ firstAfter c (positionIndex g) ≠ g.n
  · rw [if_pos (by simpa [running] using hmoved)]
    simp only [if_pos hmoved]
  · rw [if_neg (by simpa [running] using hmoved)]
    simp only [if_neg hmoved]

theorem takeAmend_leaves (a : AmendReq) (x : Part) :
    Leaves [.route, .est, .tallies, .legs, .views, .seat, .panel, .disp, .events, .host] x (takeAmend a x) := by
  obtain ⟨notes, cause, heq⟩ := takeAmend_eq a x
  have hsource : (amendedRoute a x.route x.unit.portionTag).prog.source = x.route.prog.source := by
    simp only [amendedRoute, restatedAhead_eq]
    split <;> rfl
  rw [heq]
  exact .step (handOff_leaves ..) rfl (.step (M := [.route]) (leaves_of_keeps (routeBut_keeps hsource) (by decide)) rfl (.refl _))

theorem record_of_amendBad {stops : List StopRec} (h : amendBad stops a = false) : ∃ r, stops[a.index]? = some r := by
  cases hr : stops[a.index]? with
  | some r => exact ⟨r, rfl⟩
  | none => simp [amendBad, hr] at h

/-- Settles O13: the six checks by their order, and the amended record with the progress restated. -/
theorem stopAmendChangesARecordAhead : Obligations.StopAmendChangesARecordAhead := by
  have hcommand (s : State) (tag : Byte) (body : List Byte) (a : AmendReq) (hbody : readStopAmend body = some a) :
      effect (.stopAmend tag body) (quiet s.part) = hostRequest 0x0C#8 tag (some a) ownStopAmend (quiet s.part) := by
    rw [← hbody]
    rfl
  refine ⟨fun s tag body a h hbody hway hgood htime hahead hcancel hfault => ?taken, fun s tag body a h hbody => ?refused⟩
  case refused =>
    have hc := hcommand s tag body a hbody
    intro way good timed ahead refused
    have h1 (hw : way) := checked_next (x := handed 0x0C#8 tag s.part) (take := fun x => taken (takeAmend a x)) (k := (!underWay s.part.route.prog.state, .wrongState))
      (ks := [(amendBad s.part.route.stops a, .badField), (amendTimeBad a, .badTime),
        (decide (a.index ≤ positionIndex s.part.route.prog), .wrongState), (cancelBad s.part a, .badField),
        ((timeFault (amended a s.part.route.stops)).isSome, .badTime)]) (by rw [hw]; rfl)
    refine ⟨fun hw => ?_, fun hw hg => ?_, fun hw hg ht => ?_, fun hw hg ht ha => ?_, fun hw hg ht ha hcb => ?_,
      fun hw hg ht ha hcb hf => ?_⟩
    · exact step_of_refused h hc rfl (checked_here (by simpa [way] using hw))
    · exact step_of_refused h hc rfl ((h1 hw).trans (checked_here (by simpa [good] using hg)))
    · exact step_of_refused h hc rfl ((h1 hw).trans ((checked_next hg).trans (checked_here (by simpa [timed] using ht))))
    · exact step_of_refused h hc rfl ((h1 hw).trans ((checked_next hg).trans ((checked_next ht).trans
        (checked_here (by simpa [ahead] using ha)))))
    · exact step_of_refused h hc rfl ((h1 hw).trans ((checked_next hg).trans ((checked_next ht).trans
        ((checked_next (by simpa [ahead] using ha)).trans (checked_here hcb)))))
    · exact step_of_refused h hc rfl ((h1 hw).trans ((checked_next hg).trans ((checked_next ht).trans
        ((checked_next (by simpa [ahead] using ha)).trans ((checked_next hcb).trans
          (checked_here (by simpa [Option.isSome_iff_ne_none] using hf)))))))
  case taken =>
    obtain ⟨r, hr⟩ := record_of_amendBad hgood
    have hown : ownStopAmend a (handed 0x0C#8 tag s.part) = taken (takeAmend a (handed 0x0C#8 tag s.part)) :=
      (checked_next (by simp [hway])).trans ((checked_next hgood).trans ((checked_next htime).trans
        ((checked_next (decide_eq_false (Nat.not_le.mpr hahead))).trans ((checked_next hcancel).trans
          ((checked_next (by simp [hfault])).trans checked_nil)))))
    obtain ⟨t, hexec, rfl, hanswered, honly⟩ := step_of_taken h (hcommand s tag body a hbody) rfl hown (takeAmend_leaves ..)
    have hroute : (takeAmend a (handed 0x0C#8 tag s.part)).route = amendedRoute a s.part.route s.part.unit.portionTag :=
      takeAmend_route ..
    refine ⟨_, r, hexec, hanswered, only_mono honly rfl, hr, ?_⟩
    simp only [finish_route, answer_route, hroute]
    refine ⟨by simp [amendedRoute, getElem?_amended, hr], fun i hi => by simp [amendedRoute, getElem?_amended, hi], rfl, ?_⟩
    split
    · next hsame =>
      have hflip : flips a s.part.route.stops = false := by
        rw [← Bool.not_eq_true, flips_iff hr]
        exact not_not.mpr hsame
      simp [amendedRoute, hflip]
    · next hne =>
      have hflip : flips a s.part.route.stops = true := (flips_iff hr).mpr hne
      simp only [amendedRoute, hflip, if_true, restatedAhead_eq]
      simp only [true_and]
      split
      · exact ⟨rfl, rfl⟩
      · exact ⟨rfl, rfl⟩

end Sys2Proof.Proofs.Journey
end

section
/-! The own entry of the formation record: rewriting it, and the requests that change the route id in force. -/
namespace Sys2Proof.Proofs.OwnEntries
open Sys2Proof Sys2Proof.Machine Effects Requests ConfigGet Owners Events Changes Journey Placing

variable {s : State} {x y z : Part} {L : List Block} {g : UnitEntry → UnitEntry}

/-! ### What rewriting the own entry does -/

theorem modifyAt_eq_zipIdx {α : Type} (i : Nat) (f : α → α) (l : List α) :
    modifyAt i f l = l.zipIdx.map fun e => if e.2 = i then f e.1 else e.1 := by
  refine List.ext_getElem? fun j => ?_
  rw [Machine.getElem?_modifyAt, List.getElem?_map, List.getElem?_zipIdx]
  cases l[j]? with
  | none => simp
  | some a => by_cases h : i = j <;> simp [h, eq_comm]

theorem ownEntry_eq (x : Part) : ownEntry x (orientationOf x.form.qualEnd) = ownEntryNow x := by
  unfold ownEntryNow
  cases x.form.qualEnd with
  | none => rfl
  | some e => cases e <;> rfl

theorem ownAlone_eq (x : Part) : ownAlone x = { epoch := x.form.record.epoch, units := [ownEntryNow x], ownIndex := 1 } := by
  rw [ownAlone, ownEntry_eq]

theorem rewriteOwn_record (g : UnitEntry → UnitEntry) (x : Part) : (rewriteOwn g x).form.record =
    if x.form.role = .standalone then { epoch := x.form.record.epoch, units := [ownEntryNow x], ownIndex := 1 }
    else { x.form.record with
      units := x.form.record.units.zipIdx.map fun e => if e.2 = x.form.record.ownIndex - 1 then g e.1 else e.1 } := by
  unfold rewriteOwn
  by_cases h : x.form.role = .standalone
  · rw [if_pos (by simpa using h), if_pos h, recordAlone, onForm, ownAlone_eq]
  · rw [if_neg (by simpa using h), if_neg h, onForm, modifyAt_eq_zipIdx]

theorem routeInForce_of_source {v w : Route} (h : w = { v with prog := { v.prog with source := w.prog.source } }) :
    routeInForce w = routeInForce v := by
  rw [h]
  rfl

theorem qualEnd_of_keeps (h : Keeps L x y) (hb : Block.form ∉ L) : y.form.qualEnd = x.form.qualEnd :=
  (congrArg Formation.qualEnd (h.all _ hb).2 :)

/-- The own entry as it is now reads unit, route and qualifying end, but not the source of progress. -/
theorem ownEntryNow_congr (hunit : y.unit = x.unit)
    (hroute : y.route = { x.route with prog := { x.route.prog with source := y.route.prog.source } })
    (hqual : y.form.qualEnd = x.form.qualEnd) : ownEntryNow y = ownEntryNow x := by
  unfold ownEntryNow
  rw [hunit, routeInForce_of_source hroute, hqual]

/-- The record that rewriting gives is kept by what follows, and the own entry is as it was when it was written. -/
theorem ownEntryRewritten_of {s t : Part} (hrecord : x.form.record = s.form.record) (hrole : x.form.role = s.form.role)
    (ht : t.form.record = (rewriteOwn g x).form.record) (hnow : ownEntryNow t = ownEntryNow x) : OwnEntryRewritten g s t := by
  unfold OwnEntryRewritten
  rw [ht, rewriteOwn_record, hnow, hrecord, hrole]

theorem rewriteOwn_unit (g : UnitEntry → UnitEntry) (x : Part) : (rewriteOwn g x).unit = x.unit :=
  unit_of_keeps rewriteOwn_keeps (by decide)

theorem rewriteOwn_route (g : UnitEntry → UnitEntry) (x : Part) : (rewriteOwn g x).route = x.route :=
  route_of_keeps rewriteOwn_keeps (by decide) (by decide)

theorem rewriteOwn_qualEnd (g : UnitEntry → UnitEntry) (x : Part) : (rewriteOwn g x).form.qualEnd = x.form.qualEnd := by
  unfold rewriteOwn
  split <;> rfl

/-- What follows the rewriting of the own entry leaves record and own entry alone. -/
theorem rewritten_after (h : Keeps [.source, .tallies, .seat, .panel, .disp] (rewriteOwn g x) y) :
    y.form.record = (rewriteOwn g x).form.record ∧ ownEntryNow y = ownEntryNow x := by
  refine ⟨record_of_keeps h (by decide), ownEntryNow_congr ?_ ?_ ?_⟩
  · rw [unit_of_keeps h (by decide), rewriteOwn_unit]
  · have hroute : Block.route.same (rewriteOwn g x) y := h.all .route (by decide)
    rw [← rewriteOwn_route g x]
    exact hroute
  · rw [qualEnd_of_keeps h (by decide), rewriteOwn_qualEnd]

theorem ownEntryChanged_record (g : UnitEntry → UnitEntry) (x : Part) :
    (ownEntryChanged g x).form.record = (rewriteOwn g x).form.record ∧ ownEntryNow (ownEntryChanged g x) = ownEntryNow x :=
  rewritten_after (Keeps.step reportTallies_keeps rfl (Keeps.step formationChanged_keeps rfl .refl))

/-! ### A changed route id in force -/

theorem routeIdChanged_same {before : Nat} {ev : Bool} (h : routeInForce x.route = before) : routeIdChanged before ev x = x := by
  rw [routeIdChanged, if_pos (by simpa using h)]

theorem routeIdChanged_record {before : Nat} (ev : Bool) (h : routeInForce x.route ≠ before) :
    (routeIdChanged before ev x).form.record = (rewriteOwn (withRoute before x) x).form.record ∧
      ownEntryNow (routeIdChanged before ev x) = ownEntryNow x := by
  rw [routeIdChanged, if_neg (by simpa using h)]
  refine rewritten_after (Keeps.step reportTallies_keeps rfl ?_)
  split
  · exact formationChanged_keeps
  · exact Keeps.step formationHandOff_keeps rfl .refl

/-- With the source left to the next beacon, a changed route id in force leaves Route and Progress alone. -/
theorem routeIdChanged_route (before : Nat) (x : Part) : (routeIdChanged before false x).route = x.route := by
  unfold routeIdChanged
  split
  · rfl
  · simp only [Bool.false_eq_true, if_false]
    have hkeeps : Keeps [.tallies, .seat, .panel, .disp] (rewriteOwn (withRoute before x) x)
        (reportTallies (formationHandOff (ownOrientation x) (rewriteOwn (withRoute before x) x))) :=
      Keeps.step reportTallies_keeps rfl (Keeps.step formationHandOff_keeps rfl .refl)
    exact (route_of_keeps hkeeps (by decide) (by decide)).trans (rewriteOwn_route ..)

/-- Unit, route and formation of `t` are those of `y`. -/
structure SameTrain (t y : Part) : Prop where
  unit : t.unit = y.unit
  route : t.route = y.route
  form : t.form = y.form

theorem routeIdWritten_of {s t : Part} {before : Nat} {ev : Bool} (hbefore : routeInForce s.route = before)
    (hrecord : x.form.record = s.form.record) (hrole : x.form.role = s.form.role)
    (ht : SameTrain t (routeIdChanged before ev x)) : RouteIdWritten s t := by
  have hroute : routeInForce (routeIdChanged before ev x).route = routeInForce x.route :=
    routeInForce_of_source (routeIdChanged_keeps.all .route (by decide))
  unfold RouteIdWritten
  rw [ht.route, hroute, hbefore]
  split
  · next heq => rw [ht.form, routeIdChanged_same heq.symm, hrecord]
  · next hne =>
    obtain ⟨h1, h2⟩ := routeIdChanged_record ev (Ne.symm hne)
    have hwith : (fun u : UnitEntry => { u with route := routeInForce x.route }) = withRoute before x := by
      funext u
      rw [withRoute, if_neg (by simpa using Ne.symm hne)]
    rw [hwith]
    refine ownEntryRewritten_of hrecord hrole (by rw [ht.form]; exact h1) ?_
    rw [← h2]
    unfold ownEntryNow
    rw [ht.unit, ht.route, ht.form]

theorem sameTrain_finish (tag : Byte) (r : Result) (d : List Byte) (y : Part) : SameTrain (finish (answer tag r d y)) y :=
  ⟨by simp, by simp, by simp⟩

/-! ### ROUTE-OPEN and ROUTE-CLEAR -/

/-- The table replaced by an empty one and handed on, before a changed route id in force is written. -/
def emptied (g : PState) (id : Nat) (train : Option Nat) (x : Part) : Part :=
  handOff [.opened] { exterior := true } (onRoute (emptyRoute g id train)
    (onText (fun t => releaseAll (routeHandles x.route) (retainAll train.toList t)) x))

theorem replaceRoute_eq (g : PState) (id : Nat) (train : Option Nat) (x : Part) :
    replaceRoute g id train x = routeIdChanged (routeInForce x.route) true (emptied g id train x) := rfl

theorem emptied_keeps (g : PState) (id : Nat) (train : Option Nat) (x : Part) :
    Keeps [.text, .route, .est, .tallies, .legs, .views, .seat, .panel, .disp] x (emptied g id train x) :=
  Keeps.step (handOff_after ..) rfl (Keeps.step (M := [.legs]) freeWhere_keeps rfl
    (Keeps.step (M := [.route]) (routeBut_keeps rfl) rfl (Keeps.step onText_keeps rfl .refl)))

theorem emptied_route (g : PState) (id : Nat) (train : Option Nat) (x : Part) :
    (emptied g id train x).route = emptyRoute g id train x.route := handOff_route ..

theorem emptied_legs (g : PState) (id : Nat) (train : Option Nat) (x : Part) : (emptied g id train x).res.legs = [] := by
  rw [emptied, (handOff_legs ..).1]
  simp [handleNotes, handleNote, freeWhere]

theorem replaceRoute_leaves (g : PState) (id : Nat) (train : Option Nat) (x : Part) :
    Leaves [.text, .route, .source, .est, .form, .tallies, .legs, .views, .seat, .panel, .disp] x (replaceRoute g id train x) :=
  leaves_of_keeps (Keeps.step routeIdChanged_keeps rfl (Keeps.step (emptied_keeps g id train x) rfl .refl)) (by decide)

theorem replaceRoute_route (g : PState) (id : Nat) (train : Option Nat) (x : Part) : (replaceRoute g id train x).route =
    { x.route with id := id, train := train, stops := [], ownSeq := []
                   prog := { state := g, p := none, n := none, halt := none, d := none, arr := none, dep := none, stale := false
                             source := (replaceRoute g id train x).route.prog.source } } := by
  have hroute : Block.route.same (emptied g id train x) (replaceRoute g id train x) := routeIdChanged_keeps.all .route (by decide)
  rw [Block.same, emptied_route] at hroute
  exact hroute

theorem replaceRoute_legs (g : PState) (id : Nat) (train : Option Nat) (x : Part) : (replaceRoute g id train x).res.legs = [] := by
  rw [replaceRoute_eq, (legs_of_keeps routeIdChanged_keeps (by decide)).1, emptied_legs]

theorem replaceRoute_written {s t : Part} (g : PState) (id : Nat) (train : Option Nat) (hroute : x.route = s.route)
    (hform : x.form = s.form) (ht : SameTrain t (replaceRoute g id train x)) : RouteIdWritten s t := by
  have hkeeps := emptied_keeps g id train x
  exact routeIdWritten_of (x := emptied g id train x) (by rw [hroute]) ((record_of_keeps hkeeps (by decide)).trans (by rw [hform]))
    ((role_of_keeps hkeeps (by decide)).trans (by rw [hform])) ht

/-- A taken request, by what its owner leaves of the train. -/
theorem step_of_taken_train {α : Type} {s : State} {c : Instr} {kind tag : Byte} {b : α} {owner : α → Part → Part × Reply}
    {y : Part} (h : Accepts s tag) (hc : effect c (quiet s.part) = hostRequest kind tag (some b) owner (quiet s.part))
    (hkind : requestKind kind = true) (ho : owner b (handed kind tag s.part) = taken y)
    (hy : Leaves L (handed kind tag s.part) y) :
    ∃ t, exec c s = .next t ∧ Answered s t kind tag .ok [] ∧ SameTrain t.part y ∧ t.part.res = y.res ∧
      Only (.host :: L) s t := by
  obtain ⟨t, hexec, rfl, hanswered, honly⟩ := step_of_taken h hc hkind ho hy
  exact ⟨_, hexec, hanswered, sameTrain_finish .., by simp, honly⟩

/-- A ROUTE-OPEN or ROUTE-CLEAR that is taken: the answer, and the empty table. -/
theorem step_of_replaceRoute {α : Type} {s : State} {c : Instr} {kind tag : Byte} {b : α} {owner : α → Part → Part × Reply}
    {g : PState} {id : Nat} {train : Option Nat} (h : Accepts s tag)
    (hc : effect c (quiet s.part) = hostRequest kind tag (some b) owner (quiet s.part)) (hkind : requestKind kind = true)
    (ho : owner b (handed kind tag s.part) = taken (replaceRoute g id train (handed kind tag s.part))) :
    ∃ t, exec c s = .next t ∧ Answered s t kind tag .ok [] ∧
      t.part.route = { s.part.route with
        id := id, train := train, stops := [], ownSeq := []
        prog := { state := g, p := none, n := none, halt := none, d := none, arr := none, dep := none, stale := false
                  source := t.part.route.prog.source } } ∧
      t.part.res.legs = [] ∧ RouteIdWritten s.part t.part ∧
      Only [.host, .text, .route, .source, .est, .form, .tallies, .legs, .views, .seat, .panel, .disp] s t := by
  obtain ⟨t, hexec, hanswered, hsame, hres, honly⟩ := step_of_taken_train h hc hkind ho (replaceRoute_leaves ..)
  refine ⟨t, hexec, hanswered, ?_, ?_, replaceRoute_written g id train (handed_route ..) (handed_form ..) hsame, honly⟩
  · rw [hsame.route]
    exact replaceRoute_route g id train (handed kind tag s.part)
  · rw [hres, replaceRoute_legs]

theorem openState_good {v : Route} (h : v.prog.state = .idle ∨ v.prog.state = .terminated) :
    (v.prog.state != .idle && v.prog.state != .terminated) = false := by
  obtain h | h := h <;> simp [h]

theorem openFields_good {id h : Nat} (hid : id ≠ 0) (hhost : h ≤ 191) : (id == 0 || decide (192 ≤ h)) = false := by
  simp [hid]
  omega

/-- Settles O10: the checks of ROUTE-OPEN by their order, and the empty table that either request leaves. -/
theorem routeOpenAndClearEmptyTheTable : Obligations.RouteOpenAndClearEmptyTheTable := by
  refine ⟨fun s tag body id h hacc hbody hfree hid hhost hknown => ?opened, fun s tag body id h hacc hbody =>
    ⟨fun hf => ?state, fun hf hbad => ?field, fun hf hid hhost hne hunknown => ?unknown⟩, fun s tag hacc => ?clear⟩
  case state =>
    exact step_of_refused (owner := ownRouteOpen) (b := (id, h)) hacc (by rw [← hbody]; rfl) rfl
      (checked_here (by simpa using hf))
  case field =>
    exact step_of_refused (owner := ownRouteOpen) (b := (id, h)) hacc (by rw [← hbody]; rfl) rfl
      ((checked_next (openState_good hf)).trans (checked_here (by simpa using hbad)))
  case unknown =>
    exact step_of_refused (owner := ownRouteOpen) (b := (id, h)) hacc (by rw [← hbody]; rfl) rfl
      ((checked_next (openState_good hf)).trans ((checked_next (openFields_good hid hhost)).trans
        (checked_here (by simp [hne, hunknown]))))
  case opened =>
    exact step_of_replaceRoute (owner := ownRouteOpen) (b := (id, h)) hacc (by rw [← hbody]; rfl) rfl
      ((checked_next (openState_good hfree)).trans ((checked_next (openFields_good hid hhost)).trans
        ((checked_next (by simpa [or_iff_not_imp_left] using hknown)).trans checked_nil)))
  case clear =>
    have hc : effect (.routeClear tag []) (quiet s.part) = hostRequest 0x0B#8 tag (some ()) ownRouteClear (quiet s.part) := rfl
    by_cases hlegs : s.part.res.legs = []
    · simp only [if_pos hlegs]
      have hown : ownRouteClear () (handed 0x0B#8 tag s.part) = taken (replaceRoute .idle 0 none (handed 0x0B#8 tag s.part)) :=
        (checked_next (by simp [hlegs])).trans checked_nil
      obtain ⟨t, hexec, hanswered, hroute, -, hwritten, honly⟩ := step_of_replaceRoute hacc hc rfl hown
      exact ⟨t, hexec, hanswered, hroute, hwritten, honly⟩
    · simp only [if_neg hlegs]
      exact step_of_refused hacc hc rfl (checked_here (by simpa using hlegs))

end Sys2Proof.Proofs.OwnEntries
end

section
/-! The requests that start the journey and that change the portion tag: ROUTE-CLOSE and PORTION-SET. -/
namespace Sys2Proof.Proofs.OwnEntries
open Sys2Proof Sys2Proof.Machine Effects Requests ConfigGet Owners Events Changes Journey Placing

variable {s : State} {x y z : Part} {L : List Block} {g : UnitEntry → UnitEntry}

/-! ### Calling sequences -/

/-- Collected from an index on, the indices of the records rise. -/
theorem indicesFrom_rise (f : StopRec → Bool) (stops : List StopRec) (i : Nat) :
    let q := (mapFrom (fun j r => if f r then [j] else []) i stops).flatten
    q.Pairwise (· < ·) ∧ ∀ j ∈ q, i ≤ j := by
  induction stops generalizing i with
  | nil => simp [mapFrom]
  | cons r stops ih =>
    obtain ⟨hrise, hge⟩ := ih (i + 1)
    simp only [mapFrom, List.flatten_cons]
    split
    · exact ⟨List.pairwise_cons.mpr ⟨fun j hj => hge j hj, hrise⟩,
        List.forall_mem_cons.mpr ⟨Nat.le_refl i, fun j hj => Nat.le_of_succ_le (hge j hj)⟩⟩
    · exact ⟨hrise, fun j hj => Nat.le_of_succ_le (hge j hj)⟩

theorem callSeq_rises (stops : List StopRec) (k : Nat) : (callSeq stops k).Pairwise (· < ·) :=
  (indicesFrom_rise (fun r => r.mask.getLsbD k && !r.cancelled) stops 0).1

/-! ### ROUTE-CLOSE -/

theorem callSeq_long_of_closeFault {stops : List StopRec} {own : Nat} (h : closeFault stops own = none) :
    2 ≤ (callSeq stops own).length := by
  have hshape : shapeFault stops own = none := by
    unfold closeFault at h
    split at h
    · exact absurd h nofun
    · assumption
  have hown : badOwn stops own = none := by
    simp only [shapeFault, Option.orElse_eq_or, Option.or_eq_none_iff] at hshape
    exact hshape.2.2.2.2.2
  unfold badOwn at hown
  split at hown
  · exact absurd hown nofun
  · omega

/-- At the start of a rising sequence the train stands at its first member with the second ahead. -/
theorem placedAtStart_eq {q : List Nat} (hrise : q.Pairwise (· < ·)) :
    placedAtStart q = { state := .standing, p := q[0]?, n := q[1]? } := by
  match q with
  | [] => rfl
  | [a] => simp [placedAtStart, firstAfter]
  | a :: b :: q =>
    have hab : a < b := (List.pairwise_cons.mp hrise).1 b List.mem_cons_self
    simp [placedAtStart, firstAfter, hab]

/-- The part with its calling sequence in force and the train at its first stop, handed on. -/
def started (x : Part) : Part :=
  let c := callSeq x.route.stops x.unit.portionTag
  handOff [.rederived, .placement (c.head?.getD 0)] { exterior := true }
    (onRoute (fun r => { r with ownSeq := c, prog := placedAtStart c }) x)

theorem takeClose_eq (x : Part) : takeClose x = routeIdChanged 0 false (started x) := rfl

theorem started_leaves (x : Part) :
    Leaves [.route, .source, .est, .tallies, .legs, .views, .seat, .panel, .disp, .events, .host] x (started x) :=
  .step (handOff_leaves ..) rfl (.step (M := [.route, .source]) (leaves_of_keeps onRoute_keeps (by decide)) rfl (.refl _))

theorem started_route (x : Part) : (started x).route =
    { x.route with ownSeq := callSeq x.route.stops x.unit.portionTag
                   prog := placedAtStart (callSeq x.route.stops x.unit.portionTag) } := handOff_route ..

theorem takeClose_leaves (x : Part) :
    Leaves [.route, .source, .est, .form, .tallies, .legs, .views, .seat, .panel, .disp, .events, .host] x (takeClose x) :=
  .step (leaves_of_keeps routeIdChanged_keeps (by decide)) rfl (.step (started_leaves x) rfl (.refl _))

theorem takeClose_route (x : Part) : (takeClose x).route =
    { x.route with ownSeq := callSeq x.route.stops x.unit.portionTag
                   prog := placedAtStart (callSeq x.route.stops x.unit.portionTag) } := by
  rw [takeClose_eq, routeIdChanged_route, started_route]

theorem openedPhase_ne_ahead (u : UnitDesc) (l : Leg) : openedPhase u l ≠ .ahead := by
  unfold openedPhase
  split <;> nofun

/-- After the windows at a stop have opened, a booked leg that is still AHEAD begins beyond it. -/
theorem openWindows_ahead {k : Nat} {l : Leg} (h : l ∈ (openWindows k x).res.legs) (hb : l.state = .booked)
    (ha : l.phase = .ahead) : k < l.frm := by
  obtain ⟨l', -, rfl⟩ := List.mem_map.mp h
  split at ha
  · exact (openedPhase_ne_ahead _ _ ha).elim
  · next hcond =>
    rw [if_neg hcond] at hb ⊢
    simpa [hb, ha] using hcond

theorem takeClose_legs {l : Leg} (h : l ∈ (takeClose x).res.legs) (hb : l.state = .booked) (ha : l.phase = .ahead) :
    ∀ p ∈ (takeClose x).route.prog.p, p < l.frm := by
  rw [takeClose_eq, (legs_of_keeps routeIdChanged_keeps (by decide)).1, started, (handOff_legs ..).1] at h
  have hopen := openWindows_ahead (x := freeFinished (freeFinished (orphanReevaluation _))) h hb ha
  intro p hp
  rw [takeClose_route] at hp
  have hhead : (callSeq x.route.stops x.unit.portionTag).head? = some p := hp
  rw [hhead] at hopen
  exact hopen

theorem takeClose_written {s t : Part} (hloading : s.route.prog.state = .loading) (hform : x.form = s.form)
    (ht : SameTrain t (takeClose x)) : RouteIdWritten s t := by
  have hkeeps := (started_leaves x).keeps
  exact routeIdWritten_of (x := started x) (before := 0) (ev := false) (by simp [routeInForce, hloading])
    ((record_of_keeps hkeeps (by decide)).trans (by rw [hform]))
    ((role_of_keeps hkeeps (by decide)).trans (by rw [hform])) ht

/-- Settles O12: the checks give their own answer, and a route without a fault starts at its first own calling stop. -/
theorem routeCloseStartsTheJourney : Obligations.RouteCloseStartsTheJourney := by
  intro s tag h hloading
  have hc : effect (.routeClose tag []) (quiet s.part) = hostRequest 0x0A#8 tag (some ()) ownRouteClose (quiet s.part) := rfl
  have hopen : ((handed 0x0A#8 tag s.part).route.prog.state != .loading) = false := by simp [hloading]
  cases hfault : closeFault s.part.route.stops s.part.unit.portionTag with
  | some fault =>
    obtain ⟨r, i⟩ := fault
    have hown : ownRouteClose () (handed 0x0A#8 tag s.part) = (handed 0x0A#8 tag s.part, .now r [byte i]) := by
      simp [ownRouteClose, hloading, hfault, e1]
    obtain ⟨t, hexec, honly, hanswered⟩ := step_of_unchanged h hc rfl hown
    exact ⟨t, hexec, hanswered, honly⟩
  | none =>
    have hown : ownRouteClose () (handed 0x0A#8 tag s.part) = taken (takeClose (handed 0x0A#8 tag s.part)) := by
      simp [ownRouteClose, hloading, hfault]
    obtain ⟨t, hexec, hanswered, hsame, hres, honly⟩ := step_of_taken_train h hc rfl hown (takeClose_leaves ..)
    have hroute := takeClose_route (handed 0x0A#8 tag s.part)
    rw [placedAtStart_eq (callSeq_rises ..)] at hroute
    refine ⟨t, hexec, callSeq_long_of_closeFault hfault, hanswered, ?_, fun l hl hb ha => ?_,
      takeClose_written hloading (handed_form ..) hsame, only_mono honly rfl⟩
    · rw [hsame.route, hroute]
      rfl
    · rw [hsame.route]
      rw [hres] at hl
      exact takeClose_legs hl hb ha

/-! ### PORTION-SET -/

/-- Without a route the new tag is told to seats, tallies, estimates and panels. -/
theorem toldAnew_keeps (x : Part) : Keeps [.est, .tallies, .views, .seat, .panel, .disp] x
    (composer { exterior := true } (estRecompute (tallyUpdate (recomputeSeats x)))) :=
  Keeps.step composer_keeps rfl (Keeps.step estRecompute_keeps rfl (Keeps.step tallyUpdate_keeps rfl
    (Keeps.step recomputeSeats_keeps rfl .refl)))

theorem restatePortion_leaves (x : Part) :
    Leaves [.route, .est, .tallies, .legs, .views, .seat, .panel, .disp, .events, .host] x (restatePortion x) := by
  unfold restatePortion
  split
  · refine .step (handOff_leaves ..) rfl (.step (M := [.route]) (leaves_of_keeps (routeBut_keeps ?_) (by decide)) rfl (.refl _))
    cases placeAgain (callSeq x.route.stops x.unit.portionTag) x.route.prog <;> rfl
  · exact .step (leaves_of_keeps (toldAnew_keeps x) (by decide)) rfl (.refl _)

theorem restatePortion_route (x : Part) : (restatePortion x).route =
    if hasRoute x.route.prog.state then
      { x.route with
        ownSeq := if (placeAgain (callSeq x.route.stops x.unit.portionTag) x.route.prog).isSome then
                    callSeq x.route.stops x.unit.portionTag else []
        prog := restated x.route.prog (placeAgain (callSeq x.route.stops x.unit.portionTag) x.route.prog) }
    else x.route := by
  unfold restatePortion
  split
  · exact handOff_route ..
  · exact route_of_keeps (toldAnew_keeps x) (by decide) (by decide)

/-- The part with the tag set and the progress record placed anew, before the own entry is rewritten. -/
def retagged (k : Nat) (x : Part) : Part := restatePortion { x with unit := { x.unit with portionTag := k } }

theorem retagged_leaves (k : Nat) (x : Part) :
    Leaves [.unit, .route, .est, .tallies, .legs, .views, .seat, .panel, .disp, .events, .host] x (retagged k x) :=
  .step (restatePortion_leaves _) rfl (.step (M := [.unit]) (leaves_of_keeps unit_keeps (by decide)) rfl (.refl _))

theorem retagged_unit (k : Nat) (x : Part) : (retagged k x).unit = { x.unit with portionTag := k } :=
  unit_of_keeps (restatePortion_leaves _).keeps (by decide)

/-- Route and progress with the record placed anew on the calling sequence of a tag. -/
def placedRoute (k : Nat) (r : Route) : Route :=
  if hasRoute r.prog.state then
    { r with ownSeq := if (placeAgain (callSeq r.stops k) r.prog).isSome then callSeq r.stops k else []
             prog := restated r.prog (placeAgain (callSeq r.stops k) r.prog) }
  else r

theorem retagged_route (k : Nat) (x : Part) : (retagged k x).route = placedRoute k x.route := restatePortion_route _

theorem hasRoute_eq_false {g : PState} (h : g = .idle ∨ g = .loading) : hasRoute g = false := by
  obtain rfl | rfl := h <;> rfl

theorem placedRoute_without {k : Nat} {r : Route} (h : r.prog.state = .idle ∨ r.prog.state = .loading) : placedRoute k r = r := by
  rw [placedRoute, hasRoute_eq_false h, if_neg Bool.false_ne_true]

theorem running_iff {g : PState} : running g = true ↔ g = .departed ∨ g = .approaching := by
  cases g <;> decide

/-- The restatement, with its conditions read as propositions. -/
theorem restated_some (g : Progress) (y : Placed) : restated g (some y) =
    let kept := (y.state = .departed ∨ y.state = .approaching) ∧ y.n = g.n
    { state := if kept then g.state else y.state, p := some y.p, n := y.n, halt := y.halt
      d := if kept then g.d else none
      arr := if g.p = some y.p then g.arr else none, dep := if g.p = some y.p then g.dep else none
      stale := g.stale, source := g.source } := by
  simp only [restated, Bool.and_eq_true, running_iff, beq_iff_eq]

theorem takePortion_eq (k : Nat) (x : Part) : takePortion k x =
    ownEntryChanged (fun u => withRoute (routeInForce x.route) (retagged k x) (withTag (retagged k x) u)) (retagged k x) := rfl

theorem takePortion_leaves (k : Nat) (x : Part) :
    Leaves [.unit, .route, .source, .est, .form, .tallies, .legs, .views, .seat, .panel, .disp, .events, .host] x (takePortion k x) :=
  .step (leaves_of_keeps ownEntryChanged_keeps (by decide)) rfl (.step (retagged_leaves k x) rfl (.refl _))

theorem takePortion_unit (k : Nat) (x : Part) : (takePortion k x).unit = { x.unit with portionTag := k } := by
  rw [takePortion_eq, unit_of_keeps ownEntryChanged_keeps (by decide), retagged_unit]

theorem takePortion_keeps_retagged (k : Nat) (x : Part) :
    Keeps [.source, .form, .tallies, .seat, .panel, .disp] (retagged k x) (takePortion k x) := by
  rw [takePortion_eq]
  exact ownEntryChanged_keeps

theorem route_but_source_of_keeps (h : Keeps L x y) (hb : Block.route ∉ L) :
    y.route = { x.route with prog := { x.route.prog with source := y.route.prog.source } } := h.all .route hb

/-- Route and progress but for the source, which the changed entry has evaluated anew. -/
theorem takePortion_route (k : Nat) (x : Part) : (takePortion k x).route = { (retagged k x).route with
    prog := { (retagged k x).route.prog with source := (takePortion k x).route.prog.source } } :=
  route_but_source_of_keeps (takePortion_keeps_retagged k x) (by decide)

theorem withRoute_withTag (k : Nat) (x : Part) (u : UnitEntry) :
    withRoute (routeInForce x.route) (retagged k x) (withTag (retagged k x) u) =
      { u with portion := k
               route := if routeInForce x.route = routeInForce (takePortion k x).route then u.route
                        else routeInForce (takePortion k x).route } := by
  rw [routeInForce_of_source (takePortion_route k x), withTag, retagged_unit]
  unfold withRoute
  by_cases heq : routeInForce (retagged k x).route = routeInForce x.route
  · rw [if_pos (by simpa using heq), if_pos heq.symm]
  · rw [if_neg (by simpa using heq), if_neg (Ne.symm heq)]

theorem takePortion_rewritten {s t : Part} {k : Nat} (hroute : x.route = s.route) (hform : x.form = s.form)
    (ht : SameTrain t (takePortion k x)) : OwnEntryRewritten (fun u =>
      { u with portion := k
               route := if routeInForce s.route = routeInForce t.route then u.route else routeInForce t.route }) s t := by
  have hkeeps := (retagged_leaves k x).keeps
  have hg : (fun u : UnitEntry => { u with
      portion := k
      route := if routeInForce s.route = routeInForce t.route then u.route else routeInForce t.route }) =
      fun u => withRoute (routeInForce x.route) (retagged k x) (withTag (retagged k x) u) := by
    funext u
    rw [withRoute_withTag, hroute, ht.route]
  rw [hg]
  obtain ⟨hrecord, hnow⟩ := ownEntryChanged_record
    (fun u => withRoute (routeInForce x.route) (retagged k x) (withTag (retagged k x) u)) (retagged k x)
  refine ownEntryRewritten_of (x := retagged k x) ((record_of_keeps hkeeps (by decide)).trans (by rw [hform]))
    ((role_of_keeps hkeeps (by decide)).trans (by rw [hform])) ?_ ?_
  · rw [ht.form, takePortion_eq, hrecord]
  · rw [← hnow, ← takePortion_eq]
    unfold ownEntryNow
    rw [ht.unit, ht.route, ht.form]

theorem placedRoute_stands (k : Nat) (r : Route) : (placedRoute k r).stops = r.stops ∧ (placedRoute k r).clock = r.clock := by
  unfold placedRoute
  split <;> exact ⟨rfl, rfl⟩

/-- What the tag leaves of a route, read off the placement. -/
theorem placedRoute_placed {k : Nat} {r : Route} (h : hasRoute r.prog.state = true) :
    match placeAgain (callSeq r.stops k) r.prog with
    | some y => (placedRoute k r).ownSeq = callSeq r.stops k ∧ (placedRoute k r).prog = restated r.prog (some y)
    | none => (placedRoute k r).ownSeq = [] ∧ (placedRoute k r).prog = restated r.prog none := by
  cases hy : placeAgain (callSeq r.stops k) r.prog <;> simp [placedRoute, h, hy]

/-- Settles O8: the tag is refused, in force already, or taken with the record placed anew and the own entry rewritten. -/
theorem portionSetTakesTheTag : Obligations.PortionSetTakesTheTag := by
  intro s tag p h
  have hc : effect (.portionSet tag [p]) (quiet s.part) =
    hostRequest 0x05#8 tag (some p.toNat) ownPortionSet (quiet s.part) := rfl
  by_cases hbig : 2 < p.toNat
  · have hown : ownPortionSet p.toNat (handed 0x05#8 tag s.part) = refused .badField (handed 0x05#8 tag s.part) := by
      rw [ownPortionSet, if_pos hbig]
    obtain ⟨t, hexec, hanswered⟩ := step_of_refused h hc rfl hown
    exact ⟨t, hexec, by rwa [if_pos hbig]⟩
  by_cases hsame : p.toNat = s.part.unit.portionTag
  · have hown : ownPortionSet p.toNat (handed 0x05#8 tag s.part) = taken (handed 0x05#8 tag s.part) := by
      rw [ownPortionSet, if_neg hbig, if_pos (by rw [handed_unit]; exact hsame)]
    obtain ⟨t, hexec, honly, hanswered⟩ := step_of_unchanged h hc rfl hown
    exact ⟨t, hexec, by rw [if_neg hbig, if_pos hsame]; exact ⟨hanswered, honly⟩⟩
  have hown : ownPortionSet p.toNat (handed 0x05#8 tag s.part) = taken (takePortion p.toNat (handed 0x05#8 tag s.part)) := by
    rw [ownPortionSet, if_neg hbig, if_neg (by rw [handed_unit]; exact hsame)]
  obtain ⟨t, hexec, hanswered, htrain, -, honly⟩ := step_of_taken_train h hc rfl hown (takePortion_leaves ..)
  have hroute := takePortion_route p.toNat (handed 0x05#8 tag s.part)
  rw [← htrain.route, retagged_route] at hroute
  refine ⟨t, hexec, ?_⟩
  rw [if_neg hbig, if_neg hsame]
  refine ⟨hanswered, ?_, only_mono honly rfl, takePortion_rewritten (handed_route ..) (handed_form ..) htrain, ?_⟩
  · rw [htrain.unit, takePortion_unit, handed_unit]
  · obtain ⟨hstops, hclock⟩ := placedRoute_stands p.toNat s.part.route
    refine ⟨by rw [hroute]; exact hstops, by rw [hroute]; exact hclock, fun hf => ?_, fun hr => ?_⟩
    · have hstands : placedRoute p.toNat (handed 0x05#8 tag s.part).route = s.part.route := placedRoute_without hf
      rw [hstands] at hroute
      exact ⟨congrArg Route.prog hroute, by rw [hroute]⟩
    · have hplaced := placedRoute_placed (k := p.toNat) hr
      have hprog : t.part.route.prog = { (placedRoute p.toNat s.part.route).prog with source := t.part.route.prog.source } :=
        congrArg Route.prog hroute
      have hseq : t.part.route.ownSeq = (placedRoute p.toNat s.part.route).ownSeq := by rw [hroute]; rfl
      cases hy : placeAgain (callSeq s.part.route.stops p.toNat) s.part.route.prog with
      | some y =>
        simp only [hy] at hplaced ⊢
        refine ⟨hseq.trans hplaced.1, ?_⟩
        rw [hprog, hplaced.2, restated_some]
      | none =>
        simp only [hy] at hplaced ⊢
        refine ⟨hseq.trans hplaced.1, ?_⟩
        rw [hprog, hplaced.2, restated]

end Sys2Proof.Proofs.OwnEntries
end

section
/-! What rendering leaves of the display line: content versions and renderings apart, no entry and no operation changes. -/
namespace Sys2Proof.Proofs.Rendering
open Sys2Proof Sys2Proof.Machine Effects Requests Owners Events DisplayLine

variable {s x y z : Part} {d d' d'' : Display} {L : List Block} {K M : EpAddr → Prop}

/-- An endpoint entry but for its content version and its rendering. -/
def lineEntry (e : EpEntry) : EpEntry := { e with content := 0, rendered := none }

/-- The Driver but for its table and its refresh queue. -/
def lineRest (d : Display) : Display := { d with table := [], queue := [] }

/-- From `d` to `d'` only content versions, renderings and the refresh queue changed, and no entry of an address in `K`. -/
structure Redrawn (K : EpAddr → Prop) (d d' : Display) : Prop where
  table : d'.table.map lineEntry = d.table.map lineEntry
  spared : ∀ a, K a → epAt d' a = epAt d a
  rest : lineRest d' = lineRest d

theorem Redrawn.refl (d : Display) : Redrawn K d d := ⟨rfl, fun _ _ => rfl, rfl⟩

theorem Redrawn.trans (h : Redrawn K d d') (h' : Redrawn K d' d'') : Redrawn K d d'' :=
  ⟨h'.table.trans h.table, fun a ha => (h'.spared a ha).trans (h.spared a ha), h'.rest.trans h.rest⟩

theorem Redrawn.weaken (h : Redrawn K d d') (hM : ∀ a, M a → K a) : Redrawn M d d' :=
  ⟨h.table, fun a ha => h.spared a (hM a ha), h.rest⟩

theorem Redrawn.of_eq (h : d' = d) : Redrawn K d d' := h ▸ .refl _

theorem epAt_of_enqueue (a b : EpAddr) (d : Display) : epAt (enqueue a d) b = epAt d b := epAt_enqueue ..

/-- An entry changed in content and rendering alone. -/
theorem Redrawn.update {a : EpAddr} (f : EpEntry → EpEntry) (haddr : ∀ e, (f e).addr = e.addr)
    (hf : ∀ e, lineEntry (f e) = lineEntry e) (ha : ¬ K a) : Redrawn K d (epUpdate a f d) := by
  refine ⟨?_, fun b hb => epAt_epUpdate_ne (by rintro rfl; exact ha hb) f haddr d, rfl⟩
  simp only [epUpdate, List.map_map]
  refine List.map_congr_left fun e _ => ?_
  simp only [Function.comp_apply]
  split
  · exact hf e
  · rfl

theorem Redrawn.enqueued (a : EpAddr) (d : Display) : Redrawn K d (enqueue a d) := by
  unfold enqueue
  split
  · exact .refl d
  · exact ⟨rfl, fun _ _ => rfl, rfl⟩

theorem Redrawn.raised {a : EpAddr} (ha : ¬ K a) (d : Display) : Redrawn K d (raiseContent a d) := by
  unfold raiseContent
  split
  · exact .refl d
  · have hup : Redrawn K d (epUpdate a (fun x => { x with content := (x.content + 1) % 256 }) d) :=
      .update _ (fun _ => rfl) (fun _ => rfl) ha
    dsimp only
    split
    · exact hup.trans (.enqueued a _)
    · exact hup

theorem Redrawn.raisedAll {l : List EpAddr} (hl : ∀ a ∈ l, ¬ K a) (d : Display) : Redrawn K d (raiseAll l d) := by
  induction l generalizing d with
  | nil => exact .refl d
  | cons a l ih =>
    obtain ⟨ha, hl⟩ := List.forall_mem_cons.mp hl
    exact (Redrawn.raised ha d).trans (ih hl _)

theorem Redrawn.renderedAll {l : List EpAddr} (hl : ∀ a ∈ l, ¬ K a) (s : Part) (d : Display) :
    Redrawn K d (l.foldl (renderPanel s) d) := by
  induction l generalizing d with
  | nil => exact .refl d
  | cons a l ih =>
    obtain ⟨ha, hl⟩ := List.forall_mem_cons.mp hl
    have hone : Redrawn K d (renderPanel s d a) :=
      (Redrawn.update (fun e => { e with rendered := some (panelContent s a) }) (fun _ => rfl) (fun _ => rfl) ha).trans
        (.raised ha _)
    exact hone.trans (ih hl _)

/-- What the spared part of the line says of one address. -/
theorem Redrawn.entry (h : Redrawn K d d') (a : EpAddr) : (epAt d' a).map lineEntry = (epAt d a).map lineEntry := by
  have hfind (d : Display) : (epAt d a).map lineEntry = (d.table.map lineEntry).find? fun e => e.addr == a := by
    rw [epAt, List.find?_map]
    rfl
  rw [hfind, hfind, h.table]

/-! ### Panels: no seat unit changes -/

/-- A seat unit's address. -/
def IsSeat (a : EpAddr) : Prop := a.kind = .seat

/-- From `x` to `y` panels were rendered and nothing else changed on the display line. -/
def PanelsDrawn (x y : Part) : Prop := Redrawn IsSeat x.disp y.disp

theorem PanelsDrawn.refl (x : Part) : PanelsDrawn x x := Redrawn.refl _

theorem PanelsDrawn.trans (h : PanelsDrawn x y) (h' : PanelsDrawn y z) : PanelsDrawn x z := Redrawn.trans h h'

theorem PanelsDrawn.of_eq (h : y.disp = x.disp) : PanelsDrawn x y := Redrawn.of_eq h

@[simp] theorem reportTallies_disp (x : Part) : (reportTallies x).disp = x.disp := by
  unfold reportTallies
  split
  · split
    · rfl
    · split <;> rfl
  · rfl

theorem panelsWhere_drawn {f : EpAddr → Bool} (hf : ∀ a, a.kind = .seat → f a = false) (s x : Part) :
    PanelsDrawn x (renderPanels (panelsWhere s f) x) := by
  refine Redrawn.renderedAll (fun a ha hseat => ?_) x x.disp
  have hfa : f a = true := (List.mem_filter.mp ha).2
  exact absurd (hf a hseat) (by simp [hfa])

theorem panelDue_seat (old : Panels) (s : Part) (cause : Cause) {a : EpAddr} (h : a.kind = .seat) :
    panelDue old s cause a = false := by
  simp [panelDue, h]

theorem composer_drawn (cause : Cause) (x : Part) : PanelsDrawn x (composer cause x) := by
  unfold composer
  extract_lets x' c
  have hpanel : PanelsDrawn x x' := .refl x
  split
  · exact hpanel
  · exact hpanel.trans (panelsWhere_drawn (fun a ha => panelDue_seat _ _ _ ha) x' x')

theorem renderNamed_drawn (ls : List ProgLevel) (f : CoachShow → Bool) (x : Part) : PanelsDrawn x (renderNamed ls f x) :=
  panelsWhere_drawn (fun a ha => by simp [ha]) (rederive ls x) (rederive ls x)

theorem nameStops_drawn (l : List Nat) (x : Part) : PanelsDrawn x (nameStops l x) := by
  unfold nameStops
  split
  · exact .refl x
  · exact renderNamed_drawn ..

theorem nameSummary_drawn (before : List SummaryEntry) (x : Part) : PanelsDrawn x (nameSummary before x) := by
  unfold nameSummary
  split
  · exact .refl x
  · exact renderNamed_drawn ..

theorem lightAndCompose_drawn (cause : Cause) (x : Part) : PanelsDrawn x (lightAndCompose cause x) :=
  .trans (y := setBrightness (litBrightness x) x) (.refl x) (composer_drawn ..)

theorem deriveSummary_drawn (x : Part) : PanelsDrawn x (deriveSummary x) :=
  (PanelsDrawn.of_eq (y := setSummary x) rfl).trans (nameSummary_drawn ..)

theorem tallyUpdate_drawn (x : Part) : PanelsDrawn x (tallyUpdate x) := by
  have hrebuilt : PanelsDrawn x (rebuildTally x) := .of_eq rfl
  unfold tallyUpdate
  extract_lets x'
  split
  · have hwritten : PanelsDrawn x (reportTallies (writeOwnTallies x')) := .of_eq (reportTallies_disp _)
    exact hwritten.trans (deriveSummary_drawn _)
  · exact hrebuilt

theorem formationHandOff_drawn (o : Orientation) (x : Part) : PanelsDrawn x (formationHandOff o x) :=
  (PanelsDrawn.of_eq (y := writeOwnTallies x) rfl).trans ((deriveSummary_drawn _).trans (composer_drawn ..))

theorem formationChanged_drawn (o : Orientation) (x : Part) : PanelsDrawn x (formationChanged o x) :=
  (PanelsDrawn.of_eq (y := evalSource x) rfl).trans (formationHandOff_drawn ..)

theorem estRecompute_drawn (x : Part) : PanelsDrawn x (estRecompute x) := by
  unfold estRecompute
  split
  · exact (PanelsDrawn.of_eq (y := setEstimates x) rfl).trans (nameStops_drawn ..)
  · exact .refl x

/-! ### Seats and panels -/

/-- From `x` to `y` endpoints were drawn anew and nothing else changed on the display line. -/
def LineDrawn (x y : Part) : Prop := Redrawn (fun _ => False) x.disp y.disp

theorem PanelsDrawn.line (h : PanelsDrawn x y) : LineDrawn x y := h.weaken nofun

theorem recomputeSeats_drawn (x : Part) : LineDrawn x (recomputeSeats x) := Redrawn.raisedAll (fun _ _ => not_false) _

theorem refreshSeats_drawn (x : Part) : LineDrawn x (refreshSeats x) :=
  Redrawn.trans (recomputeSeats_drawn x) (tallyUpdate_drawn _).line

end Sys2Proof.Proofs.Rendering
end

section
/-! The requests of the Unit Description: UNIT-SETUP and COACH-NUMBERS. -/
namespace Sys2Proof.Proofs.Description
open Sys2Proof Sys2Proof.Machine Effects Requests ConfigGet Owners Events Rendering OwnEntries DisplayLine

variable {s : State} {x y : Part} {L : List Block} {seg : SegmentReq} {g : Staging} {ns : List Nat}

theorem hasDup_eq_false_iff {l : List Nat} : hasDup l = false ↔ l.Nodup := by
  induction l with
  | nil => simp [hasDup]
  | cons a l ih => simp [hasDup, ih]

/-! ### UNIT-SETUP -/

theorem ownUnitSetup_refused {c : Bool × Result} (h : (segmentChecks seg x).find? (·.1) = some c) :
    ownUnitSetup seg x = (dropStaging x, .now c.2 []) := by
  rw [ownUnitSetup, h]
  rfl

theorem ownUnitSetup_passed (h : ((segmentChecks seg x).all fun c => !c.1) = true) :
    ownUnitSetup seg x = collectSegment seg x := by
  have hnone : (segmentChecks seg x).find? (·.1) = none := by simpa using h
  rw [ownUnitSetup, hnone]

theorem dropStaging_leaves (x : Part) : Leaves [.unit] x (dropStaging x) := leaves_of_keeps dropStaging_keeps (by decide)

theorem staged_leaves (u : UnitDesc) (x : Part) : Leaves [.unit] x { x with unit := u } := leaves_of_keeps unit_keeps (by decide)

/-- The part with a description put in force, before the own record and the panels follow. -/
def described (g : Staging) (x : Part) : Part :=
  let s1 := { x with
    unit := { unitId := g.unitId, coaches := g.coaches, portionTag := x.unit.portionTag, staging := none }
    disp := newTable g.coaches
    res := { x.res with views := g.coaches.map fun c => c.seats.map fun _ => {} }
    seat := { x.seat with sensors := freshSensors g.coaches } }
  let s2 := rebuildTally s1
  recordAlone { s2 with panel := reevaluate s2 }

theorem takeDescription_eq (g : Staging) (x : Part) :
    takeDescription g x = formationChanged (ownOrientation x) (described g x) := rfl

theorem takeDescription_leaves (g : Staging) (x : Part) :
    Leaves [.unit, .source, .form, .tallies, .views, .sensors, .seat, .panel, .disp] x (takeDescription g x) :=
  leaves_of_keeps takeDescription_keeps (by decide)

theorem takeDescription_unit (g : Staging) (x : Part) : (takeDescription g x).unit =
    { unitId := g.unitId, coaches := g.coaches, portionTag := x.unit.portionTag, staging := none } := by
  rw [takeDescription_eq, unit_of_keeps formationChanged_keeps (by decide)]
  rfl

theorem sensors_of_keeps (h : Keeps L x y) (hb : Block.sensors ∉ L) : y.seat.sensors = x.seat.sensors := h.all _ hb

theorem takeDescription_sensors (g : Staging) (x : Part) : (takeDescription g x).seat.sensors =
    g.coaches.map fun c => c.seats.map fun _ => { occupied := false, run := 0, age := none, frozen := false } := by
  rw [takeDescription_eq, sensors_of_keeps formationChanged_keeps (by decide)]
  rfl

/-- The endpoint table of a new description: every endpoint of its coaches in order, as a new entry. -/
theorem takeDescription_table (g : Staging) (x : Part) :
    (takeDescription g x).disp.table.map lineEntry = (endpointList g.coaches).map fun a => { addr := a } := by
  have hdrawn : PanelsDrawn (described g x) (takeDescription g x) := takeDescription_eq g x ▸ formationChanged_drawn ..
  have htable : (described g x).disp = newTable g.coaches := rfl
  rw [hdrawn.table, htable, newTable, List.map_map]
  rfl

/-- What a table of new entries says of its endpoints, whatever was drawn on them. -/
theorem newEntries {l : List EpEntry} {as : List EpAddr} (h : l.map lineEntry = as.map fun a => { addr := a }) :
    l.map (·.addr) = as ∧ ∀ e ∈ l, e.present = true ∧ e.miss = 0 ∧ e.shown = none := by
  constructor
  · have haddr := congrArg (List.map (·.addr)) h
    simp only [List.map_map] at haddr
    exact haddr.trans (List.map_id' as)
  · intro e he
    have hmem : lineEntry e ∈ as.map fun a => ({ addr := a } : EpEntry) := h ▸ List.mem_map_of_mem he
    obtain ⟨a, -, heq⟩ := List.mem_map.mp hmem
    exact ⟨(congrArg EpEntry.present heq).symm, (congrArg EpEntry.miss heq).symm, (congrArg EpEntry.shown heq).symm⟩

/-- The coaches a segment brings the staging record to. -/
def stagedCoaches (seg : SegmentReq) (u : UnitDesc) : List CoachRec :=
  (if seg.coachIndex = 0 then [] else (u.staging.map (·.coaches)).getD []) ++ [coachOf seg]

theorem stage_eq (u : UnitDesc) (seg : SegmentReq) :
    stage u seg = { unitId := seg.unitId, coachCount := seg.coachCount, coaches := stagedCoaches seg u } := rfl

variable {tag : Byte} {body : List Byte}

theorem unitSetup_command (hbody : readUnitSetup body = some seg) (x : Part) :
    effect (.unitSetup tag body) x = hostRequest 0x03#8 tag (some seg) ownUnitSetup x := by
  rw [← hbody]
  rfl

/-- A segment that passes its checks and is not the last is collected. -/
theorem step_of_collected (h : Accepts s tag) (hbody : readUnitSetup body = some seg)
    (hpass : ((segmentChecks seg s.part).all fun c => !c.1) = true) (hlast : seg.coachIndex + 1 ≠ seg.coachCount) :
    ∃ t, exec (.unitSetup tag body) s = .next t ∧ Answered s t 0x03#8 tag .ok [] ∧ Only [.host, .unit] s t ∧
      t.part.unit = { s.part.unit with
        staging := some { unitId := seg.unitId, coachCount := seg.coachCount, coaches := stagedCoaches seg s.part.unit } } := by
  have hown : ownUnitSetup seg (handed 0x03#8 tag s.part) =
      taken { handed 0x03#8 tag s.part with unit := { s.part.unit with staging := some (stage s.part.unit seg) } } := by
    rw [ownUnitSetup_passed (x := handed 0x03#8 tag s.part) hpass, collectSegment, if_neg hlast]
    rfl
  obtain ⟨t, hexec, hanswered, hsame, -, honly⟩ := step_of_taken_train h (unitSetup_command hbody _) rfl hown (staged_leaves ..)
  exact ⟨t, hexec, hanswered, honly, hsame.unit⟩

/-- A segment that is refused drops the staging record. -/
theorem step_of_dropped {r : Result} (h : Accepts s tag) (hbody : readUnitSetup body = some seg)
    (hown : ownUnitSetup seg (handed 0x03#8 tag s.part) = (dropStaging (handed 0x03#8 tag s.part), .now r [])) :
    ∃ t, exec (.unitSetup tag body) s = .next t ∧ Answered s t 0x03#8 tag r [] ∧ Only [.host, .unit] s t ∧
      t.part.unit = { s.part.unit with staging := none } := by
  obtain ⟨t, hexec, rfl, hanswered, honly⟩ := step_of_taken h (unitSetup_command hbody _) rfl hown (dropStaging_leaves _)
  refine ⟨_, hexec, hanswered, honly, ?_⟩
  simp only [finish_unit, answer_unit, dropStaging, handed_unit]

/-- The last segment puts a description without a repeated number in force. -/
theorem step_of_described (h : Accepts s tag) (hbody : readUnitSetup body = some seg)
    (hpass : ((segmentChecks seg s.part).all fun c => !c.1) = true) (hlast : seg.coachIndex + 1 = seg.coachCount)
    (hdup : hasDup ((stagedCoaches seg s.part.unit).map (·.booked)) = false) :
    ∃ t, exec (.unitSetup tag body) s = .next t ∧ Answered s t 0x03#8 tag .ok [] ∧
      t.part.unit = { unitId := seg.unitId, coaches := stagedCoaches seg s.part.unit
                      portionTag := s.part.unit.portionTag, staging := none } ∧
      t.part.disp.table.map (·.addr) = endpointList (stagedCoaches seg s.part.unit) ∧
      (∀ e ∈ t.part.disp.table, e.present = true ∧ e.miss = 0 ∧ e.shown = none) ∧
      t.part.seat.sensors = (stagedCoaches seg s.part.unit).map (fun c =>
        c.seats.map fun _ => { occupied := false, run := 0, age := none, frozen := false }) ∧
      Only [.host, .unit, .source, .form, .tallies, .views, .sensors, .seat, .panel, .disp] s t := by
  have hown : ownUnitSetup seg (handed 0x03#8 tag s.part) =
      taken (takeDescription (stage s.part.unit seg) (handed 0x03#8 tag s.part)) := by
    rw [ownUnitSetup_passed (x := handed 0x03#8 tag s.part) hpass, collectSegment, if_pos hlast]
    exact if_neg (by rw [handed_unit, stage_eq]; exact Bool.eq_false_iff.mp hdup)
  obtain ⟨t, hexec, rfl, hanswered, honly⟩ :=
    step_of_taken h (unitSetup_command hbody _) rfl hown (takeDescription_leaves ..)
  obtain ⟨haddr, hnew⟩ := newEntries (takeDescription_table (stage s.part.unit seg) (handed 0x03#8 tag s.part))
  refine ⟨_, hexec, hanswered, ?_, ?_, ?_, ?_, honly⟩
  · simp only [finish_unit, answer_unit, takeDescription_unit, handed_unit, stage_eq]
  · simp only [finish_table, answer_disp]
    exact haddr
  · simp only [finish_table, answer_disp]
    exact hnew
  · simp only [finish_seat, answer_seat, takeDescription_sensors, stage_eq]

/-! ### COACH-NUMBERS -/

theorem renumber_eq {cs : List CoachRec} (h : ns.length = cs.length) :
    renumber cs ns = List.zipWith (fun c n => { c with booked := n }) cs ns := by
  induction cs generalizing ns with
  | nil => cases ns <;> rfl
  | cons c cs ih =>
    cases ns with
    | nil => exact absurd h (by simp)
    | cons n ns =>
      simp only [List.length_cons, Nat.add_right_cancel_iff] at h
      simp [renumber, ih h]

theorem booked_renumbered {cs : List CoachRec} (h : ns.length = cs.length) : (renumber cs ns).map (·.booked) = ns := by
  induction cs generalizing ns with
  | nil =>
    obtain rfl := List.length_eq_zero_iff.mp h
    rfl
  | cons c cs ih =>
    cases ns with
    | nil => exact absurd h (by simp)
    | cons n ns =>
      simp only [List.length_cons, Nat.add_right_cancel_iff] at h
      simp [renumber, ih h]

/-- No coach changes its number exactly where the list names the numbers in force. -/
theorem changedCoaches_eq_nil_iff {cs : List CoachRec} (h : ns.length = cs.length) (i : Nat) :
    changedCoaches i cs ns = [] ↔ cs.map (·.booked) = ns := by
  induction cs generalizing ns i with
  | nil =>
    obtain rfl := List.length_eq_zero_iff.mp h
    simp [changedCoaches]
  | cons c cs ih =>
    cases ns with
    | nil => exact absurd h (by simp)
    | cons n ns =>
      simp only [List.length_cons, Nat.add_right_cancel_iff] at h
      simp [changedCoaches, ih h]

theorem renumber_same (cs : List CoachRec) : renumber cs (cs.map (·.booked)) = cs := by
  induction cs with
  | nil => rfl
  | cons c cs ih => simp [renumber, ih]

theorem takeNumbers_same (h : ns.length = x.unit.coaches.length) (hsame : x.unit.coaches.map (·.booked) = ns) :
    takeNumbers ns x = x := by
  have hnone : changedCoaches 0 x.unit.coaches ns = [] := (changedCoaches_eq_nil_iff h 0).mpr hsame
  simp [takeNumbers, hnone]

/-- The part with its coaches renumbered and shown, before the own entry is rewritten. -/
def renumbered (ns : List Nat) (x : Part) : Part :=
  composer { coaches := changedCoaches 0 x.unit.coaches ns }
    { x with unit := { x.unit with coaches := renumber x.unit.coaches ns } }

theorem renumbered_keeps (ns : List Nat) (x : Part) : Keeps [.unit, .panel, .disp] x (renumbered ns x) :=
  Keeps.step composer_keeps rfl (Keeps.step unit_keeps rfl .refl)

theorem renumbered_unit (ns : List Nat) (x : Part) :
    (renumbered ns x).unit = { x.unit with coaches := renumber x.unit.coaches ns } := unit_of_keeps composer_keeps (by decide)

theorem takeNumbers_changed (h : ns.length = x.unit.coaches.length) (hne : x.unit.coaches.map (·.booked) ≠ ns) :
    takeNumbers ns x = ownEntryChanged (fun u => { u with booked := ns }) (renumbered ns x) := by
  have hsome : changedCoaches 0 x.unit.coaches ns ≠ [] := fun hnil => hne ((changedCoaches_eq_nil_iff h 0).mp hnil)
  have hnumbers : withNumbers (renumbered ns x) = fun u : UnitEntry => { u with booked := ns } := by
    funext u
    rw [withNumbers, renumbered_unit, bookedNumbers, booked_renumbered h]
  rw [← hnumbers]
  exact if_neg (by simpa using hsome)

theorem takeNumbers_leaves (ns : List Nat) (x : Part) :
    Leaves [.unit, .source, .form, .tallies, .seat, .panel, .disp] x (takeNumbers ns x) :=
  leaves_of_keeps takeNumbers_keeps (by decide)

theorem takeNumbers_unit (h : ns.length = x.unit.coaches.length) :
    (takeNumbers ns x).unit = { x.unit with coaches := List.zipWith (fun c n => { c with booked := n }) x.unit.coaches ns } := by
  rw [← renumber_eq h]
  by_cases hsame : x.unit.coaches.map (·.booked) = ns
  · rw [takeNumbers_same h hsame, ← hsame, renumber_same]
  · rw [takeNumbers_changed h hsame, unit_of_keeps ownEntryChanged_keeps (by decide), renumbered_unit]

theorem takeNumbers_rewritten {s t : Part} (h : ns.length = x.unit.coaches.length) (hne : x.unit.coaches.map (·.booked) ≠ ns)
    (hform : x.form = s.form) (ht : SameTrain t (takeNumbers ns x)) :
    OwnEntryRewritten (fun u => { u with booked := ns }) s t := by
  rw [takeNumbers_changed h hne] at ht
  have hkeeps := renumbered_keeps ns x
  obtain ⟨hrecord, hnow⟩ := ownEntryChanged_record (fun u => { u with booked := ns }) (renumbered ns x)
  refine ownEntryRewritten_of (x := renumbered ns x) ((record_of_keeps hkeeps (by decide)).trans (by rw [hform]))
    ((role_of_keeps hkeeps (by decide)).trans (by rw [hform])) (by rw [ht.form, hrecord]) ?_
  rw [← hnow]
  unfold ownEntryNow
  rw [ht.unit, ht.route, ht.form]

theorem listBad_iff {cs : List CoachRec} : (ns.length != cs.length || ns.any fun n => n == 0 || decide (99 < n)) = true ↔
    ns.length ≠ cs.length ∨ ∃ n ∈ ns, n < 1 ∨ 99 < n := by
  simp

/-- The answer to COACH-NUMBERS and what it leaves. -/
theorem step_of_numbers (h : Accepts s tag) (hbody : readList body = some ns) :
    ∃ t, exec (.coachNumbers tag body) s = .next t ∧
      if s.part.unit.coaches = [] then Answered s t 0x04#8 tag .wrongState [] ∧ Only [.host] s t
      else if ns.length ≠ s.part.unit.coaches.length ∨ ∃ n ∈ ns, n < 1 ∨ 99 < n then
        Answered s t 0x04#8 tag .badField [] ∧ Only [.host] s t
      else if ¬ ns.Nodup then Answered s t 0x04#8 tag .conflict [] ∧ Only [.host] s t
      else Answered s t 0x04#8 tag .ok [] ∧
        t.part.unit = { s.part.unit with coaches := List.zipWith (fun c n => { c with booked := n }) s.part.unit.coaches ns } ∧
        (if s.part.unit.coaches.map (·.booked) = ns then Only [.host] s t
          else OwnEntryRewritten (fun u => { u with booked := ns }) s.part t.part) ∧
        Only [.host, .unit, .source, .form, .tallies, .seat, .panel, .disp] s t := by
  have hc : effect (.coachNumbers tag body) (quiet s.part) = hostRequest 0x04#8 tag (some ns) ownCoachNumbers (quiet s.part) := by
    rw [← hbody]
    rfl
  by_cases hnone : s.part.unit.coaches = []
  · simp only [if_pos hnone]
    exact step_of_refused h hc rfl (checked_here (by simpa using hnone))
  have hsome : s.part.unit.coaches.isEmpty = false := by simpa using hnone
  simp only [if_neg hnone]
  by_cases hbad : ns.length ≠ s.part.unit.coaches.length ∨ ∃ n ∈ ns, n < 1 ∨ 99 < n
  · simp only [if_pos hbad]
    exact step_of_refused h hc rfl ((checked_next hsome).trans (checked_here (listBad_iff.mpr hbad)))
  have hgood := Bool.eq_false_iff.mpr fun hb => hbad (listBad_iff.mp hb)
  have hlen : ns.length = s.part.unit.coaches.length := by
    by_contra hne
    exact hbad (.inl hne)
  simp only [if_neg hbad]
  by_cases hdup : ns.Nodup
  · have hown : ownCoachNumbers ns (handed 0x04#8 tag s.part) = taken (takeNumbers ns (handed 0x04#8 tag s.part)) :=
      (checked_next hsome).trans ((checked_next hgood).trans ((checked_next (hasDup_eq_false_iff.mpr hdup)).trans checked_nil))
    simp only [if_neg (not_not.mpr hdup)]
    by_cases hsame : s.part.unit.coaches.map (·.booked) = ns
    · simp only [if_pos hsame]
      rw [takeNumbers_same (x := handed 0x04#8 tag s.part) hlen hsame] at hown
      obtain ⟨t, hexec, honly, hanswered⟩ := step_of_unchanged h hc rfl hown
      refine ⟨t, hexec, hanswered, ?_, honly, only_mono honly rfl⟩
      have hunit : t.part.unit = s.part.unit := honly.2 .unit (by decide)
      rw [hunit, ← renumber_eq hlen, ← hsame, renumber_same]
    · simp only [if_neg hsame]
      obtain ⟨t, hexec, hanswered, htrain, -, honly⟩ := step_of_taken_train h hc rfl hown (takeNumbers_leaves ..)
      refine ⟨t, hexec, hanswered, ?_, takeNumbers_rewritten (x := handed 0x04#8 tag s.part) hlen hsame rfl htrain, honly⟩
      rw [htrain.unit, takeNumbers_unit (x := handed 0x04#8 tag s.part) hlen]
      rfl
  · simp only [if_pos hdup]
    exact step_of_refused h hc rfl ((checked_next hsome).trans ((checked_next hgood).trans
      (checked_here (Bool.eq_true_of_not_eq_false fun hf => hdup (hasDup_eq_false_iff.mp hf)))))

/-- Settles O7: a segment is collected, refused or commits the description, and the numbers are refused, stand or change. -/
theorem theDescriptionIsCollectedCommittedAndRenumbered : Obligations.TheDescriptionIsCollectedCommittedAndRenumbered := by
  refine ⟨fun s tag body seg h hbody => ⟨fun hpass hlast => step_of_collected h hbody hpass hlast, fun c hc =>
    step_of_dropped h hbody (ownUnitSetup_refused hc)⟩, fun s tag body seg h hbody hpass hlast => ?last,
    fun s tag body ns h hbody => step_of_numbers h hbody⟩
  case last =>
    intro coaches
    cases hdup : hasDup (coaches.map (·.booked)) with
    | true =>
      have hown : ownUnitSetup seg (handed 0x03#8 tag s.part) = (dropStaging (handed 0x03#8 tag s.part), .now .conflict []) := by
        rw [ownUnitSetup_passed (x := handed 0x03#8 tag s.part) hpass, collectSegment, if_pos hlast]
        exact if_pos hdup
      obtain ⟨t, hexec, hanswered, honly, hunit⟩ := step_of_dropped h hbody hown
      exact ⟨t, hexec, hanswered, hunit, honly⟩
    | false => exact step_of_described h hbody hpass hlast hdup

end Sys2Proof.Proofs.Description
end

section
/-! The Display Line Driver: how an operation ends, and how the arbiter begins the next one. -/
namespace Sys2Proof.Proofs.Driver
open Sys2Proof Sys2Proof.Machine Effects Requests Owners Events Rendering DisplayLine

variable {s : State} {x y z : Part} {d : Display} {L : List Block} {a b : EpAddr} {e : EpEntry}

/-! ### The arbiter's turn -/

@[simp] theorem pump_disp (x : Part) : (pump x).disp = x.disp := by rw [pump_eq]
@[simp] theorem pump_out (x : Part) : (pump x).out = x.out := by rw [pump_eq]
@[simp] theorem pump_supply (x : Part) : (pump x).supply = x.supply := by rw [pump_eq]

theorem isRun_congr (h : y.supply = x.supply) : isRun y = isRun x := by
  unfold isRun
  rw [h]

theorem isRun_pump (x : Part) : isRun (pump x) = isRun x := isRun_congr (pump_supply x)

/-- A table entry of an address is what the table holds after the line began. -/
@[simp] theorem epAt_finish (a : EpAddr) (x : Part) : epAt (finish x).disp a = epAt x.disp a := by
  unfold epAt
  rw [finish_table]

theorem kick_idle (hrun : isRun x = true) (h : x.disp.inFlight = none) : kick x = arbiter x := by
  simp [kick, hrun, h]

/-- A transfer that begins takes the head of the refresh queue. -/
theorem beginTransfer_queue (x : Part) : QueueBegun x.disp.queue (beginTransfer x) := by
  unfold beginTransfer
  split
  · exact .inl rfl
  · next a q h =>
    split
    · exact .inr ⟨a, h, .inl ⟨_, rfl⟩⟩
    · next hnone => exact .inr ⟨a, h, .inr hnone⟩

theorem beginPoll_queue (x : Part) : (beginPoll x).disp.queue = x.disp.queue := by
  unfold beginPoll
  split
  · rfl
  · split <;> rfl

theorem kick_queue (x : Part) : QueueBegun x.disp.queue (kick x) := by
  unfold kick arbiter
  split
  · split
    · exact beginTransfer_queue x
    · split
      · exact .inl (beginPoll_queue x)
      · exact .inl rfl
  · exact .inl rfl

theorem finish_queue (x : Part) : QueueBegun x.disp.queue (finish x) := by
  rw [finish, ← pump_disp x]
  exact kick_queue _

/-- A poll turn takes the head of the probe list where there is one; nothing else changes it. -/
theorem finish_probes (x : Part) : (finish x).disp.probes = x.disp.probes ∨
    ∃ b, x.disp.probes = b :: (finish x).disp.probes ∧ (finish x).disp.inFlight = some (.probe, b) := by
  rw [finish, ← pump_disp x]
  unfold kick arbiter
  split
  · split
    · refine .inl ?_
      unfold beginTransfer
      split
      · rfl
      · split <;> rfl
    · split
      · unfold beginPoll
        split
        · next b q h => exact .inr ⟨b, h, rfl⟩
        · refine .inl ?_
          split <;> rfl
      · exact .inl rfl
  · exact .inl rfl

/-! ### Which operation begins -/

theorem beginTransfer_eq {q : List EpAddr} (hq : x.disp.queue = a :: q) (ha : epAt x.disp a = some e) :
    beginTransfer x = sendDisp (.transfer a e.content (transferContent x e))
      (onDisp (fun d => { d with queue := q, inFlight := some (.transfer e.content, a), lastTransfer := true }) x) := by
  unfold beginTransfer
  rw [hq]
  simp only [ha]

theorem beginPoll_probe {q : List EpAddr} (hq : x.disp.probes = a :: q) : beginPoll x =
    sendDisp (.poll a) (onDisp (fun d => { d with probes := q, inFlight := some (.probe, a), lastTransfer := false }) x) := by
  unfold beginPoll
  rw [hq]

theorem beginPoll_rotation (hq : x.disp.probes = []) (ha : rotationNext x.disp = some a) : beginPoll x =
    sendDisp (.poll a) (onDisp (fun d => { d with mark := some a, inFlight := some (.poll, a), lastTransfer := false }) x) := by
  unfold beginPoll
  rw [hq]
  simp only [ha]

/-- The PRESENT endpoints in table order. -/
def presentOf (d : Display) : List EpEntry := d.table.filter (·.present)

theorem pollReady_eq_false_iff : pollReady d = false ↔ d.probes = [] ∧ presentOf d = [] := by
  simp [pollReady, presentOf]

/-- The rotation takes the first PRESENT endpoint after the mark, the first of all where none lies after it. -/
theorem rotationNext_eq (h : presentOf d ≠ []) : ∃ i e, (presentOf d)[i]? = some e ∧ rotationNext d = some e.addr ∧
    match d.mark with
    | none => i = 0
    | some m => (addrLt m e.addr = true ∧ ∀ x ∈ (presentOf d).take i, addrLt m x.addr = false) ∨
        (i = 0 ∧ ∀ x ∈ presentOf d, addrLt m x.addr = false) := by
  obtain ⟨e0, rest, hcons⟩ := List.exists_cons_of_ne_nil h
  have hnext : rotationNext d = match d.mark with
      | some m => (((presentOf d).find? fun x => addrLt m x.addr).map (·.addr)).orElse fun _ => (presentOf d).head?.map (·.addr)
      | none => (presentOf d).head?.map (·.addr) := by
    unfold rotationNext presentOf
    cases d.mark <;> simp [List.find?_map, List.head?_map]
  rw [hnext]
  cases d.mark with
  | none => exact ⟨0, e0, by simp [hcons], by simp [hcons], rfl⟩
  | some m =>
    dsimp only
    cases hfind : (presentOf d).find? fun x => addrLt m x.addr with
    | none => exact ⟨0, e0, by simp [hcons], by simp [hcons], .inr ⟨rfl, by simpa using hfind⟩⟩
    | some e =>
      obtain ⟨hlt, i, hi, heq, hbefore⟩ := List.find?_eq_some_iff_getElem.mp hfind
      refine ⟨i, e, by rw [List.getElem?_eq_getElem hi, heq], rfl, .inl ⟨hlt, fun x hx => ?_⟩⟩
      obtain ⟨j, hj, rfl⟩ := List.mem_take_iff_getElem.mp hx
      simpa using hbefore j (by omega)

theorem arbiter_transfer {q : List EpAddr} (hq : x.disp.queue = a :: q)
    (hturn : pollReady x.disp = false ∨ x.disp.lastTransfer = false) : arbiter x = beginTransfer x := by
  unfold arbiter transferReady
  rw [hq]
  obtain h | h := hturn <;> simp [h]

theorem arbiter_poll (hturn : x.disp.queue = [] ∨ x.disp.lastTransfer = true) (hready : pollReady x.disp = true) :
    arbiter x = beginPoll x := by
  unfold arbiter transferReady
  obtain h | h := hturn <;> simp [h, hready]

theorem arbiter_idle (hq : x.disp.queue = []) (hready : pollReady x.disp = false) : arbiter x = x := by
  unfold arbiter transferReady
  simp [hq, hready]

/-- The arbiter's turn over a free line. -/
theorem lineBegun_arbiter (x : Part) : LineBegun x.disp (arbiter x).disp := by
  refine ⟨fun a q e hq hturn ha => ?transfer, fun hturn => ⟨fun a q hq => ?probe, fun hnone hsome => ?rotation⟩,
    fun hq hnone hpresent => ?idle⟩
  case transfer => rw [arbiter_transfer hq (hturn.imp_left pollReady_eq_false_iff.mpr), beginTransfer_eq hq ha]; rfl
  case probe => rw [arbiter_poll hturn (by simp [pollReady, hq]), beginPoll_probe hq]; rfl
  case rotation =>
    have hready : pollReady x.disp = true := by
      by_contra hf
      exact hsome (pollReady_eq_false_iff.mp (Bool.eq_false_iff.mpr hf)).2
    obtain ⟨i, e, hi, hnext, hmark⟩ := rotationNext_eq hsome
    refine ⟨i, e, hi, ?_, hmark⟩
    rw [arbiter_poll hturn hready, beginPoll_rotation hnone hnext]
    rfl
  case idle => rw [arbiter_idle hq (pollReady_eq_false_iff.mpr ⟨hnone, hpresent⟩)]

/-- The one frame sent is that of the operation begun. -/
theorem sentFor_arbiter (hidle : x.disp.inFlight = none) (hout : x.out.disp = []) : SentFor (arbiter x) := by
  have hstill : SentFor x := by
    unfold SentFor
    rw [hidle]
    exact hout
  unfold arbiter
  split
  · unfold beginTransfer
    split
    · exact hstill
    · split
      · next e ha =>
        intro e' he'
        obtain rfl : e = e' := Option.some.inj (ha.symm.trans he')
        exact (congrArg (· ++ _) hout :)
      · unfold SentFor
        simp only [onDisp, hidle]
        exact hout
  · split
    · unfold beginPoll
      split
      · exact (congrArg (· ++ _) hout :)
      · split
        · exact (congrArg (· ++ _) hout :)
        · exact hstill
    · exact hstill

/-- At the end of a step in RUN the driver goes on over a free line. -/
theorem finish_begins (hrun : isRun x = true) (hidle : x.disp.inFlight = none) (hout : x.out.disp = []) :
    SentFor (finish x) ∧ LineBegun x.disp (finish x).disp := by
  have hkick : finish x = arbiter (pump x) := kick_idle ((isRun_pump x).trans hrun) (by rw [pump_disp, hidle])
  rw [hkick]
  refine ⟨sentFor_arbiter (by rw [pump_disp, hidle]) (by rw [pump_out, hout]), ?_⟩
  have hline := lineBegun_arbiter (pump x)
  rwa [pump_disp] at hline

end Sys2Proof.Proofs.Driver
end

section
/-! The ends of the operations on the display line: acknowledgement, reply, window and probe time. -/
namespace Sys2Proof.Proofs.Driver
open Sys2Proof Sys2Proof.Machine Effects Requests Owners Events Rendering DisplayLine Journey

variable {s : State} {c : Instr} {x y z : Part} {d : Display} {L : List Block} {a b : EpAddr} {e : EpEntry} {v w : Nat}

/-! ### Commands that act in RUN -/

theorem isRun_quiet (h : s.part.supply.mode = .run) : isRun (quiet s.part) = true := by simp [isRun, h]

theorem inRun_eq {f : Part → Part} (h : isRun x = true) : inRun f x = f x := by simp [inRun, h]

/-- A command that acts in RUN alone, there. -/
theorem step_in_run {f : Part → Part} (hrun : s.part.supply.mode = .run)
    (hc : effect c (quiet s.part) = inRun f (quiet s.part)) (hf : Keeps L (quiet s.part) (f (quiet s.part))) :
    ∃ t, exec c s = .next t ∧ t = { s with part := finish (f (quiet s.part)) } ∧ Only L s t :=
  step_of_effect (hc.trans (inRun_eq (isRun_quiet hrun))) hf

theorem latch_eq (k : EventKind) (x : Part) : latch k x = { x with host := (latch k x).host } := rfl

@[simp] theorem latch_disp (k : EventKind) (x : Part) : (latch k x).disp = x.disp := by rw [latch_eq]
@[simp] theorem latch_seat (k : EventKind) (x : Part) : (latch k x).seat = x.seat := by rw [latch_eq]

/-! ### The driver with an operation ended -/

theorem enqueue_queue (a : EpAddr) (d : Display) : (enqueue a d).queue = if a ∈ d.queue then d.queue else d.queue ++ [a] := by
  simp only [enqueue, List.contains_iff_mem]
  split <;> rfl

theorem contentOf_of_epAt (h : epAt x.disp a = some e) : contentOf x a = e.content := by simp [contentOf, h]

/-- An entry after an ACK. -/
def acked (shown : Option Nat) (e : EpEntry) : EpEntry := { e with shown := shown, miss := 0 }

theorem acked_addr (shown : Option Nat) (e : EpEntry) : (acked shown e).addr = e.addr := rfl

theorem ackTransfer_same (h : epAt x.disp a = some e) : (ackTransfer a v v x).disp =
    if e.content = v then endAt a (acked (some v)) x.disp else enqueue a (endAt a (acked (some v)) x.disp) := by
  have hself : epAt (onEntry a (acked (some v)) (freeLine x)).disp a = some (acked (some v) e) := by
    refine (epAt_endAt_self (acked (some v)) (fun _ => rfl) x.disp).trans ?_
    rw [h]
    rfl
  have hcontent : contentOf (onEntry a (acked (some v)) (freeLine x)) a = e.content :=
    contentOf_of_epAt (e := acked (some v) e) hself
  rw [ackTransfer, if_pos rfl]
  change (if contentOf (onEntry a (acked (some v)) (freeLine x)) a = v then _ else _ : Part).disp = _
  rw [hcontent]
  split <;> rfl

theorem ackTransfer_other (h : w ≠ v) : (ackTransfer a v w x).disp = enqueue a (endAt a (acked none) x.disp) := by
  rw [ackTransfer, if_neg h]
  rfl

theorem missOf_of_epAt (h : epAt x.disp a = some e) : missOf x a = e.miss := by simp [missOf, h]

/-- The entry of an endpoint that goes ABSENT. -/
def absentEntry (e : EpEntry) : EpEntry := { e with present := false, probeTime := some 5, probeDue := false }

theorem setAbsent_disp (a : EpAddr) (x : Part) : (setAbsent a x).disp =
    epUpdate a absentEntry { x.disp with queue := x.disp.queue.filter fun b => b != a } := by
  rw [setAbsent, latch_disp]
  split <;> rfl

theorem setAbsent_latched (a : EpAddr) (x : Part) : (setAbsent a x).host.latched.getLsbD 11 = true :=
  latched_of_latch (.inr (by decide))

theorem setAbsent_sensor (h : a.kind = .seat) (x : Part) : sensorAt (setAbsent a x).seat a.coach a.number =
    (sensorAt x.seat a.coach a.number).map Sensor.freeze := by
  simp only [setAbsent, latch_seat, h, beq_self_eq_true, if_true, sensorUpdate_seat, onDisp_seat, sensorAt]
  rw [getElem?_modifyAt, if_pos rfl]
  cases x.seat.sensors[a.coach]? with
  | none => rfl
  | some r => exact (getElem?_modifyAt ..).trans (if_pos rfl)

/-- One more miss in an entry. -/
def missed (e : EpEntry) : EpEntry := { e with miss := e.miss + 1 }

theorem missed_addr (e : EpEntry) : (missed e).addr = e.addr := rfl
theorem absentEntry_addr (e : EpEntry) : (absentEntry e).addr = e.addr := rfl

/-- The part with the line freed and the miss counted. -/
def afterMiss (a : EpAddr) (x : Part) : Part := onEntry a missed (freeLine x)

theorem afterMiss_keeps (a : EpAddr) (x : Part) : Keeps [.disp] x (afterMiss a x) :=
  Keeps.step onEntry_keeps rfl (Keeps.step freeLine_keeps rfl .refl)

theorem absent_keeps (a : EpAddr) (x : Part) : Keeps [.disp, .sensors, .events, .host] x (setAbsent a (afterMiss a x)) :=
  Keeps.step setAbsent_keeps rfl (Keeps.step (afterMiss_keeps a x) rfl .refl)

theorem afterMiss_disp (a : EpAddr) (x : Part) : (afterMiss a x).disp = endAt a missed x.disp := rfl

theorem afterMiss_entry (h : epAt x.disp a = some e) : epAt (afterMiss a x).disp a = some (missed e) := by
  rw [afterMiss_disp, epAt_endAt_self _ missed_addr, h]
  rfl

theorem countMiss_eq (a : EpAddr) (transfer : Bool) (x : Part) : countMiss a transfer x =
    if 3 ≤ missOf (afterMiss a x) a then setAbsent a (afterMiss a x)
    else if transfer then requeue a (afterMiss a x) else afterMiss a x := rfl

theorem countMiss_below (h : epAt x.disp a = some e) (hmiss : e.miss + 1 < 3) (transfer : Bool) :
    countMiss a transfer x = if transfer then requeue a (afterMiss a x) else afterMiss a x := by
  have hm : missOf (afterMiss a x) a = e.miss + 1 := missOf_of_epAt (afterMiss_entry h)
  rw [countMiss_eq, hm, if_neg (by omega)]

theorem countMiss_third (h : epAt x.disp a = some e) (hmiss : 3 ≤ e.miss + 1) (transfer : Bool) :
    countMiss a transfer x = setAbsent a (afterMiss a x) := by
  have hm : missOf (afterMiss a x) a = e.miss + 1 := missOf_of_epAt (afterMiss_entry h)
  rw [countMiss_eq, hm, if_pos hmiss]

/-- An endpoint that goes ABSENT: its own entry, the others and the queue. -/
theorem absent_entries (h : epAt x.disp a = some e) :
    epAt (setAbsent a (afterMiss a x)).disp a = some (absentEntry (missed e)) ∧
      (∀ b, b ≠ a → epAt (setAbsent a (afterMiss a x)).disp b = epAt x.disp b) ∧
      (setAbsent a (afterMiss a x)).disp.queue = x.disp.queue.filter fun b => b != a := by
  rw [setAbsent_disp]
  refine ⟨?_, fun b hb => ?_, rfl⟩
  · rw [epAt_epUpdate_self _ _ absentEntry_addr]
    exact (congrArg (Option.map absentEntry) (afterMiss_entry h) :)
  · rw [epAt_epUpdate_ne hb _ absentEntry_addr]
    exact epAt_endAt_ne hb missed missed_addr x.disp

/-- What the driver with an operation ended says of the line's entries after the step. -/
theorem ended_entries {f : EpEntry → EpEntry} (haddr : ∀ e, (f e).addr = e.addr) (hd : y.disp = endAt a f d)
    (h : epAt d a = some e) : epAt (finish y).disp a = some (f e) ∧ (∀ b, b ≠ a → epAt (finish y).disp b = epAt d b) ∧
      QueueBegun d.queue (finish y) := by
  refine ⟨?_, fun b hb => ?_, ?_⟩
  · rw [epAt_finish, hd, epAt_endAt_self f haddr, h]
    rfl
  · rw [epAt_finish, hd, epAt_endAt_ne hb f haddr]
  · have hq := finish_queue y
    rwa [hd] at hq

theorem requeued_entries {f : EpEntry → EpEntry} (haddr : ∀ e, (f e).addr = e.addr) (hd : y.disp = enqueue a (endAt a f d))
    (h : epAt d a = some e) : epAt (finish y).disp a = some (f e) ∧ (∀ b, b ≠ a → epAt (finish y).disp b = epAt d b) ∧
      QueueBegun (if a ∈ d.queue then d.queue else d.queue ++ [a]) (finish y) := by
  refine ⟨?_, fun b hb => ?_, ?_⟩
  · rw [epAt_finish, hd, epAt_enqueue, epAt_endAt_self f haddr, h]
    rfl
  · rw [epAt_finish, hd, epAt_enqueue, epAt_endAt_ne hb f haddr]
  · have hq := finish_queue y
    rwa [hd, enqueue_queue] at hq

/-! ### A transfer -/

theorem ackArrives_transfer (h : x.disp.inFlight = some (.transfer v, a)) : ackArrives a w x = ackTransfer a v w x := by
  simp [ackArrives, h]

theorem windowExpired_transfer (h : x.disp.inFlight = some (.transfer v, a)) : windowExpired x = countMiss a true x := by
  simp [windowExpired, h]

theorem windowExpired_poll (h : x.disp.inFlight = some (.poll, a)) : windowExpired x = countMiss a false x := by
  simp [windowExpired, h]

theorem windowExpired_probe (h : x.disp.inFlight = some (.probe, a)) : windowExpired x = probeMissed a x := by
  simp [windowExpired, h]

/-- The queue with an endpoint at its tail where it was not in it. -/
def tailed (a : EpAddr) (q : List EpAddr) : List EpAddr := if a ∈ q then q else q ++ [a]

/-- A window that ends a transfer or a poll: the miss counts, and the third makes the endpoint ABSENT. -/
theorem step_of_miss {transfer : Bool} (hrun : s.part.supply.mode = .run) (he : epAt s.part.disp a = some e)
    (hwindow : windowExpired (quiet s.part) = countMiss a transfer (quiet s.part)) :
    ∃ t, exec .replyWindowExpiry s = .next t ∧ (∀ b, b ≠ a → epAt t.part.disp b = epAt s.part.disp b) ∧
      (e.miss + 1 < 3 → Only [.disp] s t ∧ epAt t.part.disp a = some (missed e) ∧
        QueueBegun (if transfer then tailed a s.part.disp.queue else s.part.disp.queue) t.part) ∧
      (3 ≤ e.miss + 1 → Only [.disp, .sensors, .events, .host] s t ∧ t.part.host.latched.getLsbD 11 = true ∧
        epAt t.part.disp a = some (absentEntry (missed e)) ∧
        QueueBegun (s.part.disp.queue.filter fun b => b != a) t.part ∧
        (a.kind = .seat → sensorAt t.part.seat a.coach a.number =
          (sensorAt s.part.seat a.coach a.number).map Sensor.freeze)) := by
  obtain hbelow | hthird := Nat.lt_or_ge (e.miss + 1) 3
  · have hcount := countMiss_below (x := quiet s.part) he hbelow transfer
    have hkeeps : Keeps [.disp] (quiet s.part) (windowExpired (quiet s.part)) := by
      rw [hwindow, hcount]
      split
      · exact Keeps.step requeue_keeps rfl (afterMiss_keeps _ _)
      · exact afterMiss_keeps _ _
    obtain ⟨t, hexec, rfl, honly⟩ := step_in_run (c := .replyWindowExpiry) (f := windowExpired) hrun rfl hkeeps
    rw [hwindow, hcount] at honly hexec
    cases transfer with
    | true =>
      obtain ⟨hself, hothers, hqueue⟩ := requeued_entries (y := requeue a (afterMiss a (quiet s.part))) missed_addr rfl he
      exact ⟨_, hexec, hothers, fun _ => ⟨honly, hself, hqueue⟩, fun h => absurd h (by omega)⟩
    | false =>
      obtain ⟨hself, hothers, hqueue⟩ := ended_entries (y := afterMiss a (quiet s.part)) missed_addr rfl he
      exact ⟨_, hexec, hothers, fun _ => ⟨honly, hself, hqueue⟩, fun h => absurd h (by omega)⟩
  · have hcount := countMiss_third (x := quiet s.part) he hthird transfer
    obtain ⟨t, hexec, rfl, honly⟩ := step_in_run (L := [.disp, .sensors, .events, .host]) (c := .replyWindowExpiry)
      (f := windowExpired) hrun rfl (by rw [hwindow, hcount]; exact absent_keeps _ _)
    obtain ⟨hself, hothers, hqueue⟩ := absent_entries (x := quiet s.part) he
    rw [hwindow, hcount] at honly hexec
    refine ⟨_, hexec, fun b hb => by rw [epAt_finish]; exact hothers b hb, fun h => absurd h (by omega), fun _ =>
      ⟨honly, by simp only [finish_latched]; exact setAbsent_latched .., by rw [epAt_finish]; exact hself, ?_, fun hseat => ?_⟩⟩
    · have hq := finish_queue (setAbsent a (afterMiss a (quiet s.part)))
      rwa [hqueue] at hq
    · simp only [finish_seat]
      exact setAbsent_sensor hseat _

/-- Settles O40: the three ends of a transfer. -/
theorem aTransferEndsInOneOfThreeWays : Obligations.ATransferEndsInOneOfThreeWays := by
  intro s a v e hrun hop he
  have hop' : (quiet s.part).disp.inFlight = some (.transfer v, a) := hop
  intro queue
  refine ⟨?same, fun w hw => ?other, ?window⟩
  case same =>
    obtain ⟨t, hexec, rfl, honly⟩ := step_in_run (L := [.disp]) (c := .ack a v) (f := ackArrives a v) hrun rfl
      (by rw [ackArrives_transfer hop']; exact ackTransfer_keeps)
    have hdisp := ackTransfer_same (v := v) (x := quiet s.part) he
    refine ⟨_, hexec, honly, ?_⟩
    rw [ackArrives_transfer hop']
    split at hdisp
    · next heq => rw [if_pos heq]; exact ended_entries (acked_addr _) hdisp he
    · next hne => rw [if_neg hne]; exact requeued_entries (acked_addr _) hdisp he
  case other =>
    obtain ⟨t, hexec, rfl, honly⟩ := step_in_run (L := [.disp]) (c := .ack a w) (f := ackArrives a w) hrun rfl
      (by rw [ackArrives_transfer hop']; exact ackTransfer_keeps)
    refine ⟨_, hexec, honly, ?_⟩
    rw [ackArrives_transfer hop']
    exact requeued_entries (acked_addr _) (ackTransfer_other hw) he
  case window =>
    obtain ⟨t, hexec, hothers, hbelow, hthird⟩ := step_of_miss hrun he (windowExpired_transfer hop')
    refine ⟨t, hexec, hothers, ?_⟩
    split
    · next hmiss => exact hbelow hmiss
    · next hmiss =>
      obtain ⟨honly, hlatched, hself, hqueue, -⟩ := hthird (Nat.le_of_not_lt hmiss)
      exact ⟨honly, hlatched, hself, hqueue⟩

end Sys2Proof.Proofs.Driver
end

section
/-! Polls and probes, and what the arbiter begins after an operation. -/
namespace Sys2Proof.Proofs.Driver
open Sys2Proof Sys2Proof.Machine Effects Requests Owners Events Rendering DisplayLine Journey

variable {s : State} {c : Instr} {x y z : Part} {d : Display} {L : List Block} {a b : EpAddr} {e : EpEntry} {v w : Nat}
  {held : Option Nat} {st : PollStatus}

/-! ### Readings -/

theorem sensorAt_sensorUpdate (c p : Nat) (f : Sensor → Sensor) (x : Part) (c' p' : Nat) :
    sensorAt (sensorUpdate c p f x).seat c' p' =
      if (c', p') = (c, p) then (sensorAt x.seat c' p').map f else sensorAt x.seat c' p' := by
  simp only [sensorAt, sensorUpdate_seat, getElem?_modifyAt, Prod.mk.injEq]
  by_cases hc : c = c'
  · subst hc
    rw [if_pos rfl]
    cases x.seat.sensors[c]? with
    | none => simp
    | some r =>
      simp only [Option.map_some, Option.bind_some, getElem?_modifyAt, true_and]
      simp only [eq_comm]
  · rw [if_neg hc, if_neg fun h => hc h.1.symm]

/-- The model's record after a reading is that of the table of R121. -/
theorem read_eq (q : Params) (level : Nat) (r : Sensor) : r.read q level = afterReading q level r := by
  obtain ⟨occupied, run, age, frozen⟩ := r
  cases occupied with
  | true =>
    by_cases hoff : level ≤ q.offThreshold
    · by_cases hrun : q.vacateHold + 1 ≤ run + 1
      · simp [Sensor.read, afterReading, hoff, hrun]
        omega
      · simp [Sensor.read, afterReading, hoff, hrun]
        omega
    · simp [Sensor.read, afterReading, hoff]
  | false =>
    by_cases hon : q.onThreshold ≤ level
    · by_cases hrun : 2 ≤ run + 1 <;> simp [Sensor.read, afterReading, hon, hrun]
    · simp [Sensor.read, afterReading, hon]

theorem pollReport_disp (c p : Nat) (occupied : Bool) (x : Part) : (pollReport c p occupied x).disp = x.disp := by
  unfold pollReport mapReleasing noteReleases
  dsimp only
  split <;> rfl

theorem takeReading_drawn (c p raw : Nat) (x : Part) : LineDrawn x (takeReading c p raw x) := by
  have hreport (o : Bool) (z : Part) (hz : z.disp = x.disp) : LineDrawn x (pollReport c p o z) :=
    Redrawn.of_eq ((pollReport_disp ..).trans hz)
  exact (hreport _ (sensorUpdate c p _ x) rfl).trans (refreshSeats_drawn _)

theorem readingOf_drawn (a : EpAddr) (st : PollStatus) (x : Part) : LineDrawn x (readingOf a st x) := by
  unfold readingOf
  split
  · split
    · exact takeReading_drawn ..
    · exact Redrawn.refl _
  · exact Redrawn.refl _

theorem readingOf_level {raw : Nat} (hseat : a.kind = .seat) (h : sensorFitted x.unit a.coach a.number = true) :
    readingOf a (.level raw) x = takeReading a.coach a.number raw x := by
  simp [readingOf, hseat, h]

theorem takeReading_sensor (c p raw : Nat) (x : Part) : sensorAt (takeReading c p raw x).seat c p =
    (sensorAt x.seat c p).map (afterReading x.host.params (min raw 63)) := by
  have hkeeps : Keeps [.tallies, .views, .legs, .seat, .panel, .disp, .host, .events]
      (sensorUpdate c p (Sensor.read x.host.params (min raw 63)) x) (takeReading c p raw x) :=
    Keeps.step refreshSeats_keeps rfl (Keeps.step pollReport_keeps rfl .refl)
  have hsensors : (takeReading c p raw x).seat.sensors =
      (sensorUpdate c p (Sensor.read x.host.params (min raw 63)) x).seat.sensors := hkeeps.all .sensors (by decide)
  have hat : sensorAt (takeReading c p raw x).seat c p =
      sensorAt (sensorUpdate c p (Sensor.read x.host.params (min raw 63)) x).seat c p := by
    rw [sensorAt, sensorAt, hsensors]
  rw [hat, sensorAt_sensorUpdate, if_pos rfl, funext (read_eq x.host.params (min raw 63))]

/-! ### A poll -/

/-- The entry after a poll that was answered. -/
def polled (x : Part) (a : EpAddr) (st : PollStatus) (lost : Bool) (e : EpEntry) : EpEntry :=
  { e with miss := 0, status := statusAfter x a st e.status, shown := if lost then none else e.shown }

theorem polled_addr (x : Part) (a : EpAddr) (st : PollStatus) (lost : Bool) (e : EpEntry) :
    (polled x a st lost e).addr = e.addr := rfl

/-- The part with the poll ended, before its reading is handed on. -/
def afterPoll (a : EpAddr) (st : PollStatus) (lost : Bool) (x : Part) : Part :=
  let s2 := onEntry a (polled x a st lost) (freeLine x)
  if lost then requeue a s2 else s2

theorem pollAnswered_eq (h : epAt x.disp a = some e) :
    pollAnswered a held st x = readingOf a st (afterPoll a st (contradicts e held) x) := by
  have hlost : ((epAt (freeLine x).disp a).map fun e => contradicts e held).getD false = contradicts e held := by
    have hfree : epAt (freeLine x).disp a = some e := h
    rw [hfree]
    rfl
  unfold pollAnswered
  dsimp only
  rw [hlost]
  rfl

theorem afterPoll_entry (lost : Bool) (b : EpAddr) : epAt (afterPoll a st lost x).disp b =
    if b = a then (epAt x.disp a).map (polled x a st lost) else epAt x.disp b := by
  have hended : epAt (afterPoll a st lost x).disp b = epAt (endAt a (polled x a st lost) x.disp) b := by
    unfold afterPoll
    dsimp only
    split
    · exact epAt_enqueue ..
    · rfl
  rw [hended]
  split
  · next h => rw [h, epAt_endAt_self _ (polled_addr x a st lost)]
  · next h => rw [epAt_endAt_ne h _ (polled_addr x a st lost)]

/-- What a redrawn line tells of an entry: all but its content version and rendering. -/
theorem entry_of_drawn (h : LineDrawn x y) (he : epAt x.disp a = some e) :
    ∃ e', epAt y.disp a = some e' ∧ e'.present = e.present ∧ e'.miss = e.miss ∧ e'.shown = e.shown ∧ e'.status = e.status := by
  have hentry := Redrawn.entry h a
  rw [he] at hentry
  obtain ⟨e', he', heq⟩ := Option.map_eq_some_iff.mp hentry
  exact ⟨e', he', (congrArg EpEntry.present heq :), (congrArg EpEntry.miss heq :), (congrArg EpEntry.shown heq :),
    (congrArg EpEntry.status heq :)⟩

theorem shown_polled (e : EpEntry) (held : Option Nat) : (if contradicts e held then none else e.shown) =
    if e.shown ≠ none ∧ e.shown ≠ held then none else e.shown := by
  simp [contradicts, Option.isSome_iff_ne_none]

theorem replyArrives_poll (h : x.disp.inFlight = some (.poll, a)) : replyArrives a held st x = pollAnswered a held st x := by
  simp [replyArrives, h]

theorem replyArrives_probe (h : x.disp.inFlight = some (.probe, a)) : replyArrives a held st x = probeAnswered a st x := by
  simp [replyArrives, h]

/-- A poll that is answered. -/
theorem step_of_poll (hrun : s.part.supply.mode = .run) (he : epAt s.part.disp a = some e)
    (hop : s.part.disp.inFlight = some (.poll, a)) : ∃ t e', exec (.pollReply a held st) s = .next t ∧
      Only [.disp, .sensors, .legs, .views, .tallies, .seat, .panel, .events, .host] s t ∧
      epAt t.part.disp a = some e' ∧ e'.present = e.present ∧ e'.miss = 0 ∧
      e'.shown = (if e.shown ≠ none ∧ e.shown ≠ held then none else e.shown) ∧
      e'.status = statusAfter s.part a st e.status ∧
      (∀ b y, b ≠ a → epAt s.part.disp b = some y → ∃ y', epAt t.part.disp b = some y' ∧ y'.present = y.present ∧
        y'.miss = y.miss ∧ y'.shown = y.shown ∧ y'.status = y.status) ∧
      (∀ raw, st = .level raw → a.kind = .seat → sensorFitted s.part.unit a.coach a.number = true →
        sensorAt t.part.seat a.coach a.number =
          (sensorAt s.part.seat a.coach a.number).map (afterReading s.part.host.params (min raw 63))) := by
  have hop' : (quiet s.part).disp.inFlight = some (.poll, a) := hop
  have he' : epAt (quiet s.part).disp a = some e := he
  have hreply : replyArrives a held st (quiet s.part) =
      readingOf a st (afterPoll a st (contradicts e held) (quiet s.part)) :=
    (replyArrives_poll hop').trans (pollAnswered_eq he')
  obtain ⟨t, hexec, rfl, honly⟩ := step_in_run (c := .pollReply a held st) (f := replyArrives a held st) hrun rfl
    replyArrives_keeps
  rw [hreply] at hexec honly
  have hdrawn := readingOf_drawn a st (afterPoll a st (contradicts e held) (quiet s.part))
  have hself := afterPoll_entry (x := quiet s.part) (a := a) (st := st) (contradicts e held) a
  rw [if_pos rfl, he'] at hself
  obtain ⟨e', hat, hpresent, hmiss, hshown, hstatus⟩ := entry_of_drawn hdrawn hself
  refine ⟨_, e', hexec, only_mono honly rfl, by rw [epAt_finish]; exact hat, hpresent, hmiss,
    hshown.trans (shown_polled e held), hstatus, fun b y hb hy => ?others, fun raw hraw hseat hfitted => ?reading⟩
  case others =>
    have hother := afterPoll_entry (x := quiet s.part) (a := a) (st := st) (contradicts e held) b
    rw [if_neg hb] at hother
    obtain ⟨y', hat', hrest⟩ := entry_of_drawn hdrawn (hother.trans hy)
    exact ⟨y', by rw [epAt_finish]; exact hat', hrest⟩
  case reading =>
    subst hraw
    have hafter (lost : Bool) : (afterPoll a (.level raw) lost (quiet s.part)).seat = s.part.seat ∧
        (afterPoll a (.level raw) lost (quiet s.part)).unit = s.part.unit ∧
        (afterPoll a (.level raw) lost (quiet s.part)).host = s.part.host := by
      unfold afterPoll
      cases lost <;> exact ⟨rfl, rfl, rfl⟩
    obtain ⟨hseat', hunit', hhost'⟩ := hafter (contradicts e held)
    have htaken : readingOf a (.level raw) (afterPoll a (.level raw) (contradicts e held) (quiet s.part)) =
        takeReading a.coach a.number raw (afterPoll a (.level raw) (contradicts e held) (quiet s.part)) := by
      exact readingOf_level hseat (by rw [hunit']; exact hfitted)
    simp only [finish_seat]
    rw [htaken, takeReading_sensor, hseat', hhost']

/-! ### A probe -/

/-- The entry of an endpoint that returned. -/
def returned (x : Part) (a : EpAddr) (st : PollStatus) (e : EpEntry) : EpEntry :=
  { e with present := true, miss := 0, shown := none, probeTime := none, probeDue := false, status := statusAfter x a st e.status }

theorem returned_addr (x : Part) (a : EpAddr) (st : PollStatus) (e : EpEntry) : (returned x a st e).addr = e.addr := rfl

theorem probeAnswered_disp (a : EpAddr) (st : PollStatus) (x : Part) :
    (probeAnswered a st x).disp = enqueue a (endAt a (returned x a st) x.disp) := by
  rw [probeAnswered, latch_disp]
  split <;> rfl

theorem probeAnswered_sensor (h : a.kind = .seat) (st : PollStatus) (x : Part) :
    sensorAt (probeAnswered a st x).seat a.coach a.number = (sensorAt x.seat a.coach a.number).map Sensor.unfreeze := by
  rw [probeAnswered, latch_seat, if_pos (by simp [h]), sensorAt_sensorUpdate, if_pos rfl]
  rfl

/-- The entry of a probe that nothing answered. -/
def unanswered (e : EpEntry) : EpEntry := { e with probeDue := false, probeTime := some 5 }

theorem unanswered_addr (e : EpEntry) : (unanswered e).addr = e.addr := rfl

theorem probeMissed_disp (a : EpAddr) (x : Part) : (probeMissed a x).disp = endAt a unanswered x.disp := rfl

/-- A probe that is answered. -/
theorem step_of_probe (hrun : s.part.supply.mode = .run) (he : epAt s.part.disp a = some e)
    (hop : s.part.disp.inFlight = some (.probe, a)) : ∃ t, exec (.pollReply a held st) s = .next t ∧
      Only [.disp, .sensors, .events, .host] s t ∧ (∀ b, b ≠ a → epAt t.part.disp b = epAt s.part.disp b) ∧
      epAt t.part.disp a = some (returned s.part a st e) ∧ QueueBegun (tailed a s.part.disp.queue) t.part ∧
      t.part.host.latched.getLsbD 12 = true ∧
      (a.kind = .seat → sensorAt t.part.seat a.coach a.number =
        (sensorAt s.part.seat a.coach a.number).map Sensor.unfreeze) := by
  have hop' : (quiet s.part).disp.inFlight = some (.probe, a) := hop
  have hreply : replyArrives a held st (quiet s.part) = probeAnswered a st (quiet s.part) := replyArrives_probe hop'
  obtain ⟨t, hexec, rfl, honly⟩ := step_in_run (L := [.sensors, .disp, .host, .events]) (c := .pollReply a held st)
    (f := replyArrives a held st) hrun rfl (by rw [hreply]; exact probeAnswered_keeps)
  rw [hreply] at hexec honly
  obtain ⟨hself, hothers, hqueue⟩ := requeued_entries (returned_addr (quiet s.part) a st)
    (probeAnswered_disp a st (quiet s.part)) he
  refine ⟨_, hexec, only_mono honly rfl, hothers, hself, hqueue, ?_, fun hseat => ?_⟩
  · simp only [finish_latched]
    exact latched_of_latch (.inr (by decide))
  · simp only [finish_seat]
    exact probeAnswered_sensor hseat st _

/-! ### A probe time -/

theorem dueWith_eq (d : Display) (n : Nat) (haddr : e.addr = a) (hn : e.probeTime = some n) : dueWith d e =
    if n = 0 then (d.table.filter fun y => !y.present && y.probeTime == some 0 && !y.probeDue).map (·.addr) else [a] := by
  have hruns (y : EpEntry) : (probeRuns y && y.probeTime == some 0) = (!y.present && y.probeTime == some 0 && !y.probeDue) := by
    cases hy : y.probeTime with
    | none => simp [probeRuns, hy]
    | some k => simp [probeRuns, hy, Bool.and_right_comm]
  by_cases h0 : n = 0
  · simp only [dueWith, hn, h0, hruns, beq_self_eq_true, if_true]
  · simp [dueWith, hn, h0, haddr]

/-- An endpoint whose probe time runs out falls due itself. -/
theorem mem_dueWith_self {n : Nat} (he : epAt d a = some e) (habsent : e.present = false) (hn : e.probeTime = some n)
    (hdue : e.probeDue = false) : a ∈ dueWith d e := by
  have haddr : e.addr = a := by simpa using List.find?_some he
  rw [dueWith_eq d n haddr hn]
  split
  · next h0 =>
    refine List.mem_map.mpr ⟨e, List.mem_filter.mpr ⟨List.mem_of_find?_eq_some he, ?_⟩, haddr⟩
    simp [habsent, hn, h0, hdue]
  · exact List.mem_singleton_self a

theorem probeFallsDue_of_epAt (h : epAt x.disp a = some e) (hr : probeRuns e = true) :
    probeFallsDue a x = onDisp (fallDue (dueWith x.disp e)) x := by
  simp [probeFallsDue, h, hr]

/-- A probe time that ends. -/
theorem step_of_probeTime {n : Nat} (hrun : s.part.supply.mode = .run) (he : epAt s.part.disp a = some e)
    (habsent : e.present = false) (hn : e.probeTime = some n) (hdue : e.probeDue = false) :
    ∃ t, exec (.probeTimeExpiry a) s = .next t ∧ Only [.disp] s t ∧
      t.part.disp.table = (s.part.disp.table.map fun y =>
        if y.addr ∈ dueWith s.part.disp e then { y with probeDue := true, probeTime := some 0 } else y) ∧
      (t.part.disp.probes = s.part.disp.probes ++ dueWith s.part.disp e ∨
        ∃ b, s.part.disp.probes ++ dueWith s.part.disp e = b :: t.part.disp.probes ∧
          t.part.disp.inFlight = some (.probe, b)) := by
  have hfalls : probeFallsDue a (quiet s.part) = onDisp (fallDue (dueWith s.part.disp e)) (quiet s.part) :=
    probeFallsDue_of_epAt (x := quiet s.part) he (by simp [probeRuns, habsent, hn, hdue])
  obtain ⟨t, hexec, rfl, honly⟩ := step_in_run (L := [.disp]) (c := .probeTimeExpiry a) (f := probeFallsDue a) hrun rfl
    probeFallsDue_keeps
  rw [hfalls] at hexec honly
  refine ⟨_, hexec, honly, ?_, finish_probes (onDisp (fallDue (dueWith s.part.disp e)) (quiet s.part))⟩
  rw [finish_table]
  simp only [onDisp_disp, fallDue, List.contains_iff_mem, probeDueEntry]
  rfl

/-- Settles O41: polls and probes end with a reply or at their window, and a probe time falls due. -/
theorem pollsAndProbesEnd : Obligations.PollsAndProbesEnd := by
  intro s a e hrun he
  refine ⟨fun hop => ⟨fun held st => step_of_poll hrun he hop, ?missedPoll⟩, fun hop => ⟨fun held st => step_of_probe hrun he hop,
    ?missedProbe⟩, fun n habsent hn hdue => ?due⟩
  case missedPoll =>
    have hop' : (quiet s.part).disp.inFlight = some (.poll, a) := hop
    obtain ⟨t, hexec, hothers, hbelow, hthird⟩ := step_of_miss hrun he (windowExpired_poll hop')
    refine ⟨t, hexec, hothers, fun hmiss => ?_, fun hmiss => ?_⟩
    · obtain ⟨honly, hself, -⟩ := hbelow hmiss
      exact ⟨honly, hself⟩
    · obtain ⟨honly, hlatched, hself, -, hsensor⟩ := hthird hmiss
      exact ⟨honly, hlatched, hself, hsensor⟩
  case missedProbe =>
    have hwindow : windowExpired (quiet s.part) = probeMissed a (quiet s.part) := windowExpired_probe hop
    obtain ⟨t, hexec, rfl, honly⟩ := step_in_run (L := [.disp]) (c := .replyWindowExpiry) (f := windowExpired) hrun rfl
      (by rw [hwindow]; exact probeMissed_keeps)
    rw [hwindow] at hexec honly
    obtain ⟨hself, hothers, -⟩ := ended_entries unanswered_addr (probeMissed_disp a (quiet s.part)) he
    exact ⟨_, hexec, honly, hothers, hself⟩
  case due =>
    have haddr : e.addr = a := by simpa using List.find?_some he
    obtain ⟨t, hexec, honly, htable, hprobes⟩ := step_of_probeTime hrun he habsent hn hdue
    have hmem := mem_dueWith_self he habsent hn hdue
    rw [dueWith_eq s.part.disp n haddr hn] at htable hprobes hmem
    exact ⟨t, hexec, honly, hmem, htable, hprobes⟩

/-! ### What the arbiter begins -/

/-- The driver with the line freed and the one entry of an address replaced. -/
theorem endAt_single {f : EpEntry → EpEntry} (hone : (d.table.filter fun x => x.addr == a) = [e]) : endAt a f d =
    { d with inFlight := none, table := d.table.map fun x => if x.addr = a then f e else x } := by
  have hmap : (d.table.map fun x => if x.addr == a then f x else x) = d.table.map fun x => if x.addr = a then f e else x := by
    refine List.map_congr_left fun x hx => ?_
    by_cases hxa : x.addr = a
    · have hmem : x ∈ d.table.filter fun x => x.addr == a := List.mem_filter.mpr ⟨hx, by simpa using hxa⟩
      rw [hone, List.mem_singleton] at hmem
      simp [hmem]
    · simp [hxa]
  simp only [endAt, epUpdate, hmap]

theorem epAt_single (hone : (d.table.filter fun x => x.addr == a) = [e]) : epAt d a = some e := by
  rw [epAt, ← List.head?_filter, hone]
  rfl

/-- A command in RUN that ends an operation lets the arbiter begin the next one. -/
theorem step_begins {f : Part → Part} {g : EpEntry → EpEntry} (hrun : s.part.supply.mode = .run)
    (hone : (s.part.disp.table.filter fun x => x.addr == a) = [e])
    (hc : effect c (quiet s.part) = inRun f (quiet s.part)) (hkeeps : Keeps [.disp] (quiet s.part) (f (quiet s.part)))
    (hout : (f (quiet s.part)).out = {}) (hdisp : (f (quiet s.part)).disp = endAt a g s.part.disp) :
    ∃ t, exec c s = .next t ∧ SentFor t.part ∧ LineBegun
      { s.part.disp with inFlight := none, table := s.part.disp.table.map fun x => if x.addr = a then g e else x }
      t.part.disp := by
  obtain ⟨t, hexec, rfl, -⟩ := step_in_run hrun hc hkeeps
  have hrun' : isRun (f (quiet s.part)) = true :=
    (isRun_congr (supply_of_keeps hkeeps (by decide))).trans (isRun_quiet hrun)
  obtain ⟨hsent, hline⟩ := finish_begins hrun' (by rw [hdisp]; rfl) (by rw [hout])
  rw [hdisp, endAt_single hone] at hline
  exact ⟨_, hexec, hsent, hline⟩

/-- Settles O42: an ended operation lets the arbiter begin, by its turn and the rotation. -/
theorem theArbiterAlternatesAndPollsInRotation : Obligations.TheArbiterAlternatesAndPollsInRotation := by
  intro s a e hrun hone ended
  have he : epAt s.part.disp a = some e := epAt_single hone
  refine ⟨fun hop => ?transfer, fun hop hmiss => ?poll, fun hop => ?probe⟩
  case transfer =>
    have hack : ackArrives a e.content (quiet s.part) = ackTransfer a e.content e.content (quiet s.part) :=
      ackArrives_transfer hop
    have hdisp := ackTransfer_same (v := e.content) (x := quiet s.part) he
    rw [if_pos rfl] at hdisp
    refine step_begins (c := .ack a e.content) (f := ackArrives a e.content) (g := acked (some e.content)) hrun hone rfl
      ackArrives_keeps ?_ (by rw [hack]; exact hdisp)
    rw [hack, ackTransfer, if_pos rfl]
    dsimp only
    split <;> rfl
  case poll =>
    have hcount : windowExpired (quiet s.part) = afterMiss a (quiet s.part) :=
      (windowExpired_poll (x := quiet s.part) hop).trans (countMiss_below (x := quiet s.part) he (by omega) false)
    exact step_begins (c := .replyWindowExpiry) (f := windowExpired) (g := missed) hrun hone rfl
      (by rw [hcount]; exact afterMiss_keeps _ _) (by rw [hcount]; rfl) (by rw [hcount]; rfl)
  case probe =>
    have hwindow : windowExpired (quiet s.part) = probeMissed a (quiet s.part) := windowExpired_probe hop
    exact step_begins (c := .replyWindowExpiry) (f := windowExpired) (g := unanswered) hrun hone rfl
      (by rw [hwindow]; exact probeMissed_keeps) (by rw [hwindow]; rfl) (by rw [hwindow]; rfl)

end Sys2Proof.Proofs.Driver
end

section
/-! The notice slots through the Composer's re-evaluation, and the times of seats and panels. -/
namespace Sys2Proof.Proofs.Slots
open Sys2Proof Sys2Proof.Machine Effects Requests Owners Events Rendering DisplayLine Journey Driver

variable {s : State} {c : Instr} {x y z : Part} {q : Panels} {L : List Block} {l : NoticeLevel} {i j : Nat}

/-! ### Reading and writing slots -/

theorem slotAt_eq (q : Panels) (l : NoticeLevel) (i : Nat) : slotAt q l i = ((slotsOf q l)[i]?).join := by
  cases l <;> rfl

theorem slotsOf_setSlots (q : Panels) (l l' : NoticeLevel) (v : List (Option Slot)) :
    slotsOf (setSlots q l v) l' = if l' = l then v else slotsOf q l' := by
  cases l <;> cases l' <;> rfl

/-- A slot within its level, written. -/
theorem slotAt_putSlot (hi : i < (slotsOf x.panel l).length) (v : Option Slot) (l' : NoticeLevel) (j : Nat) :
    slotAt (putSlot l i v x).panel l' j = if (l', j) = (l, i) then v else slotAt x.panel l' j := by
  simp only [slotAt_eq, putSlot, slotsOf_setSlots, Prod.mk.injEq]
  by_cases hl : l' = l
  · subst hl
    by_cases hj : j = i
    · subst hj
      simp [hi]
    · have hne : i ≠ j := fun h => hj h.symm
      simp [hj, hne]
  · simp [hl]

theorem lt_of_slotAt {v : Slot} (h : slotAt q l i = some v) : i < (slotsOf q l).length := by
  rw [slotAt_eq] at h
  by_contra hge
  rw [List.getElem?_eq_none (Nat.le_of_not_lt hge)] at h
  exact absurd h nofun

/-- What a slot holds beside its rotation. -/
def bare (v : Slot) : Slot := { v with rotation := {} }

/-- Putting rotations in use and refreshing them leaves every notice. -/
theorem bare_useSlots (s s' : Part) (f : Nat → Bool) (b : Bool) (slots : List (Option Slot)) (i : Nat) :
    (((useSlots s f (refreshSlots s' b slots))[i]?).join).map bare = ((slots[i]?).join).map bare := by
  simp only [useSlots, refreshSlots, mapFrom_eq_map_zipIdx, List.getElem?_map, List.getElem?_zipIdx]
  cases slots[i]? with
  | none => rfl
  | some v => cases v <;> rfl

theorem bare_reevaluate (x : Part) (l : NoticeLevel) (i : Nat) :
    (slotAt (reevaluate x) l i).map bare = (slotAt x.panel l i).map bare := by
  cases l
  · exact bare_useSlots ..
  · exact bare_useSlots ..

/-! ### The Composer's state after its steps -/

theorem composer_panel (cause : Cause) (x : Part) : (composer cause x).panel = reevaluate x := by
  unfold composer
  dsimp only
  split <;> rfl

theorem lightAndCompose_panel (cause : Cause) (x : Part) :
    (lightAndCompose cause x).panel = reevaluate (setBrightness (litBrightness x) x) := composer_panel ..

theorem slotAt_followStabling (b : Bool) (x : Part) (l : NoticeLevel) (i : Nat) :
    slotAt (followStabling b x).panel l i = slotAt x.panel l i := by cases l <;> rfl

/-- What follows a filling or emptying of slots leaves every notice as it was written. -/
theorem bare_afterSlots (b : Bool) (filled : Option (NoticeLevel × Nat)) (x : Part) (l : NoticeLevel) (i : Nat) :
    (slotAt (afterSlots b filled x).panel l i).map bare = (slotAt x.panel l i).map bare := by
  unfold afterSlots
  dsimp only
  rw [slotAt_followStabling]
  split
  · rw [lightAndCompose_panel, bare_reevaluate]
    cases l <;> rfl
  · rw [composer_panel, bare_reevaluate]

theorem slotAt_afterSlots_eq_none_iff (b : Bool) (filled : Option (NoticeLevel × Nat)) (x : Part) :
    slotAt (afterSlots b filled x).panel l i = none ↔ slotAt x.panel l i = none := by
  rw [← Option.map_eq_none_iff (f := bare), bare_afterSlots, Option.map_eq_none_iff]

/-- An occupied slot emptied. -/
theorem vacate_eq {v : Slot} (h : slotAt x.panel l i = some v) : vacate l i x = onText (release v.handle) (putSlot l i none x) := by
  rw [vacate, h]

theorem slotAt_vacate {v : Slot} (h : slotAt x.panel l i = some v) (l' : NoticeLevel) (j : Nat) :
    slotAt (vacate l i x).panel l' j = if (l', j) = (l, i) then none else slotAt x.panel l' j := by
  rw [vacate_eq h]
  exact slotAt_putSlot (lt_of_slotAt h) none l' j

theorem emptySlot_slots {v : Slot} (h : slotAt x.panel l i = some v) (l' : NoticeLevel) (j : Nat) :
    (slotAt (emptySlot l i x).panel l' j).map bare =
      if (l', j) = (l, i) then none else (slotAt x.panel l' j).map bare := by
  rw [emptySlot, bare_afterSlots, slotAt_vacate h]
  split <;> rfl

theorem emptySlot_none {v : Slot} (h : slotAt x.panel l i = some v) : slotAt (emptySlot l i x).panel l i = none := by
  have hslot := emptySlot_slots h l i
  rwa [if_pos rfl, Option.map_eq_none_iff] at hslot

theorem emptySlot_text {v : Slot} (h : slotAt x.panel l i = some v) : (emptySlot l i x).text = release v.handle x.text := by
  rw [emptySlot, text_of_keeps afterSlots_keeps (by decide), vacate_eq h]
  rfl

/-! ### The end of a dwell -/

theorem rotationAt_setRotation {r : Context} {ctx : ContextId} (h : rotationAt q ctx = some r) (r' : Context) :
    rotationAt (setRotation q r' ctx) ctx = some r' := by
  cases ctx with
  | level lv => cases lv <;> rfl
  | slot l i =>
    obtain ⟨v, hv, rfl⟩ := Option.map_eq_some_iff.mp h
    have hv' : ((slotsOf q l)[i]?).join = some v := slotAt_eq q l i ▸ hv
    have hget : (slotsOf q l)[i]? = some (some v) := Option.join_eq_some_iff.mp hv'
    simp only [rotationAt, setRotation, slotAt_eq, slotsOf_setSlots, if_true, getElem?_modifyAt, hget]
    rfl

theorem advance_pages (x : Part) (r : Context) : (advance x r).pages = r.pages ∧
    (advance x r).dwell = x.host.params.pageDwell := by
  unfold advance
  split
  · exact ⟨rfl, rfl⟩
  · split <;> exact ⟨rfl, rfl⟩

/-- The next language of the page, else the next page, wrapping, in its lowest language. -/
theorem advance_page {r : Context} {pg : Page} (h : r.pages[r.index]? = some pg) :
    match (languages x pg).find? (fun k => decide (r.lang < k)) with
    | some k => (advance x r).index = r.index ∧ (advance x r).lang = k
    | none => (advance x r).index = (if r.index + 1 < r.pages.length then r.index + 1 else 0) ∧
        ∀ p, r.pages[(advance x r).index]? = some p → (advance x r).lang = lowestLang x p := by
  cases hfind : (languages x pg).find? (fun k => decide (r.lang < k)) with
  | some k => simp [advance, h, hfind]
  | none =>
    have hadv : advance x r = { r with
        index := if r.index + 1 < r.pages.length then r.index + 1 else 0
        lang := langAt x r.pages (if r.index + 1 < r.pages.length then r.index + 1 else 0)
        dwell := x.host.params.pageDwell } := by simp [advance, h, hfind]
    refine ⟨by rw [hadv], fun p hp => ?_⟩
    rw [hadv] at hp ⊢
    simp [langAt, hp]

/-! ### The four times -/

theorem step_of_evidence (hrun : s.part.supply.mode = .run) {v : Sensor} {k p : Nat} (h : sensorAt s.part.seat k p = some v) :
    ∃ t, exec (.evidenceAgeExpiry k p) s = .next t ∧ Only [.sensors] s t ∧
      sensorAt t.part.seat k p = some { v with age := none } ∧
      (∀ k' p', (k', p') ≠ (k, p) → sensorAt t.part.seat k' p' = sensorAt s.part.seat k' p') := by
  have heffect : effect (.evidenceAgeExpiry k p) (quiet s.part) =
      sensorUpdate k p (fun v => { v with age := none }) (quiet s.part) := if_pos (isRun_quiet hrun)
  obtain ⟨t, hexec, rfl, honly⟩ := step_of_effect (L := [.sensors]) heffect sensorUpdate_keeps
  have hseat (k' p' : Nat) : sensorAt (finish (sensorUpdate k p (fun v => { v with age := none }) (quiet s.part))).seat k' p' =
      if (k', p') = (k, p) then (sensorAt s.part.seat k' p').map (fun v => { v with age := none })
      else sensorAt s.part.seat k' p' := by
    rw [finish_seat]
    exact sensorAt_sensorUpdate ..
  refine ⟨_, hexec, honly, ?_, fun k' p' hne => ?_⟩
  · rw [hseat, if_pos rfl, h]
    rfl
  · rw [hseat, if_neg hne]

theorem step_of_dwell (hrun : s.part.supply.mode = .run) {r : Context} {ctx : ContextId}
    (hlit : s.part.panel.brightness ≠ .dark) (h : rotationAt s.part.panel ctx = some r) (huse : r.inUse = true) :
    ∃ t, exec (.dwellExpiry ctx) s = .next t ∧ Only [.panel, .disp] s t ∧
      rotationAt t.part.panel ctx = some (advance s.part r) := by
  have hrun' := isRun_quiet hrun
  have heffect : effect (.dwellExpiry ctx) (quiet s.part) = dwellEnds ctx (quiet s.part) := rfl
  obtain ⟨t, hexec, rfl, honly⟩ := step_of_effect (L := [.panel, .disp]) heffect dwellEnds_keeps
  refine ⟨_, hexec, honly, ?_⟩
  have hpanel : (dwellEnds ctx (quiet s.part)).panel = setRotation s.part.panel (advance (quiet s.part) r) ctx := by
    have hat : rotationAt (quiet s.part).panel ctx = some r := h
    have hcond : (isRun (quiet s.part) && (quiet s.part).panel.brightness != .dark && r.inUse) = true := by
      simp [hrun', hlit, huse]
    unfold dwellEnds
    rw [hat]
    dsimp only
    rw [if_pos hcond]
    rfl
  rw [finish_panel, hpanel]
  exact rotationAt_setRotation h _

theorem step_of_notice (hrun : s.part.supply.mode = .run ∨ s.part.supply.mode = .breakHold) {v : Slot} {n : Nat}
    (h : slotAt s.part.panel l i = some v) (hn : v.remaining = some n) :
    ∃ t, exec (.noticeExpiry l i) s = .next t ∧ Only [.text, .panel, .disp, .events, .host] s t ∧
      slotAt t.part.panel l i = none ∧ t.part.text = release v.handle s.part.text ∧
      t.part.host.latched.getLsbD 13 = true := by
  have h' : slotAt (quiet s.part).panel l i = some v := h
  have hcond : (noticesRun (quiet s.part) && ((slotAt (quiet s.part).panel l i).bind (·.remaining)).isSome) = true := by
    rw [h']
    obtain hm | hm := hrun
    · simp [noticesRun, isRun_quiet hm, hn]
    · simp [noticesRun, hm, hn]
  have heffect : effect (.noticeExpiry l i) (quiet s.part) = latch .noticeExpired (emptySlot l i (quiet s.part)) := if_pos hcond
  obtain ⟨t, hexec, rfl, honly⟩ := step_of_effect (L := [.text, .panel, .disp, .events, .host]) heffect
    (Keeps.step latch_keeps rfl (Keeps.step emptySlot_keeps rfl .refl))
  refine ⟨_, hexec, honly, ?_, ?_, ?_⟩
  · rw [finish_panel, latch_eq]
    exact emptySlot_none h'
  · rw [finish_text, latch_eq]
    exact emptySlot_text h'
  · rw [finish_latched]
    exact latched_of_latch (.inr (by decide))

theorem step_of_stabling (hrun : s.part.supply.mode = .run) {n : Nat} (h : s.part.panel.stabling = some n) :
    ∃ t, exec .stablingExpiry s = .next t ∧ Only [.panel, .disp] s t ∧ t.part.panel.brightness = .dark ∧
      t.part.panel.stabling = none := by
  have hcond : (isRun (quiet s.part) && (quiet s.part).panel.stabling.isSome) = true := by simp [isRun_quiet hrun, h]
  have heffect : effect .stablingExpiry (quiet s.part) = composer { all := (quiet s.part).panel.brightness != .dark }
      { quiet s.part with panel := { (quiet s.part).panel with stabling := none, brightness := .dark } } := if_pos hcond
  obtain ⟨t, hexec, rfl, honly⟩ := step_of_effect (L := [.panel, .disp]) heffect
    (Keeps.step composer_keeps rfl (Keeps.step panel_keeps rfl .refl))
  refine ⟨_, hexec, honly, ?_, ?_⟩
  · rw [finish_panel, composer_panel]
    rfl
  · rw [finish_panel, composer_panel]
    rfl

/-- Settles O43: the four times of seats and panels. -/
theorem timesOfSeatsAndPanelsAct : Obligations.TimesOfSeatsAndPanelsAct := by
  refine ⟨fun s k p v hrun h => step_of_evidence hrun h, fun s ctx r hrun hlit h huse => ?dwell,
    fun s l i n v hrun h hn => step_of_notice hrun h hn, fun s n hrun h => step_of_stabling hrun h⟩
  case dwell =>
    obtain ⟨t, hexec, honly, hat⟩ := step_of_dwell hrun hlit h huse
    obtain ⟨hpages, hdwell⟩ := advance_pages s.part r
    exact ⟨t, _, hexec, honly, hat, hpages, hdwell, fun pg hpg => advance_page hpg⟩

end Sys2Proof.Proofs.Slots
end

section
/-! NOTICE-RAISE and NOTICE-CLEAR: slots, texts and forwards. -/
namespace Sys2Proof.Proofs.Notices
open Sys2Proof Sys2Proof.Machine Effects Requests ConfigGet Owners Events Rendering Journey Driver Slots

variable {s : State} {x y z : Part} {q : Panels} {L : List Block} {l : NoticeLevel} {i j : Nat} {tag : Byte} {req : RaiseReq}

/-! ### Requests that wait -/

section
variable {α : Type} {c : Instr} {kind : Byte} {b : α} {owner : α → Part → Part × Reply}

/-- The entry of a tag marked as waiting. -/
def marked (tag : Byte) (x : Part) : Part :=
  onHost (fun h => { h with inFlight := h.inFlight.map fun e => if e.tag == tag then { e with phase := .waiting } else e }) x

theorem marked_keeps (tag : Byte) (x : Part) : Keeps [.host] x (marked tag x) := onHostBut_keeps rfl rfl

/-- A request that waits for a later event, with what its owner changes. -/
theorem step_of_waiting (h : Accepts s tag)
    (hc : effect c (quiet s.part) = hostRequest kind tag (some b) owner (quiet s.part))
    (ho : owner b (handed kind tag s.part) = (y, .wait)) (hy : Leaves L (handed kind tag s.part) y) :
    ∃ t, exec c s = .next t ∧ t = { s with part := finish (marked tag y) } ∧ Waits s t kind tag ∧ Only (.host :: L) s t := by
  have heffect : effect c (quiet s.part) = marked tag y := by
    rw [hc, hostRequest_accepts h]
    unfold handRequest
    dsimp only
    rw [← handed, ho]
    rfl
  refine ⟨_, by rw [exec_eq, after, heffect], rfl, ?_, ?_⟩
  · have hfinish : (finish (marked tag y)).host.inFlight = (marked tag y).host.inFlight := by rw [finish_eq]
    obtain ⟨-, -, hfresh⟩ := h
    have hold : s.part.host.inFlight.map (fun e => if e.tag == tag then { e with phase := .waiting } else e) =
        s.part.host.inFlight :=
      (List.map_congr_left fun e he => if_neg (by simpa using hfresh e he)).trans (List.map_id _)
    have hentries : (marked tag y).host.inFlight = (s.part.host.inFlight ++ [InFlight.mk tag kind .handed]).map
        (fun e : InFlight => if e.tag == tag then { e with phase := .waiting } else e) := congrArg (List.map _) hy.inFlight
    refine hfinish.trans (hentries.trans ?_)
    rw [List.map_append, hold]
    simp
  · refine Keeps.only (f := fun _ => marked tag y) (Keeps.step (marked_keeps tag y) (by simp) ?_)
    refine Keeps.step hy.keeps ?_ (Keeps.step handed_keeps (by simp) .refl)
    simp [List.all_eq_true]
    tauto

end

/-! ### Destinations -/

theorem mem_once {u : Nat} {us : List Nat} : u ∈ once us ↔ u ∈ us := by
  induction us with
  | nil => rfl
  | cons a us ih =>
    simp only [once, List.mem_cons, List.mem_filter, ih, bne_iff_ne]
    by_cases h : u = a <;> simp [h]

theorem once_nodup (us : List Nat) : (once us).Nodup := by
  induction us with
  | nil => exact List.nodup_nil
  | cons a us ih => exact List.nodup_cons.mpr ⟨by simp, ih.filter _⟩

theorem destinations_spec (x : Part) (t : Targets) : (destinations x t).Nodup ∧
    ∀ u, u ∈ destinations x t ↔ ∃ e ∈ otherUnits x, e.unitId = u ∧ match t with
      | .all => True
      | .unit => False
      | .coaches ns => ∃ b ∈ e.booked, b ∈ ns := by
  refine ⟨once_nodup _, fun u => ?_⟩
  simp only [destinations, mem_once, List.mem_map, List.mem_filter]
  cases t with
  | all => simp [reaches]
  | unit => simp [reaches]
  | coaches ns =>
    simp only [reaches, List.any_eq_true, List.contains_iff_mem]
    constructor
    · rintro ⟨e, ⟨he, hb⟩, rfl⟩
      exact ⟨e, he, rfl, hb⟩
    · rintro ⟨e, he, rfl, hb⟩
      exact ⟨e, ⟨he, hb⟩, rfl⟩

theorem clearDestinations_spec (x : Part) : (clearDestinations x).Nodup ∧
    ∀ u, u ∈ clearDestinations x ↔ ∃ e ∈ otherUnits x, e.unitId = u :=
  ⟨once_nodup _, fun u => by simp only [clearDestinations, mem_once, List.mem_map]⟩

/-! ### Slots filled and emptied leave the rest of the part -/

theorem composer_eq (cause : Cause) (x : Part) :
    composer cause x = { x with panel := (composer cause x).panel, disp := (composer cause x).disp } := by
  unfold composer
  dsimp only
  split <;> rfl

theorem afterSlots_eq (b : Bool) (filled : Option (NoticeLevel × Nat)) (x : Part) : afterSlots b filled x =
    { x with panel := (afterSlots b filled x).panel, disp := (afterSlots b filled x).disp } := by
  have hlit (cause : Cause) : lightAndCompose cause x =
      { x with panel := (lightAndCompose cause x).panel, disp := (lightAndCompose cause x).disp } := composer_eq ..
  unfold afterSlots
  dsimp only
  split
  · rw [hlit]
    rfl
  · rw [composer_eq]
    rfl

theorem firstEmpty_spec {slots : List (Option Slot)} (h : firstEmpty slots = some i) :
    i < slots.length ∧ slots[i]? = some none := by
  induction slots generalizing i with
  | nil => exact absurd h nofun
  | cons a slots ih =>
    cases a with
    | none =>
      obtain rfl : 0 = i := Option.some.inj h
      simp
    | some v =>
      obtain ⟨k, hk, rfl⟩ := Option.map_eq_some_iff.mp h
      simpa using ih hk

/-- The notice of a raise as its slot holds it. -/
theorem placeLocal_slots (h : firstEmpty (slotsOf x.panel (raiseLevel req)) = some i) (l : NoticeLevel) (j : Nat) :
    (slotAt (placeLocal req x).panel l j).map bare = if (l, j) = (raiseLevel req, i) then
        some { origin := none, noticeId := req.noticeId, subPriority := req.subPriority, targets := raiseTargets req
               handle := req.handle, duration := req.duration
               remaining := if req.duration = 0 then none else some req.duration, rotation := {} }
      else (slotAt x.panel l j).map bare := by
  rw [placeLocal, h]
  dsimp only
  rw [bare_afterSlots, fillSlot, slotAt_putSlot (x := onText (retain req.handle) x) (firstEmpty_spec h).1]
  split <;> rfl

/-- The part with a local notice placed, but for its panels and displays. -/
theorem placeLocal_eq (h : firstEmpty (slotsOf x.panel (raiseLevel req)) = some i) : placeLocal req x =
    { x with text := retain req.handle x.text, panel := (placeLocal req x).panel, disp := (placeLocal req x).disp } := by
  rw [placeLocal, h]
  dsimp only
  rw [afterSlots_eq]
  rfl

/-! ### Forwards -/

theorem makeForward_room (id : Nat) (raise : Option RaiseData) (ds : List Nat) (h : x.form.queue.length < 16) :
    makeForward tag id raise ds x = ({ x with
      text := retainAll ((raise.map (·.handle)).toList) x.text
      form := { x.form with
        forwards := x.form.forwards ++ [{ tag := tag, noticeId := id, raise := raise, dests := ds, number := none
                                          awaited := [], full := [] }]
        queue := x.form.queue ++ [.noticeFwd tag] } }, none) := by
  have hroom : x.form.queue.length < Config.lineQueueMax := h
  rw [makeForward, if_pos hroom]
  cases raise <;> rfl

theorem makeForward_full (id : Nat) (raise : Option RaiseData) (ds : List Nat) (h : ¬ x.form.queue.length < 16) :
    makeForward tag id raise ds x = (x, some .linkFailed) := by
  have hfull : ¬ x.form.queue.length < Config.lineQueueMax := h
  rw [makeForward, if_neg hfull]

/-- What a raise or a clear leaves of text and formation, and its answer: at once without destinations or with a full line
queue, else with a forward that waits. -/
structure Forwarded (s t : State) (kind tag : Byte) (y : Part) (ds : List Nat) (id : Nat) (raise : Option RaiseData) : Prop where
  panel : t.part.panel = y.panel
  answer : if ds = [] then Answered s t kind tag .ok [] ∧ t.part.text = y.text ∧ Only [.host, .text, .panel, .disp] s t
    else if s.part.form.queue.length < 16 then
      Waits s t kind tag ∧ t.part.text = retainAll ((raise.map (·.handle)).toList) y.text ∧
        t.part.form = { s.part.form with
          queue := s.part.form.queue ++ [.noticeFwd tag]
          forwards := s.part.form.forwards ++ [{ tag := tag, noticeId := id, raise := raise, dests := ds, number := none
                                                 awaited := [], full := [] }] } ∧
        Only [.host, .text, .form, .panel, .disp] s t
    else Answered s t kind tag .linkFailed [] ∧ t.part.text = y.text ∧ Only [.host, .text, .panel, .disp] s t

theorem step_of_forward {α : Type} {c : Instr} {kind : Byte} {b : α} {owner : α → Part → Part × Reply} {ds : List Nat} {id : Nat}
    {raise : Option RaiseData} (h : Accepts s tag)
    (hc : effect c (quiet s.part) = hostRequest kind tag (some b) owner (quiet s.part)) (hkind : requestKind kind = true)
    (ho : owner b (handed kind tag s.part) = if ds = [] then taken y else forwardReply (makeForward tag id raise ds y))
    (hy : Leaves [.text, .panel, .disp] (handed kind tag s.part) y) (hform : y.form = s.part.form) :
    ∃ t, exec c s = .next t ∧ Forwarded s t kind tag y ds id raise := by
  by_cases hds : ds = []
  · rw [if_pos hds] at ho
    obtain ⟨t, hexec, rfl, hanswered, honly⟩ := step_of_taken h hc hkind ho hy
    refine ⟨_, hexec, by simp, ?_⟩
    rw [if_pos hds]
    exact ⟨hanswered, by simp, honly⟩
  rw [if_neg hds] at ho
  by_cases hroom : s.part.form.queue.length < 16
  · have hmade := makeForward_room (tag := tag) id raise ds (x := y) (by rw [hform]; exact hroom)
    rw [hmade] at ho
    have hleaves : Leaves [.text, .form, .panel, .disp] (handed kind tag s.part) (makeForward tag id raise ds y).1 :=
      .step (leaves_of_keeps makeForward_keeps (by decide)) rfl (.step hy rfl (.refl _))
    rw [hmade] at hleaves
    obtain ⟨t, hexec, rfl, hwaits, honly⟩ := step_of_waiting h hc ho hleaves
    refine ⟨_, hexec, by rw [finish_panel]; rfl, ?_⟩
    rw [if_neg hds, if_pos hroom]
    refine ⟨hwaits, by rw [finish_text]; rfl, ?_, honly⟩
    rw [finish_form, ← hform]
    rfl
  · rw [makeForward_full id raise ds (by rw [hform]; exact hroom)] at ho
    obtain ⟨t, hexec, rfl, hanswered, honly⟩ := step_of_taken h hc hkind ho hy
    refine ⟨_, hexec, by simp, ?_⟩
    rw [if_neg hds, if_neg hroom]
    exact ⟨hanswered, by simp, honly⟩

/-! ### NOTICE-RAISE -/

/-- What the forward of a raise carries. -/
def raiseData (req : RaiseReq) : RaiseData :=
  { handle := req.handle, level := raiseLevel req, subPriority := req.subPriority, targets := raiseTargets req
    duration := req.duration }

theorem takeRaise_eq (tag : Byte) (req : RaiseReq) (x : Part) : takeRaise tag req x =
    if destinations (placeLocal req x) (raiseTargets req) = [] then taken (placeLocal req x)
    else forwardReply (makeForward tag req.noticeId (some (raiseData req)) (destinations (placeLocal req x) (raiseTargets req))
      (placeLocal req x)) := by
  unfold takeRaise
  dsimp only
  split
  · next h => rw [if_pos h]
  · next ds hne => rw [if_neg hne]; rfl

theorem step_of_raise {body : List Byte} {e : TextEntry} (h : Accepts s tag) (hbody : readNoticeRaise body = some req)
    (hgood : raiseBad req = false) (hcoaches : s.part.unit.coaches ≠ []) (htext : textAt s.part.text req.handle = some e)
    (hnew : findNotice s.part.panel none req.noticeId = none)
    (hempty : firstEmpty (slotsOf s.part.panel (raiseLevel req)) = some i) :
    ∃ t, exec (.noticeRaise tag body) s = .next t ∧ Forwarded s t 0x16#8 tag (placeLocal req (handed 0x16#8 tag s.part))
      (destinations s.part (raiseTargets req)) req.noticeId (some (raiseData req)) := by
  have hc : effect (.noticeRaise tag body) (quiet s.part) =
      hostRequest 0x16#8 tag (some req) (ownNoticeRaise tag) (quiet s.part) := by
    rw [← hbody]
    rfl
  have hown : ownNoticeRaise tag req (handed 0x16#8 tag s.part) = takeRaise tag req (handed 0x16#8 tag s.part) :=
    (checked_next hgood).trans ((checked_next (by simpa using hcoaches)).trans
      ((checked_next (by simp [textKnown, htext])).trans ((checked_next (by simp [hnew])).trans
        ((checked_next (by simp [hempty])).trans checked_nil))))
  have hplaced := placeLocal_eq (x := handed 0x16#8 tag s.part) (req := req) hempty
  have hdest : destinations (placeLocal req (handed 0x16#8 tag s.part)) (raiseTargets req) =
      destinations s.part (raiseTargets req) := by
    rw [hplaced]
    rfl
  rw [takeRaise_eq, hdest] at hown
  exact step_of_forward h hc rfl hown (leaves_of_keeps placeLocal_keeps (by decide)) (by rw [hplaced]; rfl)

theorem textAt_placed {k : Nat} (hempty : firstEmpty (slotsOf x.panel (raiseLevel req)) = some i) :
    textAt (placeLocal req x).text k =
      (textAt x.text k).map fun e => { e with refs := e.refs + if k = req.handle then 1 else 0 } := by
  rw [placeLocal_eq hempty]
  exact textAt_retain ..

/-- A raise that is taken: its slot, the slots and texts it leaves, and the answer or the forward. -/
theorem raise_taken {body : List Byte} {e : TextEntry} (h : Accepts s tag) (hbody : readNoticeRaise body = some req)
    (hgood : raiseBad req = false) (hcoaches : s.part.unit.coaches ≠ []) (htext : textAt s.part.text req.handle = some e)
    (hnew : findNotice s.part.panel none req.noticeId = none)
    (hempty : firstEmpty (slotsOf s.part.panel (raiseLevel req)) = some i) :
    ∃ t, exec (.noticeRaise tag body) s = .next t ∧
      (∀ l j, (slotAt t.part.panel l j).map bare = if (l, j) = (raiseLevel req, i) then
          some { origin := none, noticeId := req.noticeId, subPriority := req.subPriority, targets := raiseTargets req
                 handle := req.handle, duration := req.duration
                 remaining := if req.duration = 0 then none else some req.duration, rotation := {} }
        else (slotAt s.part.panel l j).map bare) ∧
      (∀ k, k ≠ req.handle → textAt t.part.text k = textAt s.part.text k) ∧
      if destinations s.part (raiseTargets req) = [] then
        Answered s t 0x16#8 tag .ok [] ∧ textAt t.part.text req.handle = some { e with refs := e.refs + 1 } ∧
          Only [.host, .text, .panel, .disp] s t
      else if s.part.form.queue.length < 16 then
        Waits s t 0x16#8 tag ∧ textAt t.part.text req.handle = some { e with refs := e.refs + 2 } ∧
          t.part.form = { s.part.form with
            queue := s.part.form.queue ++ [.noticeFwd tag]
            forwards := s.part.form.forwards ++ [{
              tag := tag, noticeId := req.noticeId, raise := some (raiseData req)
              dests := destinations s.part (raiseTargets req), number := none, awaited := [], full := [] }] } ∧
          Only [.host, .text, .form, .panel, .disp] s t
      else
        Answered s t 0x16#8 tag .linkFailed [] ∧ textAt t.part.text req.handle = some { e with refs := e.refs + 1 } ∧
          Only [.host, .text, .panel, .disp] s t := by
  obtain ⟨t, hexec, hpanel, hanswer⟩ := step_of_raise h hbody hgood hcoaches htext hnew hempty
  have hplaced (k : Nat) := textAt_placed (x := handed 0x16#8 tag s.part) (k := k) hempty
  have hself : textAt (placeLocal req (handed 0x16#8 tag s.part)).text req.handle = some { e with refs := e.refs + 1 } := by
    rw [hplaced, if_pos rfl]
    exact (congrArg _ htext :)
  have hothers (k : Nat) (hk : k ≠ req.handle) :
      textAt (placeLocal req (handed 0x16#8 tag s.part)).text k = textAt s.part.text k := by
    rw [hplaced, if_neg hk]
    exact map_refs_zero _
  refine ⟨t, hexec, fun l j => ?_, ?_⟩
  · rw [hpanel]
    exact placeLocal_slots (x := handed 0x16#8 tag s.part) hempty l j
  by_cases hds : destinations s.part (raiseTargets req) = []
  · rw [if_pos hds] at hanswer ⊢
    obtain ⟨hanswered, htext', honly⟩ := hanswer
    rw [htext']
    exact ⟨hothers, hanswered, hself, honly⟩
  rw [if_neg hds] at hanswer ⊢
  by_cases hroom : s.part.form.queue.length < 16
  · rw [if_pos hroom] at hanswer ⊢
    obtain ⟨hwaits, htext', hform, honly⟩ := hanswer
    have hretained (k : Nat) := textAt_retainAll [req.handle] k (placeLocal req (handed 0x16#8 tag s.part)).text
    rw [htext']
    refine ⟨fun k hk => ?_, hwaits, ?_, hform, honly⟩
    · refine (hretained k).trans ?_
      rw [List.count_singleton, if_neg (by simpa using fun h => hk h.symm), hothers k hk]
      exact map_refs_zero _
    · refine (hretained req.handle).trans ?_
      rw [List.count_singleton_self, hself]
      rfl
  · rw [if_neg hroom] at hanswer ⊢
    obtain ⟨hanswered, htext', honly⟩ := hanswer
    rw [htext']
    exact ⟨hothers, hanswered, hself, honly⟩

/-! ### NOTICE-CLEAR -/

theorem clearLocal_eq (id : Nat) (x : Part) : clearLocal id x =
    { x with text := (clearLocal id x).text, panel := (clearLocal id x).panel, disp := (clearLocal id x).disp } := by
  unfold clearLocal
  split
  · rw [emptySlot, afterSlots_eq]
    unfold vacate
    split <;> rfl
  · rfl

theorem clearLocal_none {id : Nat} (h : findNotice x.panel none id = none) : clearLocal id x = x := by
  rw [clearLocal, h]

theorem clearLocal_found {id : Nat} (h : findNotice x.panel none id = some (l, i)) : clearLocal id x = emptySlot l i x := by
  rw [clearLocal, h]

/-- An emptied slot is empty, whether it held a notice or not. -/
theorem emptySlot_empty (x : Part) (l : NoticeLevel) (i : Nat) : slotAt (emptySlot l i x).panel l i = none := by
  cases h : slotAt x.panel l i with
  | some v => exact emptySlot_none h
  | none =>
    have hvacate : vacate l i x = x := by rw [vacate, h]
    rw [emptySlot, hvacate]
    exact (slotAt_afterSlots_eq_none_iff ..).mpr h

theorem step_of_clear {body : List Byte} {id : Nat} (h : Accepts s tag) (hbody : readTwo body = some id) (hid : id ≠ 0)
    (hknown : ¬ (findNotice s.part.panel none id = none ∧ clearDestinations s.part = [])) :
    ∃ t, exec (.noticeClear tag body) s = .next t ∧ Forwarded s t 0x17#8 tag (clearLocal id (handed 0x17#8 tag s.part))
      (clearDestinations s.part) id none := by
  have hc : effect (.noticeClear tag body) (quiet s.part) =
      hostRequest 0x17#8 tag (some id) (ownNoticeClear tag) (quiet s.part) := by
    rw [← hbody]
    rfl
  have hown : ownNoticeClear tag id (handed 0x17#8 tag s.part) =
      if clearDestinations s.part = [] then taken (clearLocal id (handed 0x17#8 tag s.part))
      else forwardReply (makeForward tag id none (clearDestinations s.part) (clearLocal id (handed 0x17#8 tag s.part))) := by
    have hdest : clearDestinations (handed 0x17#8 tag s.part) = clearDestinations s.part := rfl
    have hpanel : (handed 0x17#8 tag s.part).panel = s.part.panel := rfl
    simp only [ownNoticeClear, hdest, hpanel, if_neg hid, List.isEmpty_iff]
    rw [if_neg (by simpa [Option.isNone_iff_eq_none] using hknown)]
  exact step_of_forward h hc rfl hown (leaves_of_keeps clearLocal_keeps (by decide)) (by rw [clearLocal_eq]; rfl)

/-- A clear that is taken: its slot, or the part without one, and the answer or the forward. -/
theorem clear_taken {body : List Byte} {id : Nat} (h : Accepts s tag) (hbody : readTwo body = some id) (hid : id ≠ 0)
    (hknown : ¬ (findNotice s.part.panel none id = none ∧ clearDestinations s.part = [])) :
    ∃ t, exec (.noticeClear tag body) s = .next t ∧
      (∀ l i, findNotice s.part.panel none id = some (l, i) → slotAt t.part.panel l i = none ∧
        ∀ x, slotAt s.part.panel l i = some x → t.part.text = release x.handle s.part.text) ∧
      (findNotice s.part.panel none id = none → t.part.panel = s.part.panel ∧ t.part.text = s.part.text) ∧
      if clearDestinations s.part = [] then Answered s t 0x17#8 tag .ok [] ∧ Only [.host, .text, .panel, .disp] s t
      else if s.part.form.queue.length < 16 then
        Waits s t 0x17#8 tag ∧ Only [.host, .text, .form, .panel, .disp] s t ∧
          t.part.form = { s.part.form with
            queue := s.part.form.queue ++ [.noticeFwd tag]
            forwards := s.part.form.forwards ++ [{ tag := tag, noticeId := id, raise := none, dests := clearDestinations s.part
                                                   number := none, awaited := [], full := [] }] }
      else Answered s t 0x17#8 tag .linkFailed [] ∧ Only [.host, .text, .panel, .disp] s t := by
  obtain ⟨t, hexec, hpanel, hanswer⟩ := step_of_clear h hbody hid hknown
  have htext : t.part.text = (clearLocal id (handed 0x17#8 tag s.part)).text := by
    split at hanswer
    · exact hanswer.2.1
    · split at hanswer
      · exact hanswer.2.1
      · exact hanswer.2.1
  refine ⟨t, hexec, fun l i hfound => ?_, fun hnone => ?_, ?_⟩
  · have hcleared := clearLocal_found (x := handed 0x17#8 tag s.part) hfound
    rw [hpanel, htext, hcleared]
    exact ⟨emptySlot_empty .., fun v hv => emptySlot_text (x := handed 0x17#8 tag s.part) hv⟩
  · rw [hpanel, htext, clearLocal_none (x := handed 0x17#8 tag s.part) hnone]
    exact ⟨rfl, rfl⟩
  · split at hanswer
    · next hds =>
      obtain ⟨hanswered, -, honly⟩ := hanswer
      rw [if_pos hds]
      exact ⟨hanswered, honly⟩
    · next hds =>
      rw [if_neg hds]
      split at hanswer
      · next hroom =>
        obtain ⟨hwaits, -, hform, honly⟩ := hanswer
        rw [if_pos hroom]
        exact ⟨hwaits, honly, hform⟩
      · next hroom =>
        obtain ⟨hanswered, -, honly⟩ := hanswer
        rw [if_neg hroom]
        exact ⟨hanswered, honly⟩

/-- The refusals of NOTICE-RAISE by the order of their checks. -/
theorem raise_refused {body : List Byte} (h : Accepts s tag) (hbody : readNoticeRaise body = some req) :
    let refused := fun r : Result =>
      ∃ t, exec (.noticeRaise tag body) s = .next t ∧ Answered s t 0x16#8 tag r [] ∧ Only [.host] s t
    let good := raiseBad req = false
    let known := textKnown s.part.text req.handle = true
    let new := findNotice s.part.panel none req.noticeId = none
    (¬ good → refused .badField) ∧ (good → s.part.unit.coaches = [] → refused .wrongState) ∧
    (good → s.part.unit.coaches ≠ [] → ¬ known → refused .notFound) ∧
    (good → s.part.unit.coaches ≠ [] → known → ¬ new → refused .conflict) ∧
    (good → s.part.unit.coaches ≠ [] → known → new → firstEmpty (slotsOf s.part.panel (raiseLevel req)) = none →
      refused .full) := by
  intro refused good known new
  have step {r : Result} (ho : ownNoticeRaise tag req (handed 0x16#8 tag s.part) = (handed 0x16#8 tag s.part, .now r [])) :
      refused r :=
    step_of_refused (owner := ownNoticeRaise tag) (b := req) h (by rw [← hbody]; rfl) rfl ho
  have hcoaches (hne : s.part.unit.coaches ≠ []) : (handed 0x16#8 tag s.part).unit.coaches.isEmpty = false := by
    simpa using hne
  refine ⟨fun hbad => step (checked_here (by simpa [good] using hbad)), fun hgood hnone => ?_, fun hgood hne hunknown => ?_,
    fun hgood hne hknown hold => ?_, fun hgood hne hknown hnew hfull => ?_⟩
  · exact step ((checked_next hgood).trans (checked_here (by simpa using hnone)))
  · exact step ((checked_next hgood).trans ((checked_next (hcoaches hne)).trans (checked_here (by simpa [known] using hunknown))))
  · exact step ((checked_next hgood).trans ((checked_next (hcoaches hne)).trans ((checked_next (by simpa [known] using hknown)).trans
      (checked_here (by simpa [new, Option.isSome_iff_ne_none] using hold)))))
  · exact step ((checked_next hgood).trans ((checked_next (hcoaches hne)).trans ((checked_next (by simpa [known] using hknown)).trans
      ((checked_next (by simpa [new] using hnew)).trans (checked_here (by simp [hfull]))))))

/-- Settles O20: the raise that is taken, the clear with its refusals, and the refusals of the raise. -/
theorem noticesAreRaisedAndCleared : Obligations.NoticesAreRaisedAndCleared := by
  refine ⟨fun s tag body req i e h hbody hgood hcoaches htext hnew hempty => ?raise, fun s tag body id h hbody => ?clear,
    fun s tag body req h hbody => raise_refused h hbody⟩
  case raise =>
    obtain ⟨t, hexec, hslots, htexts, hanswer⟩ := raise_taken h hbody hgood hcoaches htext hnew hempty
    obtain ⟨hnodup, hmem⟩ := destinations_spec s.part (raiseTargets req)
    have hself := hslots (raiseLevel req) i
    rw [if_pos rfl] at hself
    obtain ⟨y, hy, hbare⟩ := Option.map_eq_some_iff.mp hself
    refine ⟨t, y, hexec, hy, ⟨(congrArg Slot.origin hbare :), (congrArg Slot.noticeId hbare :),
      (congrArg Slot.subPriority hbare :), (congrArg Slot.targets hbare :), (congrArg Slot.handle hbare :),
      (congrArg Slot.duration hbare :), (congrArg Slot.remaining hbare :)⟩, fun l j hne => ?_, htexts, hnodup, hmem, hanswer⟩
    exact (hslots l j).trans (if_neg hne)
  case clear =>
    have refuse {r : Result} (ho : ownNoticeClear tag id (handed 0x17#8 tag s.part) = (handed 0x17#8 tag s.part, .now r [])) :
        ∃ t, exec (.noticeClear tag body) s = .next t ∧ Answered s t 0x17#8 tag r [] ∧ Only [.host] s t :=
      step_of_refused (owner := ownNoticeClear tag) (b := id) h (by rw [← hbody]; rfl) rfl ho
    by_cases hid : id = 0
    · obtain ⟨t, hexec, hanswered⟩ := refuse (r := .badField) (by simp [ownNoticeClear, hid, refused])
      exact ⟨t, hexec, clearDestinations_spec s.part, by rwa [if_pos hid]⟩
    by_cases hunknown : findNotice s.part.panel none id = none ∧ clearDestinations s.part = []
    · have hdest : clearDestinations (handed 0x17#8 tag s.part) = [] := hunknown.2
      obtain ⟨t, hexec, hanswered⟩ := refuse (r := .notFound) (by simp [ownNoticeClear, hid, refused, hunknown.1, hdest])
      exact ⟨t, hexec, clearDestinations_spec s.part, by rwa [if_neg hid, if_pos hunknown]⟩
    obtain ⟨t, hexec, hfound, hnone, hanswer⟩ := clear_taken h hbody hid hunknown
    refine ⟨t, hexec, clearDestinations_spec s.part, ?_⟩
    rw [if_neg hid, if_neg hunknown]
    exact ⟨hfound, hnone, hanswer⟩

end Sys2Proof.Proofs.Notices
end

section
/-! Claim deadlines and poll reports: what they make of the legs, the release count and the latch. -/
namespace Sys2Proof.Proofs.Claims
open Sys2Proof Sys2Proof.Machine Effects Requests Owners Events Rendering Journey Driver

variable {s : State} {x y z : Part} {f : Leg → Leg} {l : Leg} {i : Nat} {a : EpAddr} {e : EpEntry}

/-! ### Legs mapped with their releases counted -/

/-- The legs that a map releases. -/
def releasing (f : Leg → Leg) (ls : List Leg) : List Leg := ls.filter fun l => l.state != .released && (f l).state == .released

/-- A release count after some releases. -/
def raisedCount (n : Nat) (gone : List Leg) : Nat := if gone = [] then n else min 65535 (n + gone.length)

theorem noteReleases_res (n : Nat) (x : Part) : (noteReleases n x).res =
    { x.res with releaseCount := if n = 0 then x.res.releaseCount else min 65535 (x.res.releaseCount + n) } := by
  unfold noteReleases
  split
  · rfl
  · rw [latch_eq]
    rfl

theorem mapReleasing_res (f : Leg → Leg) (x : Part) : (mapReleasing f x).res =
    { x.res with legs := x.res.legs.map f, releaseCount := raisedCount x.res.releaseCount (releasing f x.res.legs) } := by
  unfold mapReleasing
  rw [noteReleases_res]
  simp only [raisedCount, releasing, List.length_eq_zero_iff]
  rfl

theorem mapReleasing_latched (h : ∃ l ∈ x.res.legs, l.state ≠ .released ∧ (f l).state = .released) :
    (mapReleasing f x).host.latched.getLsbD 9 = true := by
  obtain ⟨l, hl, hbefore, hafter⟩ := h
  have hpos : (releasing f x.res.legs).length ≠ 0 := by
    refine fun hz => List.ne_nil_of_mem (List.mem_filter.mpr ⟨hl, ?_⟩) (List.length_eq_zero_iff.mp hz)
    simp [hbefore, hafter]
  have heq : mapReleasing f x = noteReleases (releasing f x.res.legs).length (mapLegs f x) := rfl
  rw [heq, noteReleases, if_neg hpos]
  exact latched_of_latch (.inr (by decide))

theorem refreshed_res (x : Part) : (refreshSeats x).res.legs = x.res.legs ∧
    (refreshSeats x).res.releaseCount = x.res.releaseCount ∧ (refreshSeats x).res.orphanCount = x.res.orphanCount :=
  legs_of_keeps refreshSeats_keeps (by decide)

/-- Legs, counts and latch after a map with its releases, handed on to the seats. -/
theorem refreshed_releases (f : Leg → Leg) (x : Part) :
    (refreshSeats (mapReleasing f x)).res.legs = x.res.legs.map f ∧
      ((∃ l ∈ x.res.legs, l.state ≠ .released ∧ (f l).state = .released) →
        (refreshSeats (mapReleasing f x)).host.latched.getLsbD 9 = true) ∧
      (refreshSeats (mapReleasing f x)).res.releaseCount = raisedCount x.res.releaseCount (releasing f x.res.legs) ∧
      (refreshSeats (mapReleasing f x)).res.orphanCount = x.res.orphanCount := by
  obtain ⟨hlegs, hcount, horphan⟩ := refreshed_res (mapReleasing f x)
  rw [hlegs, hcount, horphan, mapReleasing_res, latched_of_keeps refreshSeats_keeps (by decide)]
  exact ⟨rfl, mapReleasing_latched, rfl, rfl⟩

/-! ### CLAIM-DEADLINE -/

/-- What CLAIM-DEADLINE makes of a leg. -/
def dueLeg (x : Part) (i : Nat) (l : Leg) : Leg := if l.id == i && deadlineReached x.route.clock l then decideLeg x l else l

/-- A leg that its deadline releases. -/
def dueReleased (x : Part) (i : Nat) (l : Leg) : Bool :=
  l.id == i && l.state != .released && (match l.phase with
    | .timed d => decide (d ≤ x.route.clock)
    | _ => false) &&
  x.supply.mode == .run && evidenceFresh x.seat l.coach l.seat && !seatOccupied x.seat l.coach l.seat

theorem claimDeadline_eq (i : Nat) (x : Part) : claimDeadline i x = refreshSeats (mapReleasing (dueLeg x i) x) := rfl

theorem dueLeg_eq (x : Part) (i : Nat) (l : Leg) : dueLeg x i l = match l.phase with
    | .timed d =>
      if l.id = i ∧ d ≤ x.route.clock then
        if x.supply.mode = .run ∧ evidenceFresh x.seat l.coach l.seat = true then
          (if seatOccupied x.seat l.coach l.seat = true then { l with state := .claimed, phase := .done }
           else { l with state := .released, phase := .done })
        else { l with phase := .deferred 0 }
      else l
    | _ => l := by
  unfold dueLeg deadlineReached decideLeg isRun
  cases l.phase <;> simp

/-- A leg is released by its reached deadline in RUN on fresh evidence of a vacant seat. -/
theorem dueLeg_released_iff (h : l.state ≠ .released) : (dueLeg x i l).state = .released ↔
    l.id = i ∧ (∃ d, l.phase = .timed d ∧ d ≤ x.route.clock) ∧ x.supply.mode = .run ∧
      evidenceFresh x.seat l.coach l.seat = true ∧ seatOccupied x.seat l.coach l.seat = false := by
  rw [dueLeg_eq]
  cases hphase : l.phase with
  | timed d =>
    by_cases hdue : l.id = i ∧ d ≤ x.route.clock
    · by_cases hfresh : x.supply.mode = .run ∧ evidenceFresh x.seat l.coach l.seat = true
      · cases hocc : seatOccupied x.seat l.coach l.seat <;> simp [hdue, hfresh]
      · dsimp only
        rw [if_pos hdue, if_neg hfresh]
        exact ⟨fun hs => absurd hs h, fun ⟨_, _, hrun, hf, _⟩ => absurd ⟨hrun, hf⟩ hfresh⟩
    · dsimp only
      rw [if_neg hdue]
      refine ⟨fun hs => absurd hs h, fun ⟨hid, ⟨d', hd', hle⟩, _⟩ => absurd ⟨hid, ?_⟩ hdue⟩
      cases hd'
      exact hle
  | _ => simp [h]

theorem dueReleased_eq (x : Part) (i : Nat) (l : Leg) :
    (l.state != .released && (dueLeg x i l).state == .released) = dueReleased x i l := by
  by_cases hstate : l.state = .released
  · simp [dueReleased, hstate]
  · rw [Bool.eq_iff_iff]
    simp only [Bool.and_eq_true, bne_iff_ne, beq_iff_eq, dueLeg_released_iff hstate, dueReleased, Bool.not_eq_true']
    cases l.phase <;> simp [hstate, and_assoc]

/-- The first part of O29, by what the map of the deadlines releases. -/
theorem step_of_deadline (s : State) (i : Nat) : ∃ t, exec (.claimDeadline i) s = .next t ∧
    t.part.res.legs = s.part.res.legs.map (dueLeg s.part i) ∧
    ((∃ l ∈ s.part.res.legs, l.state ≠ .released ∧ (dueLeg s.part i l).state = .released) →
      t.part.host.latched.getLsbD 9 = true) ∧
    t.part.res.releaseCount = raisedCount s.part.res.releaseCount (s.part.res.legs.filter (dueReleased s.part i)) ∧
    t.part.res.orphanCount = s.part.res.orphanCount ∧
    Only [.legs, .views, .tallies, .seat, .panel, .disp, .events, .host] s t := by
  obtain ⟨t, hexec, rfl, honly⟩ := step_of_effect (c := .claimDeadline i) (s := s) (claimDeadline_eq i (quiet s.part))
    claimDeadline_keeps
  obtain ⟨hlegs, hlatch, hcount, horphan⟩ := refreshed_releases (dueLeg (quiet s.part) i) (quiet s.part)
  have hgone : releasing (dueLeg (quiet s.part) i) (quiet s.part).res.legs = s.part.res.legs.filter (dueReleased s.part i) :=
    List.filter_congr fun l _ => dueReleased_eq (quiet s.part) i l
  rw [hgone] at hcount
  refine ⟨_, hexec, ?_, ?_, ?_, ?_, only_mono honly rfl⟩
  · rw [finish_res]
    exact hlegs
  · rw [finish_latched]
    exact hlatch
  · rw [finish_res]
    exact hcount
  · rw [finish_res]
    exact horphan

/-! ### A poll report -/

/-- What a poll report makes of a leg. -/
def reported (a : EpAddr) (full : Bool) (l : Leg) : Leg := if l.onSeat a.coach a.number then reportLeg full l else l

theorem reported_eq (a : EpAddr) (full : Bool) (l : Leg) : reported a full l =
    if l.coach = a.coach ∧ l.seat = a.number ∧ l.state = .booked then
      match l.phase with
      | .opened => if full = true then { l with state := .claimed, phase := .done } else l
      | .timed _ => if full = true then { l with state := .claimed, phase := .done } else l
      | .deferred n =>
        if full = true then { l with state := .claimed, phase := .done }
        else if 1 ≤ n then { l with state := .released, phase := .done }
        else { l with phase := .deferred (n + 1) }
      | _ => l
    else l := by
  unfold reported reportLeg Leg.onSeat
  by_cases hseat : l.coach = a.coach ∧ l.seat = a.number
  · by_cases hstate : l.state = .booked
    · cases hphase : l.phase <;> simp [hseat, hstate]
    · simp [hseat, hstate]
  · have hseat' : ¬ (l.coach = a.coach ∧ l.seat = a.number ∧ l.state = .booked) := fun h => hseat ⟨h.1, h.2.1⟩
    rw [if_neg hseat', if_neg (by simpa using hseat)]

/-- A leg that a poll report releases. -/
def pollReleased (a : EpAddr) (full : Bool) (l : Leg) : Bool :=
  l.coach == a.coach && l.seat == a.number && l.state == .booked && !full && (match l.phase with
    | .deferred n => decide (1 ≤ n)
    | _ => false)

theorem reported_released_iff {full : Bool} (h : l.state ≠ .released) : (reported a full l).state = .released ↔
    l.coach = a.coach ∧ l.seat = a.number ∧ l.state = .booked ∧ full = false ∧ ∃ n, l.phase = .deferred n ∧ 1 ≤ n := by
  rw [reported_eq]
  by_cases hseat : l.coach = a.coach ∧ l.seat = a.number ∧ l.state = .booked
  · cases hphase : l.phase with
    | deferred n =>
      cases full with
      | true => simp [hseat]
      | false => by_cases hn : 1 ≤ n <;> simp [hseat, hn]
    | _ => cases full <;> simp [hseat]
  · simp only [if_neg hseat, h]
    simpa using fun hc hs hb => absurd ⟨hc, hs, hb⟩ hseat

theorem pollReleased_eq (a : EpAddr) (full : Bool) (l : Leg) :
    (l.state != .released && (reported a full l).state == .released) = pollReleased a full l := by
  by_cases hstate : l.state = .released
  · simp [pollReleased, hstate]
  · rw [Bool.eq_iff_iff]
    simp only [Bool.and_eq_true, bne_iff_ne, beq_iff_eq, reported_released_iff hstate, pollReleased, Bool.not_eq_true']
    cases l.phase <;> simp [hstate, and_assoc]

theorem takeReading_eq (a : EpAddr) (raw : Nat) (x : Part) : takeReading a.coach a.number raw x =
    refreshSeats (mapReleasing (reported a
      (((sensorAt x.seat a.coach a.number).map (afterReading x.host.params (min raw 63))).any (·.occupied)))
      (sensorUpdate a.coach a.number (Sensor.read x.host.params (min raw 63)) x)) := by
  have hfull : seatOccupied (sensorUpdate a.coach a.number (Sensor.read x.host.params (min raw 63)) x).seat a.coach a.number =
      ((sensorAt x.seat a.coach a.number).map (afterReading x.host.params (min raw 63))).any (·.occupied) := by
    rw [seatOccupied, sensorAt_sensorUpdate, if_pos rfl, funext (read_eq x.host.params (min raw 63))]
    cases sensorAt x.seat a.coach a.number <;> rfl
  rw [← hfull]
  rfl

/-- A poll answered by a level: what it makes of the legs. -/
theorem step_of_report {held : Option Nat} {raw : Nat} (hrun : s.part.supply.mode = .run) (he : epAt s.part.disp a = some e)
    (hop : s.part.disp.inFlight = some (.poll, a)) (hseat : a.kind = .seat)
    (hfitted : sensorFitted s.part.unit a.coach a.number = true) {full : Bool}
    (hfull : full = ((sensorAt s.part.seat a.coach a.number).map (afterReading s.part.host.params (min raw 63))).any (·.occupied)) :
    ∃ t, exec (.pollReply a held (.level raw)) s = .next t ∧
      t.part.res.legs = s.part.res.legs.map (reported a full) ∧
      ((∃ l ∈ s.part.res.legs, l.state ≠ .released ∧ (reported a full l).state = .released) →
        t.part.host.latched.getLsbD 9 = true) ∧
      t.part.res.releaseCount = raisedCount s.part.res.releaseCount (s.part.res.legs.filter (pollReleased a full)) ∧
      t.part.res.orphanCount = s.part.res.orphanCount := by
  have hended (lost : Bool) : (afterPoll a (.level raw) lost (quiet s.part)).seat = s.part.seat ∧
      (afterPoll a (.level raw) lost (quiet s.part)).unit = s.part.unit ∧
      (afterPoll a (.level raw) lost (quiet s.part)).host = s.part.host ∧
      (afterPoll a (.level raw) lost (quiet s.part)).res = s.part.res := by
    unfold afterPoll
    cases lost <;> exact ⟨rfl, rfl, rfl, rfl⟩
  obtain ⟨hseat', hunit', hhost', hres'⟩ := hended (contradicts e held)
  have hreply : replyArrives a held (.level raw) (quiet s.part) =
      takeReading a.coach a.number raw (afterPoll a (.level raw) (contradicts e held) (quiet s.part)) :=
    (replyArrives_poll (x := quiet s.part) hop).trans ((pollAnswered_eq (x := quiet s.part) he).trans
      (readingOf_level hseat (by rw [hunit']; exact hfitted)))
  obtain ⟨t, hexec, rfl, -⟩ := step_in_run (c := .pollReply a held (.level raw)) (f := replyArrives a held (.level raw)) hrun rfl
    replyArrives_keeps
  rw [hreply, takeReading_eq, hseat', hhost', ← hfull] at hexec
  obtain ⟨hlegs, hlatch, hcount, horphan⟩ := refreshed_releases (reported a full)
    (sensorUpdate a.coach a.number (Sensor.read s.part.host.params (min raw 63))
      (afterPoll a (.level raw) (contradicts e held) (quiet s.part)))
  simp only [sensorUpdate_res, hres'] at hlegs hlatch hcount horphan
  have hgone : releasing (reported a full) s.part.res.legs = s.part.res.legs.filter (pollReleased a full) :=
    List.filter_congr fun l _ => pollReleased_eq a full l
  rw [hgone] at hcount
  refine ⟨_, hexec, ?_, ?_, ?_, ?_⟩
  · rw [finish_res, hlegs]
  · rw [finish_latched]
    exact hlatch
  · rw [finish_res, hcount]
  · rw [finish_res, horphan]

/-- Settles O29: a reached deadline and a poll report, each by what it makes of every leg and what it releases. -/
theorem deadlinesAndPollsDecideTheLegs : Obligations.DeadlinesAndPollsDecideTheLegs := by
  refine ⟨fun s i => ?deadline, fun s a e held raw hrun he hop hseat hfitted => ?report⟩
  case deadline =>
    obtain ⟨t, hexec, hlegs, hlatch, hcount, horphan, honly⟩ := step_of_deadline s i
    refine ⟨t, hexec, ?_, fun ⟨l, hl, hid, hstate, hdue, hrun, hfresh, hocc⟩ => ?_, hcount, horphan, honly⟩
    · rw [hlegs]
      exact List.map_congr_left fun l _ => dueLeg_eq s.part i l
    · exact hlatch ⟨l, hl, hstate, (dueLeg_released_iff hstate).mpr ⟨hid, hdue, hrun, hfresh, hocc⟩⟩
  case report =>
    intro full
    obtain ⟨t, hexec, hlegs, hlatch, hcount, horphan⟩ := step_of_report (held := held) hrun he hop hseat hfitted (full := full) rfl
    refine ⟨t, hexec, ?_, fun ⟨l, hl, hcoach, hplace, hstate, hvacant, hn⟩ => ?_, hcount, horphan⟩
    · rw [hlegs]
      exact List.map_congr_left fun l _ => reported_eq a full l
    · have hne : l.state ≠ .released := by simp [hstate]
      exact hlatch ⟨l, hl, hne, (reported_released_iff hne).mpr ⟨hcoach, hplace, hstate, hvacant, hn⟩⟩

end Sys2Proof.Proofs.Claims
end

section
/-! The Formation Controller's operations as equations: what a hand-off, a role and a roll call change. -/
namespace Sys2Proof.Proofs.Coupler
open Sys2Proof Sys2Proof.Machine Effects Requests Owners Events OwnEntries Rendering Journey Driver Slots Notices

variable {s : State} {c : Instr} {x y z : Part} {L : List Block} {g : Formation → Formation}

/-! ### Hand-offs -/

theorem nameSummary_eq (before : List SummaryEntry) (x : Part) : nameSummary before x =
    { x with panel := (nameSummary before x).panel, disp := (nameSummary before x).disp } := by
  unfold nameSummary
  split <;> rfl

theorem deriveSummary_eq (x : Part) : deriveSummary x =
    { x with seat := (deriveSummary x).seat, panel := (deriveSummary x).panel, disp := (deriveSummary x).disp } := by
  unfold deriveSummary
  rw [nameSummary_eq]
  rfl

theorem formationHandOff_eq (o : Orientation) (x : Part) : formationHandOff o x =
    { x with form := { x.form with trainTally := (formationHandOff o x).form.trainTally }
             seat := (formationHandOff o x).seat, panel := (formationHandOff o x).panel, disp := (formationHandOff o x).disp } := by
  unfold formationHandOff
  dsimp only
  rw [composer_eq, deriveSummary_eq]
  rfl

theorem formationChanged_eq (o : Orientation) (x : Part) : formationChanged o x =
    { x with route := { x.route with prog := { x.route.prog with source := sourceOf x } }
             form := { x.form with trainTally := (formationChanged o x).form.trainTally }
             seat := (formationChanged o x).seat, panel := (formationChanged o x).panel, disp := (formationChanged o x).disp } := by
  unfold formationChanged
  rw [formationHandOff_eq]
  rfl

@[simp] theorem finish_line (x : Part) : (finish x).out.line = x.out.line := by
  have hkick (z : Part) : (kick z).out.line = z.out.line := by
    unfold kick arbiter beginTransfer beginPoll
    (repeat' split) <;> rfl
  rw [finish, hkick, pump_out]

/-! ### Roles -/

theorem inForce_of_held (h : aloneRole x.form.role = false) : inForce x = x.form.record := by
  rw [inForce, h]
  rfl

/-- A part that enters a role: its role, source and train tally table, and what is handed on. -/
theorem changeRole_eq (r : Role) (x : Part) : changeRole r x =
    { x with route := { x.route with prog := { x.route.prog with source := (changeRole r x).route.prog.source } }
             form := { x.form with role := r, trainTally := (changeRole r x).form.trainTally }
             seat := (changeRole r x).seat, panel := (changeRole r x).panel, disp := (changeRole r x).disp } := by
  unfold changeRole
  dsimp only
  split
  · rfl
  · rw [formationChanged_eq]
    rfl

theorem changeRole_source_eq (r : Role) (x : Part) :
    (changeRole r x).route.prog.source = sourceOf (onForm (fun f => { f with role := r }) x) := by
  unfold changeRole
  dsimp only
  split
  · rfl
  · rw [formationChanged_eq]

theorem sourceOf_own (h : x.form.role ≠ .following) : sourceOf x = .own := by
  have hrole : (x.form.role == Role.following) = false := by simpa using h
  rw [sourceOf, hrole]
  rfl

theorem changeRole_source {r : Role} (h : r ≠ .following) (x : Part) : (changeRole r x).route.prog.source = .own :=
  (changeRole_source_eq r x).trans (sourceOf_own h)

/-- Between two roles that keep the record in force nothing is handed on. -/
theorem changeRole_held {r : Role} (h : aloneRole x.form.role = false) (hr : aloneRole r = false) : changeRole r x =
    { x with route := { x.route with prog := { x.route.prog with source := (changeRole r x).route.prog.source } }
             form := { x.form with role := r } } := by
  have hsame : (inForce (onForm (fun f => { f with role := r }) x) == inForce x) = true := by
    rw [inForce_of_held h, inForce_of_held (x := onForm (fun f => { f with role := r }) x) hr]
    simp [onForm]
  unfold changeRole
  dsimp only
  rw [if_pos hsame]
  rfl

theorem alone_of_leads {r : Role} (h : leads r = true) : aloneRole r = false := by
  cases r <;> simp_all [leads, aloneRole]

theorem leads_iff {r : Role} : leads r = true ↔ r = .leading ∨ r = .formingLeader := by
  simp [leads]

/-- A leader that yields: its formation, and its source. -/
theorem yieldLead_eq (h : leads x.form.role = true) : yieldLead x =
    { x with route := { x.route with prog := { x.route.prog with source := .own } }
             form := { quietLeader x.form with
               role := .formingFollower, waiting := false, rollFront := none, heardAnswers := 0
               beaconLoss := some (x.host.params.holdLimit + 2) } } := by
  have hheld : aloneRole (onForm (fun f => { quietLeader f with waiting := false, rollFront := none, heardAnswers := 0 }) x).form.role
      = false := alone_of_leads h
  unfold yieldLead
  rw [changeRole_held hheld rfl, changeRole_source (by decide)]
  rfl

/-- ROLL driven out of one end alone. -/
def drivenFrom (e : UnitEnd) (coupled : Ends Bool) : Ends Bool := Ends.set { a := false, b := false } e.other (coupled.get e.other)

theorem drivenFrom_get (e : UnitEnd) (coupled : Ends Bool) :
    (drivenFrom e coupled).get e = false ∧ (drivenFrom e coupled).get e.other = coupled.get e.other := by
  cases e <;> exact ⟨rfl, rfl⟩

/-- The formation of a part that starts a roll call. -/
def calling (e : UnitEnd) (f : Formation) : Formation :=
  { quietLeader f with role := .formingLeader, rollCall := some [], drive := drivenFrom e f.coupled, beaconLoss := none
                       waiting := false, rollFront := none, heardAnswers := 0 }

/-- A roll call started by any part: the frame it sends. -/
theorem rollCallFrom_eq (e : UnitEnd) (x : Part) : rollCallFrom e x =
    { x with route := { x.route with prog := { x.route.prog with source := .own } }
             form := { calling e x.form with trainTally := (changeRole .formingLeader x).form.trainTally }
             seat := (changeRole .formingLeader x).seat, panel := (changeRole .formingLeader x).panel
             disp := (changeRole .formingLeader x).disp
             out := { x.out with line := x.out.line ++ [.rollCall x.unit.unitId x.form.record.epoch] } } := by
  unfold rollCallFrom
  rw [changeRole_eq, changeRole_source (by decide)]
  rfl

/-- A roll call started by a part that leads hands nothing on. -/
theorem rollCallFrom_held (h : aloneRole x.form.role = false) (e : UnitEnd) : rollCallFrom e x =
    { x with route := { x.route with prog := { x.route.prog with source := .own } }
             form := calling e x.form
             out := { x.out with line := x.out.line ++ [.rollCall x.unit.unitId x.form.record.epoch] } } := by
  rw [rollCallFrom_eq, changeRole_held h rfl]
  rfl

theorem startRollCall_some {e : UnitEnd} (h : x.form.qualEnd = some e) : startRollCall x = rollCallFrom e x := by
  rw [startRollCall, h]

theorem startRollCall_none (h : x.form.qualEnd = none) : startRollCall x = x := by
  rw [startRollCall, h]

/-- A change of the Formation Controller that leaves the tallies alone, by what it is. -/
theorem form_keeps {f : Formation} (h1 : f.trainTally = x.form.trainTally) (h2 : f.spacing = x.form.spacing)
    (h3 : f.tallyPending = x.form.tallyPending) (h4 : LineItem.tally ∈ f.queue ↔ LineItem.tally ∈ x.form.queue) :
    Keeps [.form] x { x with form := f } := onFormBut_keeps (f := fun _ => f) h1 h2 h3 h4

theorem line_keeps {l : List LineFrame} : Keeps [.line] x { x with out := { x.out with line := l } } := by
  refine ⟨fun b hb => ?_⟩
  cases b <;> first | exact absurd hb (by decide) | simp [Block.kept, Block.same]

/-- Source and formation set, and frames sent: what such a step changes. -/
theorem sourceForm_keeps {f : Formation} {src : Source} {l : List LineFrame} (h1 : f.trainTally = x.form.trainTally)
    (h2 : f.spacing = x.form.spacing) (h3 : f.tallyPending = x.form.tallyPending)
    (h4 : LineItem.tally ∈ f.queue ↔ LineItem.tally ∈ x.form.queue) :
    Keeps [.source, .form, .line] x { x with
      route := { x.route with prog := { x.route.prog with source := src } }, form := f, out := { x.out with line := l } } :=
  Keeps.step (M := [.line]) line_keeps rfl (Keeps.step (M := [.form]) (form_keeps (x := { x with
    route := { x.route with prog := { x.route.prog with source := src } } }) h1 h2 h3 h4) rfl
      (Keeps.step (M := [.source]) source_keeps rfl .refl))

end Sys2Proof.Proofs.Coupler
end

section
/-! Two leaders, the claim, and the roll call as it travels the train. -/
namespace Sys2Proof.Proofs.Coupler
open Sys2Proof Sys2Proof.Machine Effects Requests Owners Events OwnEntries Rendering Journey Driver Slots Notices

variable {s : State} {c : Instr} {x y z : Part} {L : List Block} {u : Nat}

/-! ### The conflict of two leaders -/

/-- What a leader does that hears another one (R73). -/
structure Conflict (u : Nat) (x y : Part) : Prop where
  keeps : Keeps [.source, .form, .events, .host, .line] x y
  latched : y.host.latched.getLsbD 2 = true
  record : y.form.record = x.form.record
  grant : y.form.grant = x.form.grant ∧ y.form.ended = x.form.ended ∧ y.form.queue = x.form.queue
  yields : u ≤ x.unit.unitId → y.form.role = .formingFollower ∧ y.form.rollCall = none ∧ y.form.windowOpen = false ∧
    y.form.beaconLoss = some (x.host.params.holdLimit + 2) ∧ y.out.line = x.out.line
  leadsOn : x.unit.unitId < u → x.form.role = .leading →
    y.form.role = .leading ∧ y.form.rollPending = true ∧ y.out.line = x.out.line
  callsAgain : x.unit.unitId < u → x.form.role = .formingLeader → x.form.qualEnd ≠ none →
    y.form.role = .formingLeader ∧ y.form.rollCall = some [] ∧
      y.out.line = x.out.line ++ [.rollCall x.unit.unitId x.form.record.epoch]

theorem latch_keeps_blocks (k : EventKind) (x : Part) : Keeps [.source, .form, .events, .host, .line] x (latch k x) :=
  Keeps.step latch_keeps rfl .refl

@[simp] theorem latch_form (k : EventKind) (x : Part) : (latch k x).form = x.form := by rw [latch_eq]
@[simp] theorem latch_out (k : EventKind) (x : Part) : (latch k x).out = x.out := by rw [latch_eq]

theorem yields_iff {a b : Nat} : (decide (a < b) || a == b) = true ↔ a ≤ b := by
  simp
  omega

theorem yieldLead_keeps_line (h : leads x.form.role = true) : Keeps [.source, .form, .line] x (yieldLead x) := by
  rw [yieldLead_eq h]
  exact sourceForm_keeps rfl rfl rfl Iff.rfl

theorem rollCallFrom_keeps_line (h : aloneRole x.form.role = false) (e : UnitEnd) :
    Keeps [.source, .form, .line] x (rollCallFrom e x) := by
  rw [rollCallFrom_held h]
  exact sourceForm_keeps rfl rfl rfl Iff.rfl

theorem conflict_yields (h : leads x.form.role = true) (hu : u ≤ x.unit.unitId) : Conflict u x (leaderConflict u x) := by
  have heq : leaderConflict u x = latch .leaderConflict (yieldLead x) := by
    rw [leaderConflict, if_pos (yields_iff.mpr hu)]
  have hform : (leaderConflict u x).form = { quietLeader x.form with
      role := .formingFollower, waiting := false, rollFront := none, heardAnswers := 0
      beaconLoss := some (x.host.params.holdLimit + 2) } := by rw [heq, latch_form, yieldLead_eq h]
  have hline : (leaderConflict u x).out.line = x.out.line := by rw [heq, latch_out, yieldLead_eq h]
  refine ⟨?_, ?_, by rw [hform]; rfl, by rw [hform]; exact ⟨rfl, rfl, rfl⟩,
    fun _ => ⟨by rw [hform], by rw [hform]; rfl, by rw [hform]; rfl, by rw [hform], hline⟩,
    fun hlt => absurd hlt (by omega), fun hlt => absurd hlt (by omega)⟩
  · rw [heq]
    exact Keeps.step (latch_keeps_blocks ..) rfl (Keeps.step (yieldLead_keeps_line h) rfl .refl)
  · rw [heq]
    exact latched_of_latch (.inr (by decide))

theorem conflict_leadsOn (h : x.form.role = .leading) (hu : x.unit.unitId < u) : Conflict u x (leaderConflict u x) := by
  have heq : leaderConflict u x = latch .leaderConflict (onForm (fun f => { f with rollPending := true }) x) := by
    rw [leaderConflict, if_neg (fun hle => by have := yields_iff.mp hle; omega), if_pos (by simpa using h)]
  refine ⟨?_, ?_, by rw [heq]; rfl, by rw [heq]; exact ⟨rfl, rfl, rfl⟩, fun hle => absurd hle (by omega),
    fun _ _ => by rw [heq]; exact ⟨h, rfl, rfl⟩, fun _ hforming => absurd (h.symm.trans hforming) nofun⟩
  · rw [heq]
    exact Keeps.step (latch_keeps_blocks ..) rfl
      (Keeps.step (M := [.form]) (onFormBut_keeps rfl rfl rfl Iff.rfl) rfl .refl)
  · rw [heq]
    exact latched_of_latch (.inr (by decide))

theorem conflict_callsAgain (h : x.form.role = .formingLeader) (hu : x.unit.unitId < u) : Conflict u x (leaderConflict u x) := by
  have heq : leaderConflict u x = latch .leaderConflict (startRollCall x) := by
    rw [leaderConflict, if_neg (fun hle => by have := yields_iff.mp hle; omega), if_neg (by simp [h])]
  have hheld : aloneRole x.form.role = false := by rw [h]; rfl
  cases hend : x.form.qualEnd with
  | none =>
    rw [startRollCall_none hend] at heq
    refine ⟨by rw [heq]; exact latch_keeps_blocks .., by rw [heq]; exact latched_of_latch (.inr (by decide)),
      by rw [heq, latch_form], by rw [heq, latch_form]; exact ⟨rfl, rfl, rfl⟩, fun hle => absurd hle (by omega),
      fun _ hlead => absurd (h.symm.trans hlead) nofun, fun _ _ hne => absurd rfl (hend ▸ hne)⟩
  | some e =>
    rw [startRollCall_some hend] at heq
    have hform : (leaderConflict u x).form = calling e x.form := by rw [heq, latch_form, rollCallFrom_held hheld]
    refine ⟨?_, by rw [heq]; exact latched_of_latch (.inr (by decide)), by rw [hform]; rfl,
      by rw [hform]; exact ⟨rfl, rfl, rfl⟩, fun hle => absurd hle (by omega),
      fun _ hlead => absurd (h.symm.trans hlead) nofun,
      fun _ _ _ => ⟨by rw [hform]; rfl, by rw [hform]; rfl, by rw [heq, latch_out, rollCallFrom_held hheld]⟩⟩
    rw [heq]
    exact Keeps.step (latch_keeps_blocks ..) rfl (Keeps.step (rollCallFrom_keeps_line hheld e) rfl .refl)

theorem conflict (h : x.form.role = .leading ∨ x.form.role = .formingLeader) (u : Nat) : Conflict u x (leaderConflict u x) := by
  obtain hu | hu := Nat.lt_or_ge x.unit.unitId u
  · obtain h | h := h
    · exact conflict_leadsOn h hu
    · exact conflict_callsAgain h hu
  · exact conflict_yields (leads_iff.mpr h) hu

/-! ### A ROLL_CALL at a part -/

/-- The formation of a part that waits for ROLL. -/
def awaiting (n : Nat) (f : Formation) : Formation :=
  { f with role := .formingFollower, waiting := true, rollFront := none, heardAnswers := 0
           drive := { a := false, b := false }, beaconLoss := some (n + 2) }

theorem awaitRoll_eq (x : Part) : awaitRoll x =
    { x with route := { x.route with prog := { x.route.prog with source := .own } }
             form := { awaiting x.host.params.holdLimit x.form with
               trainTally := (changeRole .formingFollower x).form.trainTally }
             seat := (changeRole .formingFollower x).seat, panel := (changeRole .formingFollower x).panel
             disp := (changeRole .formingFollower x).disp } := by
  unfold awaitRoll
  rw [changeRole_eq, changeRole_source (by decide)]
  rfl

theorem awaitRoll_held (h : aloneRole x.form.role = false) : awaitRoll x =
    { x with route := { x.route with prog := { x.route.prog with source := .own } }
             form := awaiting x.host.params.holdLimit x.form } := by
  rw [awaitRoll_eq, changeRole_held h rfl]
  rfl

/-- A ROLL_CALL at a leader: the conflict, and it waits for ROLL where it yields. -/
theorem conflict_rollCall (h : x.form.role = .leading ∨ x.form.role = .formingLeader) (u : Nat) :
    Conflict u x (hearRollCall u x) ∧ (u ≤ x.unit.unitId → (hearRollCall u x).form.waiting = true) := by
  have hconf := conflict h u
  have heq : hearRollCall u x = if (leaderConflict u x).form.role == .formingFollower then awaitRoll (leaderConflict u x)
      else leaderConflict u x := by rw [hearRollCall, if_pos (leads_iff.mpr h)]
  obtain hu | hu := Nat.lt_or_ge x.unit.unitId u
  · have hrole : ((leaderConflict u x).form.role == Role.formingFollower) = false := by
      obtain hl | hf := h
      · rw [(hconf.leadsOn hu hl).1]
        rfl
      · cases hend : x.form.qualEnd with
        | none =>
          have hsame : leaderConflict u x = latch .leaderConflict x := by
            rw [leaderConflict, if_neg (fun hle => by have := yields_iff.mp hle; omega), if_neg (by simp [hf]),
              startRollCall_none hend]
          rw [hsame, latch_form, hf]
          rfl
        | some e =>
          rw [(hconf.callsAgain hu hf (by simp [hend])).1]
          rfl
    rw [heq, hrole]
    exact ⟨hconf, fun hle => absurd hle (by omega)⟩
  · obtain ⟨hrole, hcall, hwindow, hloss, hline⟩ := hconf.yields hu
    have hheld : aloneRole (leaderConflict u x).form.role = false := by rw [hrole]; rfl
    have hparams : (leaderConflict u x).host.params = x.host.params := params_of_keeps hconf.keeps (by decide)
    rw [heq, if_pos (by simp [hrole]), awaitRoll_held hheld]
    refine ⟨⟨?_, hconf.latched, hconf.record, hconf.grant, fun _ => ⟨rfl, hcall, hwindow, ?_, hline⟩,
      fun hlt => absurd hlt (by omega), fun hlt => absurd hlt (by omega)⟩, fun _ => rfl⟩
    · exact Keeps.step (M := [.form]) (form_keeps (x := { leaderConflict u x with
        route := { (leaderConflict u x).route with prog := { (leaderConflict u x).route.prog with source := .own } } })
        rfl rfl rfl Iff.rfl) rfl (Keeps.step (M := [.source]) source_keeps rfl hconf.keeps)
    · rw [← hparams]
      rfl

/-- A change of the formation that prepares a conflict: what R73 reads stands. -/
structure Prepared (x y : Part) : Prop where
  keeps : Keeps [.form] x y
  unit : y.unit = x.unit
  host : y.host = x.host
  line : y.out.line = x.out.line
  record : y.form.record = x.form.record
  role : y.form.role = x.form.role
  qualEnd : y.form.qualEnd = x.form.qualEnd

theorem Prepared.refl (x : Part) : Prepared x x := ⟨.refl, rfl, rfl, rfl, rfl, rfl, rfl⟩

theorem prepared_hear (x : Part) (n : Nat) : Prepared x (onForm (fun f => { endGrant f with heardCycle := some n }) x) := by
  have heq : onForm (fun f => { endGrant f with heardCycle := some n }) x =
      onForm (fun f => { f with grant := none, ended := endedThen f, heardCycle := some n }) x := by
    simp only [onForm, endGrant_eq]
  rw [heq]
  exact ⟨onFormBut_keeps rfl rfl rfl Iff.rfl, rfl, rfl, rfl, rfl, rfl, rfl⟩

theorem beginGrant_eq (u : Nat) (f : Formation) :
    beginGrant u f = { f with grant := some u, ended := (endedThen f).filter fun v => v != u } := by
  rw [beginGrant, endGrant_eq]

theorem prepared_noteGrant (x : Part) (leader v : Nat) : Prepared x (noteGrant leader v x) := by
  unfold noteGrant
  split
  · simp only [onForm, beginGrant_eq]
    exact ⟨form_keeps rfl rfl rfl Iff.rfl, rfl, rfl, rfl, rfl, rfl, rfl⟩
  · exact .refl x

/-- The part at the end of a conflict, as O35 reads it. -/
def Settled (u : Nat) (waits : Prop) (s t : Part) : Prop :=
  t.host.latched.getLsbD 2 = true ∧ t.form.record = s.form.record ∧
    (u ≤ s.unit.unitId → t.form.role = .formingFollower ∧ t.form.rollCall = none ∧ t.form.windowOpen = false ∧
      t.form.beaconLoss = some (s.host.params.holdLimit + 2) ∧ t.out.line = [] ∧ (waits → t.form.waiting = true)) ∧
    (s.unit.unitId < u → s.form.role = .leading → t.form.role = .leading ∧ t.form.rollPending = true ∧ t.out.line = []) ∧
    (s.unit.unitId < u → s.form.role = .formingLeader → s.form.qualEnd ≠ none →
      t.form.role = .formingLeader ∧ t.form.rollCall = some [] ∧ t.out.line = [.rollCall s.unit.unitId s.form.record.epoch])

theorem step_of_conflict {f : Part → Part} {waits : Prop} (hrun : s.part.supply.mode = .run)
    (hc : effect c (quiet s.part) = inRun f (quiet s.part)) (hprep : Prepared (quiet s.part) x)
    (hconf : Conflict u x (f (quiet s.part))) (hwaits : waits → u ≤ s.part.unit.unitId → (f (quiet s.part)).form.waiting = true) :
    ∃ t, exec c s = .next t ∧ Only [.source, .form, .events, .host, .line] s t ∧ Settled u waits s.part t.part := by
  obtain ⟨t, hexec, rfl, honly⟩ := step_in_run (L := [.source, .form, .events, .host, .line]) hrun hc
    (Keeps.step hconf.keeps rfl (Keeps.step hprep.keeps rfl .refl))
  obtain ⟨-, hlatched, hrecord, -, hyields, hleadsOn, hcalls⟩ := hconf
  rw [hprep.unit, hprep.host, hprep.line, hprep.role, hprep.record, hprep.qualEnd] at *
  refine ⟨_, hexec, honly, ?_⟩
  simp only [Settled, finish_latched, finish_form, finish_line]
  refine ⟨hlatched, hrecord, fun hle => ?_, hleadsOn, hcalls⟩
  obtain ⟨hrole, hcall, hwindow, hloss, hline⟩ := hyields hle
  exact ⟨hrole, hcall, hwindow, hloss, hline, fun hw => hwaits hw hle⟩

/-- Settles O35: the four frames of another leader, each after what it does first. -/
theorem twoLeadersAreSettledByUnitId : Obligations.TwoLeadersAreSettledByUnitId := by
  intro s c u hrun hrole hc
  have hleads : leads s.part.form.role = true := leads_iff.mpr hrole
  obtain ⟨f, rfl, rfl⟩ | ⟨ep, us, rfl⟩ | ⟨v, cyc, rfl⟩ | ⟨ep, rfl⟩ := hc
  · have hprep := prepared_hear (quiet s.part) f.cycle
    have heq : hearBeacon f (quiet s.part) =
        leaderConflict f.leader (onForm (fun g => { endGrant g with heardCycle := some f.cycle }) (quiet s.part)) := by
      have hrole' : (quiet s.part).form.role = .leading ∨ (quiet s.part).form.role = .formingLeader := hrole
      unfold hearBeacon
      obtain h | h := hrole' <;> rw [h]
    exact step_of_conflict (f := hearBeacon f) hrun rfl hprep
      (by rw [heq]; exact conflict (by rw [hprep.role]; exact hrole) f.leader) nofun
  · have heq : hearFormation u ep us (quiet s.part) = leaderConflict u (quiet s.part) := if_pos hleads
    exact step_of_conflict (f := hearFormation u ep us) hrun rfl (.refl _) (by rw [heq]; exact conflict (x := quiet s.part) hrole u) nofun
  · have hprep := prepared_noteGrant (quiet s.part) u v
    have heq : hearGrant u v cyc (quiet s.part) = leaderConflict u (noteGrant u v (quiet s.part)) := by
      have hrole' : (quiet s.part).form.role = .leading ∨ (quiet s.part).form.role = .formingLeader := hrole
      unfold hearGrant
      obtain h | h := hrole' <;> rw [h]
    exact step_of_conflict (f := hearGrant u v cyc) hrun rfl hprep
      (by rw [heq]; exact conflict (by rw [hprep.role]; exact hrole) u) nofun
  · obtain ⟨hconf, hwaits⟩ := conflict_rollCall (x := quiet s.part) hrole u
    exact step_of_conflict (f := hearRollCall u) hrun rfl (.refl _) hconf fun _ => hwaits

end Sys2Proof.Proofs.Coupler
end

section
/-! The claim of leadership, and ROLL and its answers along the train. -/
namespace Sys2Proof.Proofs.Coupler
open Sys2Proof Sys2Proof.Machine Effects Requests Owners Events OwnEntries Rendering Journey Driver Slots Notices

variable {s : State} {c : Instr} {x y z : Part} {L : List Block} {u : Nat} {e : UnitEnd}

/-- The next cycle count. -/
def nextCycle (f : Formation) : Nat := (f.cycleCount + 1) % 65536

theorem sendBeacon_eq (x : Part) : sendBeacon x =
    { x with form := { x.form with grant := none, ended := endedThen x.form, cycleCount := nextCycle x.form }
             out := { x.out with line := x.out.line ++ [.beacon (beaconOf x (nextCycle x.form))] } } := by
  simp only [sendBeacon, onForm, endGrant_eq]
  rfl

/-- A claim: the beacon, then the roll call. -/
theorem claimLead_eq (hlead : leads x.form.role = false) (he : x.form.qualEnd = some e) : claimLead x =
    { x with route := { x.route with prog := { x.route.prog with source := .own } }
             form := { calling e x.form with
               grant := none, ended := endedThen x.form, cycleCount := nextCycle x.form
               trainTally := (changeRole .formingLeader x).form.trainTally }
             seat := (changeRole .formingLeader x).seat, panel := (changeRole .formingLeader x).panel
             disp := (changeRole .formingLeader x).disp
             out := { x.out with line := x.out.line ++ [.beacon (beaconOf x (nextCycle x.form))] ++
               [.rollCall x.unit.unitId x.form.record.epoch] } } := by
  have hmay : mayClaim x.form = true := by simp [mayClaim, hlead, he]
  have hbeacon : sendBeacon (changeRole .formingLeader x) =
      { x with route := { x.route with prog := { x.route.prog with source := .own } }
               form := { x.form with
                 role := .formingLeader, grant := none, ended := endedThen x.form, cycleCount := nextCycle x.form
                 trainTally := (changeRole .formingLeader x).form.trainTally }
               seat := (changeRole .formingLeader x).seat, panel := (changeRole .formingLeader x).panel
               disp := (changeRole .formingLeader x).disp
               out := { x.out with line := x.out.line ++ [.beacon (beaconOf x (nextCycle x.form))] } } := by
    rw [sendBeacon_eq, changeRole_eq, changeRole_source (by decide)]
    rfl
  rw [claimLead, if_pos hmay, hbeacon]
  exact (startRollCall_some (by exact he)).trans (rollCallFrom_held rfl e)

theorem step_of_claim (hrun : s.part.supply.mode = .run) (h1 : s.part.form.role ≠ .leading)
    (h2 : s.part.form.role ≠ .formingLeader) (he : s.part.form.qualEnd = some e) :
    ∃ t, exec .claim s = .next t ∧ Only [.source, .form, .tallies, .seat, .panel, .disp, .line] s t ∧
      t.part.form.role = .formingLeader ∧ t.part.form.rollCall = some [] ∧ t.part.form.record = s.part.form.record ∧
      t.part.form.cycleCount = (s.part.form.cycleCount + 1) % 65536 ∧ t.part.form.drive.get e = false ∧
      t.part.form.drive.get e.other = s.part.form.coupled.get e.other ∧ t.part.route.prog.source = .own ∧
      t.part.out.line = [.beacon (beaconOf s.part ((s.part.form.cycleCount + 1) % 65536)),
        .rollCall s.part.unit.unitId s.part.form.record.epoch] := by
  have hlead : leads (quiet s.part).form.role = false := Bool.eq_false_iff.mpr fun hl =>
    (leads_iff.mp hl).elim h1 h2
  have heq := claimLead_eq (x := quiet s.part) hlead he
  obtain ⟨t, hexec, rfl, honly⟩ := step_in_run (c := .claim) (f := claimLead) hrun rfl claimLead_keeps
  obtain ⟨hback, hfront⟩ := drivenFrom_get e s.part.form.coupled
  refine ⟨_, hexec, honly, ?_⟩
  rw [finish_form, finish_route, finish_line, heq]
  exact ⟨rfl, rfl, rfl, rfl, hback, hfront, rfl, rfl⟩

theorem step_of_rollCall {ep : Nat} (hrun : s.part.supply.mode = .run) (h1 : s.part.form.role ≠ .leading)
    (h2 : s.part.form.role ≠ .formingLeader) :
    ∃ t, exec (.rollCall u ep) s = .next t ∧ Only [.source, .form, .tallies, .seat, .panel, .disp] s t ∧
      t.part.route.prog.source = .own ∧
      t.part.form = { awaiting s.part.host.params.holdLimit s.part.form with trainTally := t.part.form.trainTally } := by
  have hlead : leads (quiet s.part).form.role = false := Bool.eq_false_iff.mpr fun hl =>
    (leads_iff.mp hl).elim h1 h2
  have heq : hearRollCall u (quiet s.part) = awaitRoll (quiet s.part) := by
    rw [hearRollCall, hlead]
    rfl
  obtain ⟨t, hexec, rfl, honly⟩ := step_in_run (L := [.source, .form, .tallies, .seat, .panel, .disp]) (c := .rollCall u ep)
    (f := hearRollCall u) hrun rfl (by rw [heq]; exact awaitRoll_keeps)
  refine ⟨_, hexec, honly, ?_⟩
  rw [finish_form, finish_route, heq, awaitRoll_eq]
  exact ⟨rfl, rfl⟩

theorem step_of_rollSensed (hrun : s.part.supply.mode = .run) (hrole : s.part.form.role = .formingFollower)
    (hwait : s.part.form.waiting = true) :
    ∃ t, exec (.rollSensed e) s = .next t ∧ Only [.form, .line] s t ∧
      t.part.form = { s.part.form with waiting := false, rollFront := some e, drive := drivenFrom e s.part.form.coupled } ∧
      t.part.out.line = [.rollAnswer {
        position := 2 + s.part.form.heardAnswers, unitId := s.part.unit.unitId, booked := s.part.unit.coaches.map (·.booked)
        portion := s.part.unit.portionTag, route := routeInForce s.part.route, front := e }] := by
  have hcond : ((quiet s.part).form.role == .formingFollower && (quiet s.part).form.waiting) = true := by simp [hrole, hwait]
  have heq : rollSensed e (quiet s.part) = { quiet s.part with
      form := { s.part.form with waiting := false, rollFront := some e, drive := drivenFrom e s.part.form.coupled }
      out := { (quiet s.part).out with line := (quiet s.part).out.line ++ [.rollAnswer (ownAnswer e (quiet s.part))] } } := by
    rw [rollSensed, if_pos hcond]
    rfl
  obtain ⟨t, hexec, rfl, honly⟩ := step_in_run (c := .rollSensed e) (f := rollSensed e) hrun rfl rollSensed_keeps
  refine ⟨_, hexec, honly, ?_⟩
  rw [finish_form, finish_line, heq]
  exact ⟨rfl, rfl⟩

theorem step_of_heardAnswer {f : RollAnswerFrame} (hrun : s.part.supply.mode = .run)
    (hrole : s.part.form.role = .formingFollower) : ∃ t, exec (.rollAnswer f) s = .next t ∧ Only [.form] s t ∧
      t.part.form = { s.part.form with heardAnswers := s.part.form.heardAnswers + 1 } := by
  have heq : hearAnswer f (quiet s.part) = onForm (fun f => { f with heardAnswers := f.heardAnswers + 1 }) (quiet s.part) := by
    have hrole' : (quiet s.part).form.role = .formingFollower := hrole
    unfold hearAnswer
    rw [hrole']
  obtain ⟨t, hexec, rfl, honly⟩ := step_in_run (L := [.form]) (c := .rollAnswer f) (f := hearAnswer f) hrun rfl
    (by rw [heq]; exact onFormBut_keeps rfl rfl rfl Iff.rfl)
  refine ⟨_, hexec, honly, ?_⟩
  rw [finish_form, heq]
  rfl

/-- Settles O31: the claim, the ROLL_CALL heard, ROLL sensed by a part that waits, and an answer heard. -/
theorem claimsAndRollCallsTravelTheTrain : Obligations.ClaimsAndRollCallsTravelTheTrain := by
  refine ⟨fun s e hrun h1 h2 he => step_of_claim hrun h1 h2 he, fun s u ep hrun h1 h2 => step_of_rollCall hrun h1 h2,
    fun s e hrun hrole hwait => ?sensed, fun s f hrun hrole => step_of_heardAnswer hrun hrole⟩
  case sensed =>
    obtain ⟨t, hexec, honly, hform, hline⟩ := step_of_rollSensed (e := e) hrun hrole hwait
    obtain ⟨hback, hfront⟩ := drivenFrom_get e s.part.form.coupled
    have hdrive : t.part.form.drive = drivenFrom e s.part.form.coupled := by rw [hform]
    exact ⟨t, hexec, honly, by rw [hdrive]; exact hform, by rw [hdrive, hback], by rw [hdrive, hfront], hline⟩

end Sys2Proof.Proofs.Coupler
end

section
/-! The turn of a granted part: which items it sends, in which order, and what stays queued. -/
namespace Sys2Proof.Proofs.Turn
open Sys2Proof Sys2Proof.Machine Effects Requests Owners Events OwnEntries Rendering Journey Driver Slots Notices Coupler DisplayLine

variable {s : State} {c : Instr} {x y z : Part} {L : List Block} {q : List LineItem} {i : LineItem}

/-! ### The order of the items -/

/-- The items of one level, oldest first. -/
def atLevel (k : Nat) (q : List LineItem) : List LineItem := q.filter fun x => itemLevel x == k

/-- The items of a line queue, highest level first and oldest first within a level. -/
def byLevel (q : List LineItem) : List LineItem := atLevel 3 q ++ atLevel 2 q ++ atLevel 1 q

theorem itemLevel_range (i : LineItem) : 1 ≤ itemLevel i ∧ itemLevel i ≤ 3 := by
  cases i <;> simp [itemLevel]

theorem foldl_max_spec (l : List Nat) (m : Nat) : m ≤ l.foldl max m ∧ (∀ a ∈ l, a ≤ l.foldl max m) ∧
    (l.foldl max m = m ∨ l.foldl max m ∈ l) := by
  induction l generalizing m with
  | nil => simp
  | cons a l ih =>
    obtain ⟨hge, hall, hmem⟩ := ih (max m a)
    simp only [List.foldl_cons, List.mem_cons, forall_eq_or_imp]
    refine ⟨by omega, ⟨by omega, hall⟩, ?_⟩
    obtain h | h := hmem
    · rw [h]
      omega
    · exact .inr (.inr h)

theorem le_queueLevel (h : i ∈ q) : itemLevel i ≤ queueLevel q :=
  (foldl_max_spec (q.map itemLevel) 0).2.1 _ (List.mem_map_of_mem h)

theorem atLevel_eq_nil {k : Nat} (h : queueLevel q < k) : atLevel k q = [] := by
  refine List.filter_eq_nil_iff.mpr fun i hi => ?_
  have := le_queueLevel hi
  simp
  omega

/-- A queue with items has one at its level. -/
theorem atLevel_queueLevel (h : q ≠ []) : atLevel (queueLevel q) q ≠ [] ∧ 1 ≤ queueLevel q ∧ queueLevel q ≤ 3 := by
  obtain ⟨i, hi⟩ := List.exists_mem_of_ne_nil q h
  have hi' := le_queueLevel hi
  obtain ⟨h1, -⟩ := itemLevel_range i
  obtain h0 | hmem := (foldl_max_spec (q.map itemLevel) 0).2.2
  · have : queueLevel q = 0 := h0
    omega
  · obtain ⟨j, hj, hlevel⟩ := List.mem_map.mp hmem
    have hlevel' : itemLevel j = queueLevel q := hlevel
    obtain ⟨hj1, hj3⟩ := itemLevel_range j
    exact ⟨List.ne_nil_of_mem (List.mem_filter.mpr ⟨hj, by simpa using hlevel'⟩), by omega, by omega⟩

/-- The next item is the first in that order. -/
theorem nextItem_eq (q : List LineItem) : nextItem q = (byLevel q).head? := by
  by_cases h : q = []
  · rw [h]
    rfl
  obtain ⟨hne, h1, h3⟩ := atLevel_queueLevel h
  have hnext : nextItem q = (atLevel (queueLevel q) q).head? := by rw [nextItem, atLevel, List.head?_filter]
  rw [hnext, byLevel]
  obtain hl | hl | hl : queueLevel q = 1 ∨ queueLevel q = 2 ∨ queueLevel q = 3 := by omega
  · rw [atLevel_eq_nil (k := 3) (by omega), atLevel_eq_nil (k := 2) (by omega), hl]
    rfl
  · rw [hl] at hne ⊢
    rw [atLevel_eq_nil (k := 3) (by omega), List.nil_append, List.head?_append_of_ne_nil _ hne]
  · rw [hl] at hne ⊢
    rw [List.append_assoc, List.head?_append_of_ne_nil _ hne]

theorem filter_erase (p : LineItem → Bool) (i : LineItem) (q : List LineItem) :
    (q.erase i).filter p = if p i then (q.filter p).erase i else q.filter p := by
  induction q with
  | nil => simp
  | cons j q ih =>
    by_cases hj : j = i
    · subst hj
      by_cases hp : p j = true <;> simp [hp]
    · have hbeq : (j == i) = false := by simpa using hj
      rw [List.erase_cons_tail (by simp [hj])]
      by_cases hpj : p j = true
      · by_cases hpi : p i = true <;> simp [hpj, hpi, ih, hbeq]
      · by_cases hpi : p i = true <;> simp [hpj, hpi, ih]

/-- Without the next item the order is the same. -/
theorem byLevel_erase {t : List LineItem} (h : byLevel q = i :: t) : byLevel (q.erase i) = t := by
  have hat (k : Nat) : atLevel k (q.erase i) = if itemLevel i = k then (atLevel k q).erase i else atLevel k q := by
    rw [atLevel, filter_erase]
    simp only [beq_iff_eq]
    rfl
  have hmem : i ∈ byLevel q := h ▸ List.mem_cons_self
  have hlevel {k : Nat} (hk : i ∈ atLevel k q) : itemLevel i = k := by simpa using (List.mem_filter.mp hk).2
  simp only [byLevel, hat]
  cases h3 : atLevel 3 q with
  | cons j l =>
    rw [byLevel, h3] at h
    simp only [List.cons_append, List.cons.injEq] at h
    obtain ⟨rfl, rfl⟩ := h
    have hl := hlevel (k := 3) (h3 ▸ List.mem_cons_self)
    simp [hl]
  | nil =>
    rw [byLevel, h3, List.nil_append] at h
    cases h2 : atLevel 2 q with
    | cons j l =>
      rw [h2] at h
      simp only [List.cons_append, List.cons.injEq] at h
      obtain ⟨rfl, rfl⟩ := h
      have hl := hlevel (k := 2) (h2 ▸ List.mem_cons_self)
      simp [hl]
    | nil =>
      rw [h2, List.nil_append] at h
      have hl := hlevel (k := 1) (h ▸ List.mem_cons_self)
      simp [hl, h]

theorem byLevel_perm (q : List LineItem) : (byLevel q).Perm q := by
  induction q with
  | nil => exact .refl _
  | cons j q ih =>
    have hcons (k : Nat) : atLevel k (j :: q) = if itemLevel j = k then j :: atLevel k q else atLevel k q := by
      simp [atLevel, List.filter_cons]
    simp only [byLevel, hcons] at ih ⊢
    obtain ⟨h1, h3⟩ := itemLevel_range j
    obtain hl | hl | hl : itemLevel j = 1 ∨ itemLevel j = 2 ∨ itemLevel j = 3 := by omega
    · simpa [hl] using List.perm_middle.trans (ih.cons j)
    · rw [List.append_assoc] at ih
      simpa [hl] using List.perm_middle.trans (ih.cons j)
    · simpa [hl] using ih.cons j

theorem byLevel_sorted (q : List LineItem) : (byLevel q).Pairwise fun a b => itemLevel b ≤ itemLevel a := by
  have hat (k : Nat) {a : LineItem} (ha : a ∈ atLevel k q) : itemLevel a = k := by simpa using (List.mem_filter.mp ha).2
  have hpair (k : Nat) : (atLevel k q).Pairwise fun a b => itemLevel b ≤ itemLevel a :=
    List.pairwise_of_forall_mem_list fun a ha b hb => by rw [hat k ha, hat k hb]
  refine List.pairwise_append.mpr ⟨List.pairwise_append.mpr ⟨hpair 3, hpair 2, fun a ha b hb => ?_⟩, hpair 1,
    fun a ha b hb => ?_⟩
  · rw [hat 3 ha, hat 2 hb]
    decide
  · rw [hat 1 hb]
    exact (itemLevel_range a).1

/-- Erasing what stands in front of a reordering leaves the rest. -/
theorem perm_foldl_erase {a b : List LineItem} (h : q.Perm (a ++ b)) : (a.foldl List.erase q).Perm b := by
  induction a generalizing q with
  | nil => exact h
  | cons j a ih =>
    refine ih ?_
    have := h.erase j
    rwa [List.cons_append, List.erase_cons_head] at this

/-! ### What is sent -/

/-- What items send does not depend on the queue and the forwards as they stand. -/
theorem turnSent_congr (items : List LineItem) (n n' : Nat) (fs fs' : List Forward) (q : List LineItem) (o : Outputs) :
    turnSent { x with form := { x.form with queue := q, lastNumber := n', forwards := fs' }
                      out := o } items n fs = turnSent x items n fs := by
  induction items generalizing n fs with
  | nil => rfl
  | cons i items ih =>
    cases i with
    | noticeFwd tag =>
      simp only [turnSent]
      split
      · rw [ih]
      · exact ih n fs
    | noticeAns o i k full => simp only [turnSent, ih]
    | formationReq => simp only [turnSent, ih]
    | tally =>
      simp only [turnSent, ih]
      rfl

theorem tallyFrame_eq (x : Part) : tallyFrame x =
    { unitId := x.unit.unitId, epoch := x.form.record.epoch, portion := x.unit.portionTag, route := routeInForce x.route
      coaches := x.unit.coaches.zipIdx.map fun c =>
        { position := (ownPosition x c.2).getD 0, booked := c.1.booked
          freeEnd := ((x.seat.counts[c.2]?).getD (0, 0)).1, freeDivide := ((x.seat.counts[c.2]?).getD (0, 0)).2 } } := by
  rw [tallyFrame, mapFrom_eq_map_zipIdx]

/-- The part after some items were sent. -/
def afterItems (x : Part) (q : List LineItem) (r : List LineFrame × Nat × List Forward) : Part :=
  { x with form := { x.form with queue := q, lastNumber := r.2.1, forwards := r.2.2 }
           out := { x.out with line := x.out.line ++ r.1 } }

/-- One item sent, taken off the queue before. -/
theorem sendItem_eq (i : LineItem) (q : List LineItem) (x : Part) :
    sendItem i (onForm (fun f => { f with queue := q }) x) =
      afterItems x q (turnSent x [i] x.form.lastNumber x.form.forwards) := by
  cases i with
  | noticeFwd tag =>
    simp only [sendItem, turnSent, onForm]
    cases hfind : x.form.forwards.find? fun e => e.tag == tag with
    | none => simp [afterItems]
    | some e =>
      simp only [beq_iff_eq]
      rfl
  | noticeAns o i k full => rfl
  | formationReq => rfl
  | tally =>
    simp only [sendItem, turnSent, tallyFrame_eq]
    rfl

theorem turnSent_cons (i : LineItem) (items : List LineItem) (n : Nat) (fs : List Forward) :
    turnSent x (i :: items) n fs =
      ((turnSent x [i] n fs).1 ++ (turnSent x items (turnSent x [i] n fs).2.1 (turnSent x [i] n fs).2.2).1,
        (turnSent x items (turnSent x [i] n fs).2.1 (turnSent x [i] n fs).2.2).2) := by
  cases i with
  | noticeFwd tag =>
    simp only [turnSent]
    split <;> rfl
  | _ => rfl

/-- Up to `k` items sent: those first in the order, each with its frame. -/
theorem sendItems_eq (k : Nat) (x : Part) : sendItems k x =
    afterItems x (((byLevel x.form.queue).take k).foldl List.erase x.form.queue)
      (turnSent x ((byLevel x.form.queue).take k) x.form.lastNumber x.form.forwards) := by
  induction k generalizing x with
  | zero => simp [sendItems, turnSent, afterItems]
  | succ k ih =>
    cases hq : byLevel x.form.queue with
    | nil => simp [sendItems, nextItem_eq, hq, turnSent, afterItems]
    | cons i t =>
      have hsend : sendItems (k + 1) x =
          sendItems k (sendItem i (onForm (fun f => { f with queue := f.queue.erase i }) x)) := by
        rw [sendItems, nextItem_eq, hq]
        rfl
      have hone := sendItem_eq i (x.form.queue.erase i) x
      have hrest : byLevel (afterItems x (x.form.queue.erase i)
          (turnSent x [i] x.form.lastNumber x.form.forwards)).form.queue = t := byLevel_erase hq
      rw [hsend]
      refine (congrArg (sendItems k) hone).trans ?_
      have hcongr : turnSent (afterItems x (x.form.queue.erase i) (turnSent x [i] x.form.lastNumber x.form.forwards))
          (t.take k) = turnSent x (t.take k) := by
        funext n fs
        exact turnSent_congr _ _ _ _ _ _ _
      rw [ih, hrest, List.take_succ_cons, turnSent_cons (items := t.take k), hcongr]
      simp only [afterItems, List.foldl_cons, List.append_assoc]

end Sys2Proof.Proofs.Turn
end

section
/-! The turn a GRANT gives, and the account other parts keep of it. -/
namespace Sys2Proof.Proofs.Turn
open Sys2Proof Sys2Proof.Machine Effects Requests Owners Events OwnEntries Rendering Journey Driver Slots Notices Coupler DisplayLine

variable {s : State} {c : Instr} {x y z : Part} {L : List Block} {q : List LineItem} {i : LineItem} {v : Nat}

/-- The items a turn sends. -/
def turnItems (q : List LineItem) : List LineItem := (byLevel q).take 4

/-- The frames, forward number and forwards of a turn. -/
def turnOf (x : Part) : List LineFrame × Nat × List Forward :=
  turnSent x (turnItems x.form.queue) x.form.lastNumber x.form.forwards

/-- The units whose grant has ended after the own turn. -/
def endedAfterTurn (own : Nat) (f : Formation) : List Nat := (endedThen f).filter (fun v => v != own) ++ [own]

theorem mem_endedAfterTurn {own : Nat} {f : Formation} : v ∈ endedAfterTurn own f ↔ v = own ∨ v ∈ endedThen f := by
  by_cases h : v = own <;> simp [endedAfterTurn, h]

theorem endGrant_beginGrant (own : Nat) (f : Formation) :
    endGrant (beginGrant own f) = { f with grant := none, ended := endedAfterTurn own f } := by
  have hnot : own ∉ (endedThen f).filter fun v => v != own := by simp
  have hended : endedThen { f with grant := some own, ended := (endedThen f).filter fun v => v != own } = endedAfterTurn own f :=
    if_neg hnot
  rw [endGrant_eq, beginGrant_eq, hended]

/-- The own turn as a whole. -/
theorem ownTurn_eq (x : Part) : ownTurn x =
    { x with form := { x.form with
               grant := none, ended := endedAfterTurn x.unit.unitId x.form
               queue := (turnItems x.form.queue).foldl List.erase x.form.queue
               lastNumber := (turnOf x).2.1, forwards := (turnOf x).2.2 }
             out := { x.out with line := x.out.line ++ (turnOf x).1 ++ [.release] } } := by
  have hsent : sendGranted x = sendLine .release (afterItems x ((turnItems x.form.queue).foldl List.erase x.form.queue) (turnOf x)) :=
    congrArg (sendLine .release) (sendItems_eq 4 x)
  rw [ownTurn, hsent]
  simp only [onForm, endGrant_beginGrant]
  rfl

/-! ### What stays queued -/

theorem split_byLevel (q : List LineItem) : q.Perm (turnItems q ++ (byLevel q).drop 4) := by
  rw [turnItems, List.take_append_drop]
  exact (byLevel_perm q).symm

theorem left_perm (q : List LineItem) : ((turnItems q).foldl List.erase q).Perm ((byLevel q).drop 4) :=
  perm_foldl_erase (split_byLevel q)

theorem left_length (q : List LineItem) : ((turnItems q).foldl List.erase q).length = q.length - 4 := by
  rw [(left_perm q).length_eq, List.length_drop, (byLevel_perm q).length_eq]

/-- No item left behind ranks above one that was sent. -/
theorem left_rank {a b : LineItem} (ha : a ∈ (turnItems q).foldl List.erase q) (hb : b ∈ q)
    (hgone : b ∉ (turnItems q).foldl List.erase q) : itemLevel a ≤ itemLevel b := by
  have hsplit := (List.take_append_drop 4 (byLevel q)).symm ▸ byLevel_sorted q
  have ha' := (left_perm q).mem_iff.mp ha
  have hb' : b ∈ turnItems q := by
    obtain h | h := List.mem_append.mp ((split_byLevel q).mem_iff.mp hb)
    · exact h
    · exact absurd ((left_perm q).mem_iff.mpr h) hgone
  exact (List.pairwise_append.mp hsplit).2.2 b hb' a ha'

theorem turnItems_single (i : LineItem) : turnItems [i] = [i] := by
  obtain h | h | h : itemLevel i = 1 ∨ itemLevel i = 2 ∨ itemLevel i = 3 := by
    have := itemLevel_range i
    omega
  all_goals simp [turnItems, byLevel, atLevel, h]

theorem turnOf_single (h : x.form.queue = [i]) : turnOf x = turnSent x [i] x.form.lastNumber x.form.forwards := by
  rw [turnOf, h, turnItems_single]

theorem turnOf_empty (h : x.form.queue = []) : (turnOf x).1 = [] := by
  rw [turnOf, h]
  rfl

theorem turnOf_fwd {tag : Byte} {e : Forward} (h : x.form.queue = [.noticeFwd tag])
    (he : (x.form.forwards.find? fun y => y.tag == tag) = some e) :
    turnOf x = ([.noticeFwd {
        origin := x.unit.unitId, noticeId := e.noticeId, number := (x.form.lastNumber + 1) % 256
        epoch := x.form.record.epoch, dests := e.dests
        body := match e.raise with
          | some r => .raise r.level r.subPriority r.targets r.duration (frameText x.text r.handle)
          | none => .clear }], (x.form.lastNumber + 1) % 256,
      x.form.forwards.map fun y =>
        if y.tag = tag then { y with number := some ((x.form.lastNumber + 1) % 256), awaited := y.dests } else y) := by
  rw [turnOf_single h]
  simp only [turnSent, he] <;> rfl

/-! ### The account of a GRANT -/

/-- The formation once a leader's GRANT to a unit is noted. -/
def noted (own v : Nat) (f : Formation) : Formation :=
  if v = own then f else { f with grant := some v, ended := (endedThen f).filter fun w => w != v }

theorem noteGrant_eq (x : Part) (v : Nat) : noteGrant (leaderId x.form.record) v x =
    { x with form := noted x.unit.unitId v x.form } := by
  by_cases h : v = x.unit.unitId
  · simp [noteGrant, noted, h]
  · have hcond : (leaderId x.form.record == leaderId x.form.record && v != x.unit.unitId) = true := by simp [h]
    rw [noteGrant, if_pos hcond, noted, if_neg h]
    simp only [onForm, beginGrant_eq]

theorem noted_keeps {f : Formation} (h : f = noted x.unit.unitId v x.form ∨
    f = { noted x.unit.unitId v x.form with beaconLoss := f.beaconLoss }) : Keeps [.form] x { x with form := f } := by
  have hn : (noted x.unit.unitId v x.form).trainTally = x.form.trainTally ∧
      (noted x.unit.unitId v x.form).spacing = x.form.spacing ∧
      (noted x.unit.unitId v x.form).tallyPending = x.form.tallyPending ∧
      (noted x.unit.unitId v x.form).queue = x.form.queue := by
    unfold noted
    split <;> exact ⟨rfl, rfl, rfl, rfl⟩
  obtain ⟨h1, h2, h3, h4⟩ := hn
  obtain h | h := h <;> rw [h] <;> exact form_keeps h1 h2 h3 (by rw [h4])

theorem step_of_noted {cyc : Nat} {f : Formation} (hrun : s.part.supply.mode = .run)
    (heq : hearGrant (leaderId s.part.form.record) v cyc (quiet s.part) = { quiet s.part with form := f })
    (hf : f = noted s.part.unit.unitId v s.part.form ∨
      f = { noted s.part.unit.unitId v s.part.form with beaconLoss := f.beaconLoss }) :
    ∃ t, exec (.grant (leaderId s.part.form.record) v cyc) s = .next t ∧ Only [.form] s t ∧ t.part.form = f := by
  obtain ⟨t, hexec, rfl, honly⟩ := step_in_run (L := [.form]) (c := .grant (leaderId s.part.form.record) v cyc)
    (f := hearGrant (leaderId s.part.form.record) v cyc) hrun rfl (by rw [heq]; exact noted_keeps (x := quiet s.part) hf)
  refine ⟨_, hexec, honly, ?_⟩
  rw [finish_form, heq]

theorem step_of_grantToOther {cyc : Nat} (hrun : s.part.supply.mode = .run) (hrole : s.part.form.role = .following)
    (hv : v ≠ s.part.unit.unitId) :
    ∃ t, exec (.grant (leaderId s.part.form.record) v cyc) s = .next t ∧ Only [.form] s t ∧
      t.part.form = { s.part.form with grant := some v, ended := (endedThen s.part.form).filter fun w => w != v } := by
  have hnoted : noted s.part.unit.unitId v s.part.form =
      { s.part.form with grant := some v, ended := (endedThen s.part.form).filter fun w => w != v } := if_neg hv
  rw [← hnoted]
  refine step_of_noted hrun ?_ (.inl rfl)
  have hrole' : (quiet s.part).form.role = .following := hrole
  have hcond : (leaderId s.part.form.record == leaderId (quiet s.part).form.record && v == (quiet s.part).unit.unitId &&
      (quiet s.part).form.heardCycle == some cyc) = false := by simp [hv]
  rw [hearGrant, hrole']
  dsimp only
  rw [followGrant, hcond]
  exact noteGrant_eq (quiet s.part) v

/-- The own turn of a FOLLOWING part. -/
theorem step_of_turn {cyc : Nat} (hrun : s.part.supply.mode = .run) (hrole : s.part.form.role = .following)
    (hcyc : s.part.form.heardCycle = some cyc) :
    ∃ t, exec (.grant (leaderId s.part.form.record) s.part.unit.unitId cyc) s = .next t ∧ Only [.form, .tallies, .line] s t ∧
      t.part.form = { s.part.form with
        grant := none, ended := endedAfterTurn s.part.unit.unitId s.part.form
        queue := (turnItems s.part.form.queue).foldl List.erase s.part.form.queue
        lastNumber := (turnOf s.part).2.1, forwards := (turnOf s.part).2.2 } ∧
      t.part.out.line = (turnOf s.part).1 ++ [.release] := by
  have hrole' : (quiet s.part).form.role = .following := hrole
  have hcond : (leaderId s.part.form.record == leaderId (quiet s.part).form.record &&
      s.part.unit.unitId == (quiet s.part).unit.unitId && (quiet s.part).form.heardCycle == some cyc) = true := by simp [hcyc]
  have heq : hearGrant (leaderId s.part.form.record) s.part.unit.unitId cyc (quiet s.part) = ownTurn (quiet s.part) := by
    rw [hearGrant, hrole']
    dsimp only
    rw [followGrant, if_pos hcond]
  have hturn : turnOf (quiet s.part) = turnOf s.part :=
    turnSent_congr (x := s.part) (turnItems s.part.form.queue) s.part.form.lastNumber s.part.form.lastNumber
      s.part.form.forwards s.part.form.forwards s.part.form.queue {}
  obtain ⟨t, hexec, rfl, honly⟩ := step_in_run (L := [.form, .tallies, .line])
    (c := .grant (leaderId s.part.form.record) s.part.unit.unitId cyc)
    (f := hearGrant (leaderId s.part.form.record) s.part.unit.unitId cyc) hrun rfl (by rw [heq]; exact ownTurn_keeps)
  refine ⟨_, hexec, honly, ?_⟩
  rw [finish_form, finish_line, heq, ownTurn_eq, hturn]
  exact ⟨rfl, rfl⟩

theorem grant_following {cyc : Nat} (hrun : s.part.supply.mode = .run) (hrole : s.part.form.role = .following)
    (hcyc : s.part.form.heardCycle = some cyc) :
    ∃ t, exec (.grant (leaderId s.part.form.record) s.part.unit.unitId cyc) s = .next t ∧ Only [.form, .tallies, .line] s t ∧
      t.part.form.grant = none ∧ (∀ v, v ∈ t.part.form.ended ↔ v = s.part.unit.unitId ∨ v ∈ endedThen s.part.form) ∧
      t.part.form.queue.length = s.part.form.queue.length - 4 ∧
      (∀ a ∈ t.part.form.queue, ∀ b ∈ s.part.form.queue, b ∉ t.part.form.queue → itemLevel a ≤ itemLevel b) ∧
      t.part.out.line = (turnOf s.part).1 ++ [.release] ∧ t.part.form.lastNumber = (turnOf s.part).2.1 ∧
      t.part.form.forwards = (turnOf s.part).2.2 ∧
      t.part.form.queue = (turnItems s.part.form.queue).foldl List.erase s.part.form.queue := by
  obtain ⟨t, hexec, honly, hform, hline⟩ := step_of_turn hrun hrole hcyc
  refine ⟨t, hexec, honly, ?_⟩
  rw [hform]
  exact ⟨rfl, fun v => mem_endedAfterTurn, left_length _, fun a ha b hb hgone => left_rank ha hb hgone, hline, rfl, rfl, rfl⟩

theorem step_of_grantWhileLeading {cyc : Nat} (hrun : s.part.supply.mode = .run)
    (hrole : s.part.form.role = .leading ∨ s.part.form.role = .formingLeader) :
    ∃ t, exec (.grant (leaderId s.part.form.record) v cyc) s = .next t ∧
      Only [.source, .form, .events, .host, .line] s t ∧
      t.part.form.grant = (noted s.part.unit.unitId v s.part.form).grant ∧
      t.part.form.ended = (noted s.part.unit.unitId v s.part.form).ended ∧
      t.part.form.record = s.part.form.record ∧ t.part.form.queue = s.part.form.queue := by
  have hprep := prepared_noteGrant (quiet s.part) (leaderId s.part.form.record) v
  have hnoted := noteGrant_eq (quiet s.part) v
  have heq : hearGrant (leaderId s.part.form.record) v cyc (quiet s.part) =
      leaderConflict (leaderId s.part.form.record) (noteGrant (leaderId s.part.form.record) v (quiet s.part)) := by
    have hrole' : (quiet s.part).form.role = .leading ∨ (quiet s.part).form.role = .formingLeader := hrole
    unfold hearGrant
    obtain h | h := hrole' <;> rw [h]
  have hconf := conflict (x := noteGrant (leaderId s.part.form.record) v (quiet s.part)) (by rw [hprep.role]; exact hrole)
    (leaderId s.part.form.record)
  obtain ⟨t, hexec, rfl, honly⟩ := step_in_run (L := [.source, .form, .events, .host, .line])
    (c := .grant (leaderId s.part.form.record) v cyc) (f := hearGrant (leaderId s.part.form.record) v cyc) hrun rfl
    (by rw [heq]; exact Keeps.step hconf.keeps rfl (Keeps.step hprep.keeps rfl .refl))
  obtain ⟨hgrant, hended, hqueue⟩ := hconf.grant
  have hform : (noteGrant (leaderId s.part.form.record) v (quiet s.part)).form = noted s.part.unit.unitId v s.part.form :=
    congrArg Part.form hnoted
  have hkept : (noted s.part.unit.unitId v s.part.form).queue = s.part.form.queue := by
    unfold noted
    split <;> rfl
  refine ⟨_, hexec, honly, ?_⟩
  rw [finish_form, heq, hgrant, hended, hqueue, hconf.record, hprep.record, hform]
  exact ⟨rfl, rfl, rfl, hkept⟩

/-- Settles O36: the own turn by what stays of the queue, every other GRANT by the account kept of it. -/
theorem aGrantedPartSendsItsItems : Obligations.AGrantedPartSendsItsItems := by
  refine ⟨fun s cyc hrun hrole => ⟨fun v hv => step_of_grantToOther hrun hrole hv, fun hcyc => ?turn⟩,
    fun s v cyc hrun => ⟨fun hrole => ?follower, fun hrole => ?isolated, fun hrole => step_of_grantWhileLeading hrun hrole⟩⟩
  case turn =>
    obtain ⟨t, hexec, honly, hgrant, hended, hlen, hrank, hline, hnumber, hforwards, hqueue⟩ := grant_following hrun hrole hcyc
    refine ⟨t, hexec, honly, hgrant, hended, by simp [hline], hlen, hrank, ⟨hline, hnumber, hforwards, hqueue⟩, fun h => ?_,
      fun h => ?_, fun o i k full h => ?_, fun h => ?_, fun tag e h he => ?_⟩
    · rw [hline, turnOf_empty h]
      rfl
    · rw [hline, turnOf_single h]
      rfl
    · rw [hline, turnOf_single h]
      rfl
    · rw [hline, turnOf_single h, tallyFrame_eq]
      rfl
    · rw [hline, hnumber, hforwards, turnOf_fwd h he]
      exact ⟨rfl, rfl, rfl⟩
  case follower =>
    have hrole' : (quiet s.part).form.role = .formingFollower := hrole
    refine step_of_noted hrun ?_ (.inr rfl)
    rw [hearGrant, hrole']
    exact congrArg restartLoss (noteGrant_eq (quiet s.part) v)
  case isolated =>
    have hrole' : (quiet s.part).form.role = .isolated := hrole
    refine step_of_noted hrun ?_ (.inl rfl)
    rw [hearGrant, hrole']
    exact noteGrant_eq (quiet s.part) v

end Sys2Proof.Proofs.Turn
end

section
/-! The line cycle of a LEADING part: beacon, request window, grant. -/
namespace Sys2Proof.Proofs.Turn
open Sys2Proof Sys2Proof.Machine Effects Requests Owners Events OwnEntries Rendering Journey Driver Slots Notices Coupler DisplayLine

variable {s : State} {c : Instr} {x y z : Part} {L : List Block} {u l : Nat}

/-! ### Cycle and roll call -/

/-- The formation once the grant of the cycle before has ended and its window is closed. -/
def cycleBegun (f : Formation) : Formation := { f with grant := none, ended := endedThen f, windowOpen := false, responses := [] }

theorem lineCycle_eq (h : x.form.role = .leading) : lineCycle x =
    if x.form.rollPending then startRollCall { x with form := cycleBegun x.form }
    else onForm (fun f => { f with windowOpen := true }) (sendBeacon { x with form := cycleBegun x.form }) := by
  unfold lineCycle
  rw [if_pos (by simp [h])]
  simp only [onForm, endGrant_eq]
  rfl

theorem formLine_keeps {f : Formation} {k : List LineFrame} (h1 : f.trainTally = x.form.trainTally)
    (h2 : f.spacing = x.form.spacing) (h3 : f.tallyPending = x.form.tallyPending)
    (h4 : LineItem.tally ∈ f.queue ↔ LineItem.tally ∈ x.form.queue) :
    Keeps [.form, .line] x { x with form := f, out := { x.out with line := k } } :=
  Keeps.step (M := [.line]) (line_keeps (x := { x with form := f })) rfl (Keeps.step (M := [.form]) (form_keeps h1 h2 h3 h4) rfl .refl)

theorem step_of_cycle (hrun : s.part.supply.mode = .run) (hrole : s.part.form.role = .leading)
    (hpending : s.part.form.rollPending = false) : ∃ t, exec .lineCycle s = .next t ∧ Only [.form, .line] s t ∧
      t.part.form = { s.part.form with
        cycleCount := (s.part.form.cycleCount + 1) % 65536, windowOpen := true, responses := []
        grant := none, ended := endedThen s.part.form } ∧
      t.part.out.line = [.beacon (beaconOf s.part ((s.part.form.cycleCount + 1) % 65536))] := by
  have heq : lineCycle (quiet s.part) = { quiet s.part with
      form := { s.part.form with
        cycleCount := (s.part.form.cycleCount + 1) % 65536, windowOpen := true, responses := []
        grant := none, ended := endedThen s.part.form }
      out := { line := [.beacon (beaconOf s.part ((s.part.form.cycleCount + 1) % 65536))] } } := by
    rw [lineCycle_eq (x := quiet s.part) hrole, if_neg (by simp [hpending]), sendBeacon_eq]
    rfl
  obtain ⟨t, hexec, rfl, honly⟩ := step_in_run (L := [.form, .line]) (c := .lineCycle) (f := lineCycle) hrun rfl
    (by rw [heq]; exact formLine_keeps (x := quiet s.part) rfl rfl rfl Iff.rfl)
  refine ⟨_, hexec, honly, ?_⟩
  rw [finish_form, finish_line, heq]
  exact ⟨rfl, rfl⟩

theorem step_of_pendingCall (hrun : s.part.supply.mode = .run) (hrole : s.part.form.role = .leading)
    (hpending : s.part.form.rollPending = true) (hend : s.part.form.qualEnd ≠ none) :
    ∃ t, exec .lineCycle s = .next t ∧ Only [.source, .form, .line] s t ∧ t.part.form.role = .formingLeader ∧
      t.part.form.rollCall = some [] ∧ t.part.form.record = s.part.form.record ∧
      t.part.form.grant = none ∧ t.part.form.ended = endedThen s.part.form ∧
      t.part.out.line = [.rollCall s.part.unit.unitId s.part.form.record.epoch] := by
  obtain ⟨e, he⟩ := Option.ne_none_iff_exists'.mp hend
  have heq : lineCycle (quiet s.part) = { quiet s.part with
      route := { s.part.route with prog := { s.part.route.prog with source := .own } }
      form := calling e (cycleBegun s.part.form)
      out := { line := [.rollCall s.part.unit.unitId s.part.form.record.epoch] } } := by
    have hheld : aloneRole (cycleBegun s.part.form).role = false := by simp [cycleBegun, hrole, aloneRole]
    rw [lineCycle_eq (x := quiet s.part) hrole, if_pos (by exact hpending), startRollCall_some (e := e) (by exact he), rollCallFrom_held (by exact hheld)]
    rfl
  obtain ⟨t, hexec, rfl, honly⟩ := step_in_run (L := [.source, .form, .line]) (c := .lineCycle) (f := lineCycle) hrun rfl
    (by rw [heq]; exact sourceForm_keeps (x := quiet s.part) rfl rfl rfl Iff.rfl)
  refine ⟨_, hexec, honly, ?_⟩
  rw [finish_form, finish_line, heq]
  exact ⟨rfl, rfl, rfl, rfl, rfl, rfl⟩

/-! ### Responses, marks, requests -/

/-- The absence times once a unit was heard. -/
def absenceHeard (u n : Nat) (l : List (Nat × Nat)) : List (Nat × Nat) := (l.filter fun x => x.1 != u) ++ [(u, n)]

theorem listed_contains (h : ∃ e ∈ x.form.record.units.tail, e.unitId = u) : (listed x.form.record).contains u = true := by
  obtain ⟨e, he, rfl⟩ := h
  exact List.contains_iff_mem.mpr (List.mem_map_of_mem he)

theorem heardUnit_listed (hrole : x.form.role = .leading) (h : (listed x.form.record).contains u = true) : heardUnit u x =
    { x with form := { x.form with absence := absenceHeard u x.host.params.holdLimit x.form.absence } } := by
  unfold heardUnit
  rw [if_pos (by rw [hrole, h]; rfl)]
  rfl

theorem step_of_response (hrun : s.part.supply.mode = .run) (hrole : s.part.form.role = .leading)
    (hopen : s.part.form.windowOpen = true) (hu : ∃ e ∈ s.part.form.record.units.tail, e.unitId = u) :
    ∃ t, exec (.windowResponse u s.part.form.cycleCount l) s = .next t ∧ Only [.form] s t ∧
      t.part.form = { s.part.form with
        responses := assocSet u l s.part.form.responses
        absence := absenceHeard u s.part.host.params.holdLimit s.part.form.absence } := by
  have hlisted : (listed s.part.form.record).contains u = true := listed_contains hu
  have heq : hearResponse u s.part.form.cycleCount l (quiet s.part) = { quiet s.part with
      form := { s.part.form with
        responses := assocSet u l s.part.form.responses
        absence := absenceHeard u s.part.host.params.holdLimit s.part.form.absence } } := by
    have hcond : ((quiet s.part).form.role == .leading && (quiet s.part).form.windowOpen &&
        s.part.form.cycleCount == (quiet s.part).form.cycleCount && (listed (quiet s.part).form.record).contains u) = true := by
      simp only [quiet]
      rw [hrole, hopen, hlisted]
      simp
    rw [hearResponse, if_pos hcond, heardUnit_listed (by exact hrole) (by exact hlisted)]
    rfl
  obtain ⟨t, hexec, rfl, honly⟩ := step_in_run (L := [.form]) (c := .windowResponse u s.part.form.cycleCount l)
    (f := hearResponse u s.part.form.cycleCount l) hrun rfl (by rw [heq]; exact form_keeps (x := quiet s.part) rfl rfl rfl Iff.rfl)
  exact ⟨_, hexec, honly, by rw [finish_form, heq]⟩

theorem step_of_mark (hrun : s.part.supply.mode = .run) (hrole : s.part.form.role = .leading)
    (hopen : s.part.form.windowOpen = true) : ∃ t, exec .openSlotMark s = .next t ∧ Only [.form] s t ∧
      t.part.form = { s.part.form with rollPending := true } := by
  have heq : hearMark (quiet s.part) = { quiet s.part with form := { s.part.form with rollPending := true } } :=
    if_pos (by simp [hrole, hopen])
  obtain ⟨t, hexec, rfl, honly⟩ := step_in_run (L := [.form]) (c := .openSlotMark) (f := hearMark) hrun rfl hearMark_keeps
  exact ⟨_, hexec, honly, by rw [finish_form, heq]⟩

theorem step_of_formationReq (hrun : s.part.supply.mode = .run) (hrole : s.part.form.role = .leading)
    (hu : ∃ e ∈ s.part.form.record.units.tail, e.unitId = u) (hended : u ∉ s.part.form.ended) :
    ∃ t, exec (.formationReq u s.part.form.record.epoch) s = .next t ∧ Only [.form] s t ∧
      t.part.form = { s.part.form with
        rollPending := true, absence := absenceHeard u s.part.host.params.holdLimit s.part.form.absence } := by
  have hlisted : (listed s.part.form.record).contains u = true := listed_contains hu
  have heq : hearFormationReq u s.part.form.record.epoch (quiet s.part) = { quiet s.part with
      form := { s.part.form with
        rollPending := true, absence := absenceHeard u s.part.host.params.holdLimit s.part.form.absence } } := by
    have hcond : ((quiet s.part).form.role == .leading && frameTaken (quiet s.part) u s.part.form.record.epoch &&
        (listed (quiet s.part).form.record).contains u) = true := by
      simp only [quiet, frameTaken]
      rw [hrole, hlisted]
      simpa using hended
    rw [hearFormationReq, if_pos hcond, heardUnit_listed (by exact hrole) (by exact hlisted)]
    rfl
  obtain ⟨t, hexec, rfl, honly⟩ := step_in_run (L := [.form]) (c := .formationReq u s.part.form.record.epoch)
    (f := hearFormationReq u s.part.form.record.epoch) hrun rfl hearFormationReq_keeps
  exact ⟨_, hexec, honly, by rw [finish_form, heq]⟩

theorem step_of_release (hrun : s.part.supply.mode = .run) : ∃ t, exec .releaseMark s = .next t ∧ Only [.form] s t ∧
    t.part.form = { s.part.form with grant := none, ended := endedThen s.part.form } := by
  have heq : onForm endGrant (quiet s.part) = { quiet s.part with
      form := { s.part.form with grant := none, ended := endedThen s.part.form } } := by
    rw [onForm, endGrant_eq]
    rfl
  obtain ⟨t, hexec, rfl, honly⟩ := step_in_run (L := [.form]) (c := .releaseMark) (f := onForm endGrant) hrun rfl
    (by rw [heq]; exact form_keeps (x := quiet s.part) rfl rfl rfl Iff.rfl)
  exact ⟨_, hexec, honly, by rw [finish_form, heq]⟩

/-! ### The end of the window -/

theorem arbitrate_none {r : List (Nat × Nat)} (h : ∀ a ∈ r, a.2 = 0) : arbitrate r = none := by
  induction r with
  | nil => rfl
  | cons a r ih =>
    obtain ⟨v, m⟩ := a
    have hm : m = 0 := h _ List.mem_cons_self
    rw [arbitrate, ih fun b hb => h b (List.mem_cons_of_mem _ hb)]
    simp [hm]

theorem arbitrate_mem {r : List (Nat × Nat)} {a : Nat × Nat} (h : arbitrate r = some a) : a ∈ r := by
  induction r generalizing a with
  | nil => simp [arbitrate] at h
  | cons b r ih =>
    obtain ⟨v, m⟩ := b
    rw [arbitrate] at h
    cases hr : arbitrate r with
    | none =>
      simp only [hr] at h
      split at h
      · cases h
        exact List.mem_cons_self
      · cases h
    | some d =>
      obtain ⟨w, k⟩ := d
      simp only [hr] at h
      split at h
      · cases h
        exact List.mem_cons_of_mem _ (ih hr)
      · cases h
        exact List.mem_cons_self

/-- The request granted is the first among those of the highest level. -/
theorem arbitrate_first {r : List (Nat × Nat)} {i : Nat} (hi : r[i]? = some (u, l)) (hl : 0 < l)
    (hmax : ∀ (j v m : Nat), r[j]? = some (v, m) → m ≤ l ∧ (m = l → i ≤ j)) : arbitrate r = some (u, l) := by
  induction r generalizing i with
  | nil => simp at hi
  | cons b r ih =>
    obtain ⟨v, m⟩ := b
    cases i with
    | zero =>
      obtain ⟨rfl, rfl⟩ : v = u ∧ m = l := by simpa using hi
      rw [arbitrate]
      cases hr : arbitrate r with
      | none => simp [hl]
      | some d =>
        obtain ⟨w, k⟩ := d
        obtain ⟨j, hj⟩ := List.getElem?_of_mem (arbitrate_mem hr)
        have hle := (hmax (j + 1) w k (by simpa using hj)).1
        simp
        omega
    | succ i =>
      have hrest := ih (i := i) (by simpa using hi) fun j w k hj => by
        obtain ⟨hle, hfirst⟩ := hmax (j + 1) w k (by simpa using hj)
        exact ⟨hle, fun hk => by have := hfirst hk; omega⟩
      obtain ⟨hle, hfirst⟩ := hmax 0 v m rfl
      have hlt : m < l := by
        obtain h | h := Nat.lt_or_eq_of_le hle
        · exact h
        · exact absurd (hfirst h) (by omega)
      rw [arbitrate, hrest]
      simp [hlt]

/-- The requests that a window ends with. -/
def requested (x : Part) : List (Nat × Nat) := (x.unit.unitId, queueLevel x.form.queue) ::
  x.form.record.units.tail.map fun e => (e.unitId, (assocGet e.unitId x.form.responses).getD 0)

/-- The part with its window closed. -/
def windowClosed (x : Part) : Part := { x with form := { x.form with windowOpen := false } }

theorem requests_windowClosed (x : Part) : requests (windowClosed x) = requested x := by
  rw [requests, requested, listed, List.map_map]
  rfl

theorem windowEnds_eq (hrole : x.form.role = .leading) (hopen : x.form.windowOpen = true) :
    windowEnds x = match arbitrate (requested x) with
      | some (u, _) => grantTo u (windowClosed x)
      | none => windowClosed x := by
  rw [windowEnds, if_pos (by simp [hrole, hopen]), ← requests_windowClosed]
  rfl

theorem grantTo_other (h : u ≠ x.unit.unitId) : grantTo u x =
    { x with form := { x.form with grant := some u, ended := (endedThen x.form).filter fun v => v != u }
             out := { x.out with line := x.out.line ++ [.grant x.unit.unitId u x.form.cycleCount] } } := by
  rw [grantTo, if_neg (by simp [h])]
  simp only [onForm, beginGrant_eq]
  rfl

/-- The end of the window, by what the arbitration gives. -/
theorem step_of_windowEnd (hrun : s.part.supply.mode = .run) (hrole : s.part.form.role = .leading)
    (hopen : s.part.form.windowOpen = true) :
    ∃ t, exec .requestWindowEnd s = .next t ∧ Only [.form, .tallies, .line] s t ∧ t.part.form.windowOpen = false ∧
      (arbitrate (requested s.part) = none →
        t.part.out.line = [] ∧ t.part.form = { s.part.form with windowOpen := false }) ∧
      (∀ u l, arbitrate (requested s.part) = some (u, l) →
        t.part.out.line.head? = some (.grant s.part.unit.unitId u s.part.form.cycleCount) ∧
        (u = s.part.unit.unitId → t.part.form.grant = none ∧ t.part.out.line.getLast? = some .release ∧
          ∀ v, v ∈ t.part.form.ended ↔ v = u ∨ v ∈ endedThen s.part.form) ∧
        (u ≠ s.part.unit.unitId → t.part.out.line.length = 1 ∧
          t.part.form = { s.part.form with
            windowOpen := false, grant := some u, ended := (endedThen s.part.form).filter fun v => v != u })) := by
  have heq := windowEnds_eq (x := quiet s.part) hrole hopen
  have hreq : requested (quiet s.part) = requested s.part := rfl
  rw [hreq] at heq
  obtain ⟨t, hexec, rfl, honly⟩ := step_in_run (L := [.form, .tallies, .line]) (c := .requestWindowEnd) (f := windowEnds)
    hrun rfl windowEnds_keeps
  refine ⟨_, hexec, honly, ?_⟩
  rw [finish_form, finish_line]
  cases harb : arbitrate (requested s.part) with
  | none =>
    rw [harb] at heq
    rw [heq]
    exact ⟨rfl, fun _ => ⟨rfl, rfl⟩, nofun⟩
  | some a =>
    obtain ⟨w, k⟩ := a
    rw [harb] at heq
    dsimp only at heq
    rw [heq]
    by_cases hw : w = s.part.unit.unitId
    · subst hw
      have hturn : grantTo s.part.unit.unitId (windowClosed (quiet s.part)) =
          ownTurn (sendLine (.grant s.part.unit.unitId s.part.unit.unitId s.part.form.cycleCount) (windowClosed (quiet s.part))) :=
        if_pos (by simp [windowClosed])
      rw [hturn, ownTurn_eq]
      refine ⟨rfl, nofun, fun u l h => ?_⟩
      cases h
      exact ⟨rfl, fun _ => ⟨rfl, List.getLast?_concat .., fun v => mem_endedAfterTurn⟩, fun hne => absurd rfl hne⟩
    · rw [grantTo_other (by exact hw)]
      refine ⟨rfl, nofun, fun u l h => ?_⟩
      cases h
      exact ⟨rfl, fun h => absurd h hw, fun _ => ⟨rfl, rfl⟩⟩

/-- Settles O33: one step for each input of the line cycle; the arbitration gives the first request of the highest level. -/
theorem theLeaderRunsTheLineCycle : Obligations.TheLeaderRunsTheLineCycle := by
  refine ⟨fun s hrun hrole => ⟨fun h => step_of_cycle hrun hrole h, fun h he => step_of_pendingCall hrun hrole h he,
    fun u c l hopen hc hu => ?response, fun hopen => step_of_mark hrun hrole hopen, fun u hu hended => ?request,
    fun hopen => ?window⟩, fun s hrun => step_of_release hrun⟩
  case response =>
    subst hc
    obtain ⟨t, hexec, honly, hform⟩ := step_of_response (l := l) hrun hrole hopen hu
    refine ⟨t, hexec, honly, by rw [hform], by rw [hform]; exact assocGet_assocSet_self .., fun v hv => ?_, ?_⟩
    · rw [hform]
      exact assocGet_assocSet_ne hv ..
    · rw [hform]
      exact List.mem_append_right _ List.mem_cons_self
  case request =>
    obtain ⟨t, hexec, honly, hform⟩ := step_of_formationReq hrun hrole hu hended
    refine ⟨t, hexec, honly, by rw [hform], ?_⟩
    rw [hform]
    exact List.mem_append_right _ List.mem_cons_self
  case window =>
    obtain ⟨t, hexec, honly, hclosed, hnone, hsome⟩ := step_of_windowEnd hrun hrole hopen
    exact ⟨t, hexec, honly, hclosed, fun h => hnone (arbitrate_none h),
      fun i u l hi hl hmax => hsome u l (arbitrate_first hi hl hmax)⟩

end Sys2Proof.Proofs.Turn
end

section
/-! Forwarded notices at the part they are addressed to. -/
namespace Sys2Proof.Proofs.Received
open Sys2Proof Sys2Proof.Machine Effects Requests Owners Events OwnEntries Rendering Journey Driver Slots Notices Coupler Turn

variable {s : State} {c : Instr} {x y z : Part} {l l' : NoticeLevel} {i j h u : Nat} {f : NoticeFwdFrame} {sub d : Nat} {tg : Targets}

/-! ### What a frame heard leaves -/

/-- A unit heard: the absence times at most. -/
theorem heardUnit_eq (u : Nat) (x : Part) : heardUnit u x = { x with form := { x.form with absence := (heardUnit u x).form.absence } } := by
  unfold heardUnit
  split <;> rfl

theorem afterSlots_form (b : Bool) (filled : Option (NoticeLevel × Nat)) (x : Part) : (afterSlots b filled x).form = x.form := by
  rw [afterSlots_eq]

theorem vacate_form (l : NoticeLevel) (i : Nat) (x : Part) : (vacate l i x).form = x.form := by
  unfold vacate
  split <;> rfl

theorem emptySlot_form (l : NoticeLevel) (i : Nat) (x : Part) : (emptySlot l i x).form = x.form := by
  rw [emptySlot, afterSlots_form, vacate_form]

theorem placeNotice_form (o id : Nat) (l : NoticeLevel) (sub : Nat) (tg : Targets) (d h : Nat) (x : Part) :
    (placeNotice o id l sub tg d h x).1.form = x.form := by
  have hvacated (k m : NoticeLevel) (a b : Nat) :
      (vacate k a (fillSlot m b (some o) id sub tg h d x)).form = x.form := vacate_form ..
  unfold placeNotice
  dsimp only
  (repeat' split) <;> first | exact (afterSlots_form ..).trans (hvacated ..) | exact afterSlots_form .. | rfl

theorem receiveNotice_form (f : NoticeFwdFrame) (x : Part) : (receiveNotice f x).1.form = x.form := by
  unfold receiveNotice
  split
  · split
    · exact placeNotice_form ..
    · rfl
  · split
    · exact emptySlot_form ..
    · rfl

theorem queueItem_eq (item : LineItem) (g : Formation) : queueItem item g =
    { g with queue := if g.queue.length < 16 then g.queue ++ [item] else g.queue } := by
  have hmax : Config.lineQueueMax = 16 := rfl
  rw [queueItem, hmax]
  split <;> rfl

/-! ### The place of a notice -/

/-- A slot holds the notice of that origin and id. -/
def hits (o : Option Nat) (id : Nat) (v : Option Slot) : Bool := (v.map fun y => y.origin == o && y.noticeId == id).getD false

theorem slotAt_of_findIdx {o : Option Nat} {id : Nat} {q : Panels} (h : (slotsOf q l).findIdx? (hits o id) = some i) :
    ∃ v, slotAt q l i = some v := by
  obtain ⟨hlt, hhit, -⟩ := List.findIdx?_eq_some_iff_getElem.mp h
  have hget : (slotsOf q l)[i]? = some ((slotsOf q l)[i]) := List.getElem?_eq_getElem hlt
  cases hv : (slotsOf q l)[i] with
  | none => simp [hv, hits] at hhit
  | some v => exact ⟨v, by rw [slotAt_eq, hget, hv]; rfl⟩

/-- The place found holds a notice. -/
theorem slotAt_of_findNotice {o : Option Nat} {id : Nat} {q : Panels} (h : findNotice q o id = some (l, i)) :
    ∃ v, slotAt q l i = some v := by
  have hfind : findNotice q o id = match (slotsOf q .staff).findIdx? (hits o id) with
      | some i => some (.staff, i)
      | none => ((slotsOf q .service).findIdx? (hits o id)).map fun i => (.service, i) := rfl
  rw [hfind] at h
  split at h
  · next k hk =>
    cases h
    exact slotAt_of_findIdx hk
  · obtain ⟨k, hk, heq⟩ := Option.map_eq_some_iff.mp h
    cases heq
    exact slotAt_of_findIdx hk

/-! ### Placing -/

/-- A slot holds a forwarded notice as its frame gives it. -/
def Holds (q : Panels) (l : NoticeLevel) (i o id sub : Nat) (tg : Targets) (h d : Nat) : Prop :=
  ∃ y, slotAt q l i = some y ∧ y.origin = some o ∧ y.noticeId = id ∧ y.subPriority = sub ∧ y.targets = tg ∧
    y.handle = h ∧ y.duration = d ∧ y.remaining = if d = 0 then none else some d

theorem holds_of_bare {q : Panels} {o id : Nat} (hv : (slotAt q l i).map bare = some (bare (newSlot z (some o) id sub tg h d))) :
    Holds q l i o id sub tg h d := by
  obtain ⟨y, hy, heq⟩ := Option.map_eq_some_iff.mp hv
  refine ⟨y, hy, ?_⟩
  have hfield {α : Type} (g : Slot → α) (hg : ∀ v, g (bare v) = g v) : g y = g (newSlot z (some o) id sub tg h d) := by
    rw [← hg y, heq, hg]
  exact ⟨hfield Slot.origin fun _ => rfl, hfield Slot.noticeId fun _ => rfl, hfield Slot.subPriority fun _ => rfl,
    hfield Slot.targets fun _ => rfl, hfield Slot.handle fun _ => rfl, hfield Slot.duration fun _ => rfl,
    hfield Slot.remaining fun _ => rfl⟩

theorem fillSlot_at (hi : i < (slotsOf x.panel l).length) (o id : Nat) (l' : NoticeLevel) (j : Nat) :
    slotAt (fillSlot l i (some o) id sub tg h d x).panel l' j =
      if (l', j) = (l, i) then some (newSlot (onText (retain h) x) (some o) id sub tg h d) else slotAt x.panel l' j :=
  slotAt_putSlot (x := onText (retain h) x) hi _ l' j

theorem placeNotice_same {o id : Nat} (hfind : findNotice x.panel (some o) id = some (l, i)) :
    (placeNotice o id l sub tg d h x).2 = true ∧ Holds (placeNotice o id l sub tg d h x).1.panel l i o id sub tg h d := by
  obtain ⟨v, hv⟩ := slotAt_of_findNotice hfind
  have heq : placeNotice o id l sub tg d h x = (afterSlots (stablingCondition x) (some (l, i))
      (onText (releaseAll ((slotAt x.panel l i).map (·.handle)).toList) (fillSlot l i (some o) id sub tg h d x)), true) := by
    rw [placeNotice, hfind]
    simp
  rw [heq]
  refine ⟨rfl, holds_of_bare (z := onText (retain h) x) ?_⟩
  rw [bare_afterSlots]
  exact congrArg _ ((fillSlot_at (lt_of_slotAt hv) o id l i).trans (if_pos rfl))

theorem placeNotice_moved {o id : Nat} (hfind : findNotice x.panel (some o) id = some (l', i)) (hl : l' ≠ l)
    (hempty : firstEmpty (slotsOf x.panel l) = some j) :
    (placeNotice o id l sub tg d h x).2 = true ∧ Holds (placeNotice o id l sub tg d h x).1.panel l j o id sub tg h d ∧
      slotAt (placeNotice o id l sub tg d h x).1.panel l' i = none := by
  obtain ⟨v, hv⟩ := slotAt_of_findNotice hfind
  have hne : ((l', i) : NoticeLevel × Nat) ≠ (l, j) := fun heq => hl (congrArg Prod.fst heq)
  have heq : placeNotice o id l sub tg d h x = (afterSlots (stablingCondition x) (some (l, j))
      (vacate l' i (fillSlot l j (some o) id sub tg h d x)), true) := by
    rw [placeNotice, hfind]
    simp [hl, hempty]
  have hheld : slotAt (fillSlot l j (some o) id sub tg h d x).panel l' i = some v := by
    rw [fillSlot_at (firstEmpty_spec hempty).1, if_neg hne, hv]
  rw [heq]
  refine ⟨rfl, holds_of_bare (z := onText (retain h) x) ?_, ?_⟩
  · rw [bare_afterSlots, slotAt_vacate hheld, if_neg hne.symm, fillSlot_at (firstEmpty_spec hempty).1, if_pos rfl]
    rfl
  · rw [slotAt_afterSlots_eq_none_iff, slotAt_vacate hheld, if_pos rfl]

theorem placeNotice_new {o id : Nat} (hfind : findNotice x.panel (some o) id = none)
    (hempty : firstEmpty (slotsOf x.panel l) = some j) :
    (placeNotice o id l sub tg d h x).2 = true ∧ Holds (placeNotice o id l sub tg d h x).1.panel l j o id sub tg h d := by
  have heq : placeNotice o id l sub tg d h x = (afterSlots (stablingCondition x) (some (l, j))
      (fillSlot l j (some o) id sub tg h d x), true) := by
    rw [placeNotice, hfind, hempty]
  rw [heq]
  refine ⟨rfl, holds_of_bare (z := onText (retain h) x) ?_⟩
  rw [bare_afterSlots, fillSlot_at (firstEmpty_spec hempty).1, if_pos rfl]
  rfl

theorem placeNotice_full {o id : Nat} (hfind : ∀ i, findNotice x.panel (some o) id ≠ some (l, i))
    (hempty : firstEmpty (slotsOf x.panel l) = none) : placeNotice o id l sub tg d h x = (onText (dropEntry h) x, false) := by
  rw [placeNotice]
  cases hf : findNotice x.panel (some o) id with
  | none => simp [hempty]
  | some a =>
    obtain ⟨l', i⟩ := a
    have hl : l' ≠ l := fun heq => hfind i (heq ▸ hf)
    simp [hl, hempty]

theorem textAt_dropEntry (h : Nat) (t : TextStore) : textAt (dropEntry h t) h = none := by
  unfold dropEntry
  split
  · exact assocGet_assocErase_self ..
  · next hnone => exact hnone

/-! ### The step -/

/-- The formation once a NOTICE_FWD is answered. -/
def answeredForm (f : NoticeFwdFrame) (full : Bool) (absence : List (Nat × Nat)) (g : Formation) : Formation :=
  { g with absence := absence
           queue := if g.queue.length < 16 then g.queue ++ [.noticeAns f.origin f.noticeId f.number full] else g.queue }

theorem step_of_fwd (hrun : s.part.supply.mode = .run) (hrole : s.part.form.role = .leading ∨ s.part.form.role = .following)
    (hep : f.epoch = s.part.form.record.epoch) (hended : f.origin ∉ s.part.form.ended)
    (hdest : s.part.unit.unitId ∈ f.dests) :
    ∃ t y, exec (.noticeFwd f) s = .next t ∧ Only [.form, .text, .panel, .disp] s t ∧ y.panel = s.part.panel ∧
      y.text = s.part.text ∧ t.part.panel = (receiveNotice f y).1.panel ∧ t.part.text = (receiveNotice f y).1.text ∧
      t.part.form = answeredForm f (!(receiveNotice f y).2) t.part.form.absence s.part.form := by
  have hheard := heardUnit_eq f.origin (quiet s.part)
  have htaken : frameTaken (quiet s.part) f.origin f.epoch = true := by
    have hep' : f.epoch = (quiet s.part).form.record.epoch := hep
    simpa [frameTaken, hep'] using hended
  have hus : fwdForUs f (heardUnit f.origin (quiet s.part)) = true := by
    rw [hheard]
    have hany : (s.part.form.role == .following || s.part.form.role == .leading) = true := by
      obtain h | h := hrole <;> rw [h] <;> rfl
    simp only [fwdForUs, quiet]
    rw [hany, List.contains_iff_mem.mpr hdest]
    rfl
  have heq : hearNoticeFwd f (quiet s.part) =
      onForm (queueItem (.noticeAns f.origin f.noticeId f.number (!(receiveNotice f (heardUnit f.origin (quiet s.part))).2)))
        (receiveNotice f (heardUnit f.origin (quiet s.part))).1 := by
    rw [hearNoticeFwd, if_pos htaken]
    exact if_pos hus
  obtain ⟨t, hexec, rfl, honly⟩ := step_in_run (L := [.form, .text, .panel, .disp]) (c := .noticeFwd f) (f := hearNoticeFwd f)
    hrun rfl (Keeps.step hearNoticeFwd_keeps rfl .refl)
  refine ⟨_, heardUnit f.origin (quiet s.part), hexec, honly, by rw [hheard]; rfl, by rw [hheard]; rfl, ?_, ?_, ?_⟩
  · rw [finish_panel, heq]
    rfl
  · rw [finish_text, heq]
    rfl
  · have hform : (finish (hearNoticeFwd f (quiet s.part))).form =
        queueItem (.noticeAns f.origin f.noticeId f.number (!(receiveNotice f (heardUnit f.origin (quiet s.part))).2))
          (heardUnit f.origin (quiet s.part)).form := by
      rw [finish_form, heq, ← receiveNotice_form f (heardUnit f.origin (quiet s.part))]
      rfl
    rw [hform, queueItem_eq, hheard]
    rfl

/-- Settles O37: a clear by the slot it finds, a raise by the four places a notice can have. -/
theorem forwardedNoticesArePlacedAndAnswered : Obligations.ForwardedNoticesArePlacedAndAnswered := by
  intro s f hrun hrole hep hended hdest
  obtain ⟨t, y, hexec, honly, hypanel, hytext, hpanel, htext, hform⟩ := step_of_fwd hrun hrole hep hended hdest
  refine ⟨t, hexec, honly, fun hbody => ?clear, fun l sub tg d vs hbody => ⟨fun hnone => ?refused, fun h tx hmade => ?raised⟩⟩
  case clear =>
    have hrecv : receiveNotice f y = match findNotice s.part.panel (some f.origin) f.noticeId with
        | some (l, i) => (emptySlot l i y, true)
        | none => (y, true) := by
      rw [receiveNotice, hbody, hypanel] <;> rfl
    rw [hrecv] at hform hpanel htext
    cases hfind : findNotice s.part.panel (some f.origin) f.noticeId with
    | none =>
      rw [hfind] at hform hpanel htext
      exact ⟨hform, fun _ => ⟨hpanel.trans hypanel, htext.trans hytext⟩, nofun⟩
    | some a =>
      rw [hfind] at hform hpanel htext
      refine ⟨hform, nofun, fun l i v heq hv => ?_⟩
      cases heq
      rw [← hypanel] at hv
      rw [hpanel, htext, ← hytext]
      exact ⟨emptySlot_none hv, emptySlot_text hv⟩
  case refused =>
    have hrecv : receiveNotice f y = (y, false) := by
      rw [receiveNotice, hbody]
      dsimp only
      rw [hytext, hnone]
    rw [hrecv] at hform hpanel htext
    exact ⟨hform, hpanel.trans hypanel, htext.trans hytext⟩
  case raised =>
    have hrecv : receiveNotice f y = placeNotice f.origin f.noticeId l sub tg d h { y with text := tx } := by
      rw [receiveNotice, hbody]
      dsimp only
      rw [hytext, hmade]
    rw [hrecv] at hform hpanel htext
    rw [hpanel, htext]
    refine ⟨fun i hfind => ?_, fun l' i j hfind hl hempty => ?_, fun j hfind hempty => ?_, fun hfind hempty => ?_⟩
    · obtain ⟨hok, hholds⟩ := placeNotice_same (x := { y with text := tx }) (sub := sub) (tg := tg) (d := d) (h := h)
        (by rw [← hfind]; exact congrArg (findNotice · _ _) hypanel)
      rw [hok] at hform
      exact ⟨hform, hholds⟩
    · obtain ⟨hok, hholds, hleft⟩ := placeNotice_moved (x := { y with text := tx }) (sub := sub) (tg := tg) (d := d) (h := h)
        (by rw [← hfind]; exact congrArg (findNotice · _ _) hypanel) hl (by rw [← hempty]; exact congrArg (fun q => firstEmpty (slotsOf q l)) hypanel)
      rw [hok] at hform
      exact ⟨hform, hholds, hleft⟩
    · obtain ⟨hok, hholds⟩ := placeNotice_new (x := { y with text := tx }) (sub := sub) (tg := tg) (d := d) (h := h)
        (by rw [← hfind]; exact congrArg (findNotice · _ _) hypanel) (by rw [← hempty]; exact congrArg (fun q => firstEmpty (slotsOf q l)) hypanel)
      rw [hok] at hform
      exact ⟨hform, hholds⟩
    · have hfull := placeNotice_full (x := { y with text := tx }) (sub := sub) (tg := tg) (d := d) (h := h) (o := f.origin) (id := f.noticeId) (l := l)
        (fun i hi => hfind i (by rw [← hi]; exact congrArg (findNotice · _ _) hypanel.symm))
        (by rw [← hempty]; exact congrArg (fun q => firstEmpty (slotsOf q l)) hypanel)
      rw [hfull] at hform ⊢
      exact ⟨hform, hypanel, textAt_dropEntry h tx⟩

end Sys2Proof.Proofs.Received
end

section
/-! Forwards at their end: the answer to the request that waits, the text they release, the late answers. -/
namespace Sys2Proof.Proofs.ForwardEnds
open Sys2Proof Sys2Proof.Machine Effects Requests Owners Events OwnEntries Rendering Journey Driver Slots Notices Coupler Turn Received Changes

variable {s : State} {c : Instr} {x y z : Part} {u n : Nat} {tag : Byte} {r : Result} {d : List Byte} {e : Forward}

/-! ### The answer to a request that waits -/

/-- The in-flight entry of a tag has its reply queued and is SENDING. -/
def Answers (x y : Part) (tag : Byte) (r : Result) (d : List Byte) : Prop :=
  ∀ e, (x.host.inFlight.find? fun e => e.tag == tag) = some e →
    y.host.inFlight = (x.host.inFlight.map fun e => if e.tag = tag then { e with phase := .sending } else e) ∧
      QFrame.reply tag e.kind r d ∈ y.host.queue

theorem answers_answer (h : y.host = x.host) (tag : Byte) (r : Result) (d : List Byte) : Answers x (answer tag r d y) tag r d := by
  intro e he
  have hfind : (y.host.inFlight.find? fun e => e.tag == tag) = some e := h ▸ he
  unfold answer
  rw [hfind, h]
  exact ⟨List.map_congr_left fun a _ => by simp only [beq_iff_eq], by simp⟩

theorem mem_latch_queue {a : QFrame} (k : EventKind) (h : a ∈ x.host.queue) : a ∈ (latch k x).host.queue := by
  unfold latch latchMask
  dsimp only
  split
  · unfold arrangeEvent
    split
    · exact h
    · exact List.mem_append_left _ h
  · exact h

theorem Answers.latch (h : Answers x y tag r d) (k : EventKind) : Answers x (latch k y) tag r d := fun e he =>
  have ⟨hin, hq⟩ := h e he
  ⟨(latchMask_inFlight ..).trans hin, mem_latch_queue k hq⟩

theorem Answers.later (h : Answers (quiet s.part) y tag r d) :
    AnsweredLater s { s with part := finish y } tag r d := by
  intro e he
  obtain ⟨hin, hq⟩ := h e he
  exact ⟨(finish_inFlight y).trans hin, mem_finish hq nofun⟩

/-! ### A forward that ends -/

/-- The text that a forward releases. -/
def freed (e : Forward) (t : TextStore) : TextStore := match e.raise with
  | some r => release r.handle t
  | none => t

theorem endForward_form (tag : Byte) (r : Result) (d : List Byte) (x : Part) : (endForward tag r d x).form =
    { x.form with forwards := x.form.forwards.filter fun e => e.tag != tag
                  queue := x.form.queue.filter fun i => i != .noticeFwd tag } := answer_form ..

theorem endForward_text (h : (x.form.forwards.filter fun e => e.tag == tag) = [e]) :
    (endForward tag r d x).text = freed e x.text := by
  have hdrop : (dropForward tag x).text = releaseAll (forwardHandles [e]) x.text := by
    rw [← h]
    rfl
  rw [endForward, answer_text, hdrop, freed, forwardHandles]
  cases he : e.raise <;> simp [releaseAll, he]

theorem endForward_answers (tag : Byte) (r : Result) (d : List Byte) (x : Part) : Answers x (endForward tag r d x) tag r d :=
  answers_answer (y := dropForward tag x) rfl tag r d

/-! ### A NOTICE_ANS -/

/-- The forwards with one entry answered. -/
def withAnswer (e : Forward) (fs : List Forward) : List Forward := fs.map fun a => if a.tag = e.tag then e else a

theorem withAnswer_others (e : Forward) (fs : List Forward) :
    ((withAnswer e fs).filter fun a => a.tag != e.tag) = fs.filter fun a => a.tag != e.tag := by
  induction fs with
  | nil => rfl
  | cons a fs ih =>
    unfold withAnswer at ih ⊢
    by_cases ha : a.tag = e.tag
    · simpa [ha] using ih
    · simpa [ha] using ih

theorem withAnswer_own {e a : Forward} {fs : List Forward} (h : (fs.filter fun b => b.tag == e.tag) = [a]) :
    ((withAnswer e fs).filter fun b => b.tag == e.tag) = [e] := by
  have hlen : ∀ l : List Forward, ((withAnswer e l).filter fun b => b.tag == e.tag) =
      (l.filter fun b => b.tag == e.tag).map fun _ => e := by
    intro l
    induction l with
    | nil => rfl
    | cons b l ih =>
      unfold withAnswer at ih ⊢
      by_cases hb : b.tag = e.tag
      · simpa [hb] using ih
      · simpa [hb] using ih
  rw [hlen, h]
  rfl

theorem hearNoticeAns_eq {f : NoticeAnsFrame} (hep : f.epoch = s.part.form.record.epoch) (hended : f.unitId ∉ s.part.form.ended)
    (horigin : f.origin = s.part.unit.unitId) :
    hearNoticeAns f (quiet s.part) = matchAnswer f (heardUnit f.unitId (quiet s.part)) := by
  have htaken : frameTaken (quiet s.part) f.unitId f.epoch = true := by
    have hep' : f.epoch = (quiet s.part).form.record.epoch := hep
    simpa [frameTaken, hep'] using hended
  have hown : (f.origin == (heardUnit f.unitId (quiet s.part)).unit.unitId) = true := by
    rw [heardUnit_eq]
    simpa using horigin
  rw [hearNoticeAns, if_pos htaken]
  exact if_pos hown

/-- The part with the answer of a unit entered. -/
def entered (f : NoticeAnsFrame) (e : Forward) (x : Part) : Part :=
  { x with form := { x.form with forwards := withAnswer (answered f e) x.form.forwards } }

theorem matchAnswer_some {f : NoticeAnsFrame} (h : x.form.forwards.find? (matchesForward f) = some e) : matchAnswer f x =
    if (answered f e).awaited = [] then completeForward (answered f e) (entered f e x) else entered f e x := by
  rw [matchAnswer, h]
  have hentered : onForm (fun g => { g with forwards := g.forwards.map fun x => if x.tag == e.tag then answered f e else x }) x =
      entered f e x := by
    simp only [beq_iff_eq]
    rfl
  dsimp only
  rw [hentered]
  simp only [List.isEmpty_iff]

theorem matchAnswer_none {f : NoticeAnsFrame} (h : x.form.forwards.find? (matchesForward f) = none) : matchAnswer f x =
    { x with form := { x.form with late := x.form.late.filter fun a => a != (f.number, f.unitId) } } := by
  rw [matchAnswer, h]
  rfl

/-- The result and detail that end a forward. -/
def ending (e : Forward) : Result × List Byte := if e.full = [] then (.ok, []) else (.part, fullDetail e.full)

theorem completeForward_eq (e : Forward) (x : Part) : completeForward e x = endForward e.tag (ending e).1 (ending e).2 x := by
  unfold completeForward ending
  simp only [List.isEmpty_iff]
  split <;> rfl

/-- The last answer of a forward. -/
theorem step_of_lastAnswer {f : NoticeAnsFrame} (hrun : s.part.supply.mode = .run) (hep : f.epoch = s.part.form.record.epoch)
    (hended : f.unitId ∉ s.part.form.ended) (horigin : f.origin = s.part.unit.unitId)
    (hfind : s.part.form.forwards.find? (matchesForward f) = some e) (hlast : e.awaited.erase f.unitId = []) :
    ∃ t, exec (.noticeAns f) s = .next t ∧ Only [.form, .host, .text] s t ∧
      t.part.form.forwards = (s.part.form.forwards.filter fun a => a.tag != e.tag) ∧
      AnsweredLater s t e.tag (ending (answered f e)).1 (ending (answered f e)).2 ∧
      ((s.part.form.forwards.filter fun a => a.tag == e.tag) = [e] → t.part.text = freed e s.part.text) := by
  have hheard := heardUnit_eq f.unitId (quiet s.part)
  have heq : hearNoticeAns f (quiet s.part) = endForward e.tag (ending (answered f e)).1 (ending (answered f e)).2
      (entered f e (heardUnit f.unitId (quiet s.part))) := by
    rw [hearNoticeAns_eq hep hended horigin, matchAnswer_some (e := e) (by rw [hheard]; exact hfind), if_pos (by exact hlast),
      completeForward_eq]
    rfl
  obtain ⟨t, hexec, rfl, honly⟩ := step_in_run (L := [.form, .host, .text]) (c := .noticeAns f) (f := hearNoticeAns f) hrun rfl
    (Keeps.step hearNoticeAns_keeps rfl .refl)
  have hforwards : (entered f e (heardUnit f.unitId (quiet s.part))).form.forwards = withAnswer (answered f e) s.part.form.forwards := by
    rw [hheard]
    rfl
  refine ⟨_, hexec, honly, ?_, ?_, fun hone => ?_⟩
  · rw [finish_form, heq, endForward_form]
    dsimp only
    rw [hforwards]
    exact withAnswer_others (answered f e) s.part.form.forwards
  · rw [heq]
    refine Answers.later ?_
    have hhost : (entered f e (heardUnit f.unitId (quiet s.part))).host = (quiet s.part).host := by
      rw [hheard]
      rfl
    exact answers_answer (y := dropForward e.tag (entered f e (heardUnit f.unitId (quiet s.part)))) hhost e.tag
      (ending (answered f e)).1 (ending (answered f e)).2
  · have hone' : ((entered f e (heardUnit f.unitId (quiet s.part))).form.forwards.filter fun a => a.tag == e.tag) = [answered f e] := by
      rw [hforwards]
      exact withAnswer_own (e := answered f e) (a := e) hone
    have htext : (entered f e (heardUnit f.unitId (quiet s.part))).text = s.part.text := by
      rw [hheard]
      rfl
    rw [finish_text, heq, endForward_text hone', htext]
    rfl

theorem step_of_answer {f : NoticeAnsFrame} (hrun : s.part.supply.mode = .run) (hep : f.epoch = s.part.form.record.epoch)
    (hended : f.unitId ∉ s.part.form.ended) (horigin : f.origin = s.part.unit.unitId) {g : Formation}
    (hmatch : matchAnswer f (heardUnit f.unitId (quiet s.part)) = { quiet s.part with form := g })
    (hg : g = { s.part.form with absence := g.absence, forwards := g.forwards, late := g.late }) :
    ∃ t, exec (.noticeAns f) s = .next t ∧ Only [.form, .host, .text] s t ∧ Only [.form] s t ∧ t.part.form = g := by
  have heq : hearNoticeAns f (quiet s.part) = { quiet s.part with form := g } :=
    (hearNoticeAns_eq hep hended horigin).trans hmatch
  have hkeeps : Keeps [.form] (quiet s.part) { quiet s.part with form := g } := by
    rw [hg]
    exact form_keeps (x := quiet s.part) rfl rfl rfl Iff.rfl
  obtain ⟨t, hexec, rfl, honly⟩ := step_in_run (L := [.form]) (c := .noticeAns f) (f := hearNoticeAns f) hrun rfl
    (by rw [heq]; exact hkeeps)
  exact ⟨_, hexec, only_mono honly rfl, honly, by rw [finish_form, heq]⟩

/-! ### The answer time and a withdrawal -/

theorem lateAfter_eq (n : Nat) (us : List Nat) (late : List (Nat × Nat)) : lateAfter n us late = us.foldl (fun l u =>
    if (n, u) ∈ l then l else (if l.length < 8 then l else l.drop 1) ++ [(n, u)]) late := by
  have hadd (l : List (Nat × Nat)) (a : Nat × Nat) : addLate l a =
      if a ∈ l then l else (if l.length < 8 then l else l.drop 1) ++ [a] := by
    simp only [addLate, List.contains_iff_mem]
    rfl
  simp only [lateAfter, hadd]

theorem step_of_answerTime (hrun : s.part.supply.mode = .run)
    (hfind : (s.part.form.forwards.find? fun e => e.number == some n) = some e) :
    ∃ t, exec (.answerTimeExpiry n) s = .next t ∧ Only [.form, .host, .text, .events] s t ∧
      t.part.form.forwards = (s.part.form.forwards.filter fun a => a.tag != e.tag) ∧
      AnsweredLater s t e.tag .linkFailed [] ∧ t.part.host.latched.getLsbD 4 = true ∧
      t.part.form.late = lateAfter n e.awaited s.part.form.late ∧
      ((s.part.form.forwards.filter fun a => a.tag == e.tag) = [e] → t.part.text = freed e s.part.text) := by
  have heq : answerExpires n (quiet s.part) = latch .linkTimeout (onForm (fun f => { f with
      late := lateAfter n e.awaited f.late }) (endForward e.tag .linkFailed [] (quiet s.part))) := by
    rw [answerExpires, show (quiet s.part).form.forwards.find? (fun e => e.number == some n) = some e from hfind]
  obtain ⟨t, hexec, rfl, honly⟩ := step_in_run (L := [.form, .host, .text, .events]) (c := .answerTimeExpiry n)
    (f := answerExpires n) hrun rfl (Keeps.step answerExpires_keeps rfl .refl)
  have hform : (answerExpires n (quiet s.part)).form = { s.part.form with
      forwards := s.part.form.forwards.filter fun a => a.tag != e.tag
      queue := s.part.form.queue.filter fun i => i != .noticeFwd e.tag
      late := lateAfter n e.awaited s.part.form.late } := by
    rw [heq, latch_form, onForm, endForward_form]
    rfl
  refine ⟨_, hexec, honly, by rw [finish_form, hform], ?_, ?_, by rw [finish_form, hform], fun hone => ?_⟩
  · rw [heq]
    exact Answers.later (Answers.latch (endForward_answers e.tag .linkFailed [] (quiet s.part)) .linkTimeout)
  · rw [finish_latched, heq]
    exact latched_of_latch (.inr (by decide))
  · rw [finish_text, heq]
    exact endForward_text (x := quiet s.part) hone

theorem step_of_withdrawnForward {q : List LineItem} (hrun : s.part.supply.mode = .run) (hq : s.part.form.queue = .noticeFwd tag :: q) :
    ∃ t, exec .lineQueueWithdrawal s = .next t ∧ Only [.form, .tallies, .host, .text, .events] s t ∧
      t.part.host.latched.getLsbD 5 = true ∧ t.part.form.queue = (q.filter fun a => a != .noticeFwd tag) ∧
      t.part.form.forwards = (s.part.form.forwards.filter fun a => a.tag != tag) ∧ AnsweredLater s t tag .linkFailed [] ∧
      ∀ e, (s.part.form.forwards.filter fun a => a.tag == tag) = [e] → t.part.text = freed e s.part.text := by
  have heq : withdraw (quiet s.part) = latch .arbTimeout (endForward tag .linkFailed []
      (onForm (fun f => { f with queue := q }) (quiet s.part))) := by
    rw [withdraw, show (quiet s.part).form.queue = .noticeFwd tag :: q from hq]
  obtain ⟨t, hexec, rfl, honly⟩ := step_in_run (L := [.form, .tallies, .host, .text, .events]) (c := .lineQueueWithdrawal)
    (f := withdraw) hrun rfl (Keeps.step withdraw_keeps rfl .refl)
  refine ⟨_, hexec, honly, ?_, ?_, ?_, ?_, fun e hone => ?_⟩
  · rw [finish_latched, heq]
    exact latched_of_latch (.inr (by decide))
  · rw [finish_form, heq, latch_form, endForward_form]
    rfl
  · rw [finish_form, heq, latch_form, endForward_form]
    rfl
  · rw [heq]
    exact Answers.later (Answers.latch (answers_answer (y := dropForward tag (onForm (fun f => { f with queue := q }) (quiet s.part)))
      rfl tag .linkFailed []) .arbTimeout)
  · rw [finish_text, heq]
    exact endForward_text (x := onForm (fun f => { f with queue := q }) (quiet s.part)) hone

theorem step_of_withdrawnItem {i : LineItem} {q : List LineItem} (hrun : s.part.supply.mode = .run)
    (hq : s.part.form.queue = i :: q) (hi : ∀ tag, i ≠ .noticeFwd tag) :
    ∃ t, exec .lineQueueWithdrawal s = .next t ∧ Only [.form, .tallies, .host, .text, .events] s t ∧
      t.part.host.latched.getLsbD 5 = true ∧ t.part.form = { s.part.form with queue := q } ∧ t.part.text = s.part.text := by
  have heq : withdraw (quiet s.part) = latch .arbTimeout (onForm (fun f => { f with queue := q }) (quiet s.part)) := by
    rw [withdraw, show (quiet s.part).form.queue = i :: q from hq]
    cases i with
    | noticeFwd tag => exact absurd rfl (hi tag)
    | _ => rfl
  obtain ⟨t, hexec, rfl, honly⟩ := step_in_run (L := [.form, .tallies, .host, .text, .events]) (c := .lineQueueWithdrawal)
    (f := withdraw) hrun rfl (Keeps.step withdraw_keeps rfl .refl)
  refine ⟨_, hexec, honly, ?_, ?_, ?_⟩
  · rw [finish_latched, heq]
    exact latched_of_latch (.inr (by decide))
  · rw [finish_form, heq, latch_form]
    rfl
  · rw [finish_text, heq]
    rfl

theorem answered_ending {t : State} (h : AnsweredLater s t tag (ending e).1 (ending e).2) :
    if e.full = [] then AnsweredLater s t tag .ok [] else AnsweredLater s t tag .part (fullDetail e.full) := by
  unfold ending at h
  by_cases hempty : e.full = []
  · rw [if_pos hempty] at h ⊢
    exact h
  · rw [if_neg hempty] at h ⊢
    exact h

/-- Settles O38: the last answer, any other answer, the answer time, and the two kinds of item withdrawn. -/
theorem answersAndTimesEndForwards : Obligations.AnswersAndTimesEndForwards := by
  refine ⟨fun s f hrun hep hended horigin => ?answer, fun s n e hrun hfind => ?time, fun s i q hrun hq => ?withdrawal⟩
  case answer =>
    have hheard := heardUnit_eq f.unitId (quiet s.part)
    change ∃ t, _ ∧ _ ∧ match s.part.form.forwards.find? (matchesForward f) with
      | some e => _
      | none => _
    cases hfind : s.part.form.forwards.find? (matchesForward f) with
    | none =>
      obtain ⟨t, hexec, hwide, honly, hform⟩ := step_of_answer hrun hep hended horigin
        (g := { s.part.form with absence := (heardUnit f.unitId (quiet s.part)).form.absence
                                 late := s.part.form.late.filter fun a => a != (f.number, f.unitId) })
        (by rw [matchAnswer_none (by rw [hheard]; exact hfind), hheard]; rfl) rfl
      exact ⟨t, hexec, hwide, honly, by rw [hform]⟩
    | some e =>
      dsimp only
      by_cases hlast : e.awaited.erase f.unitId = []
      · obtain ⟨t, hexec, honly, hforwards, hanswered, htext⟩ := step_of_lastAnswer hrun hep hended horigin hfind hlast
        refine ⟨t, hexec, honly, ?_⟩
        rw [if_pos hlast]
        exact ⟨hforwards, answered_ending hanswered, htext⟩
      · obtain ⟨t, hexec, hwide, honly, hform⟩ := step_of_answer hrun hep hended horigin
          (g := { s.part.form with absence := (heardUnit f.unitId (quiet s.part)).form.absence
                                   forwards := withAnswer (answered f e) s.part.form.forwards })
          (by rw [matchAnswer_some (e := e) (by rw [hheard]; exact hfind), if_neg (by exact hlast), entered, hheard]; rfl) rfl
        refine ⟨t, hexec, hwide, ?_⟩
        rw [if_neg hlast]
        exact ⟨honly, by rw [hform]; rfl⟩
  case time =>
    obtain ⟨t, hexec, honly, hforwards, hanswered, hlatched, hlate, htext⟩ := step_of_answerTime hrun hfind
    exact ⟨t, hexec, honly, hforwards, hanswered, hlatched, hlate.trans (lateAfter_eq ..), htext⟩
  case withdrawal =>
    by_cases hfwd : ∃ tag, i = .noticeFwd tag
    · obtain ⟨tag, rfl⟩ := hfwd
      obtain ⟨t, hexec, honly, hlatched, hqueue, hforwards, hanswered, htext⟩ := step_of_withdrawnForward hrun hq
      refine ⟨t, hexec, honly, hlatched, fun h => absurd rfl (h tag), fun k hk => ?_⟩
      cases hk
      exact ⟨hqueue, hforwards, hanswered, htext⟩
    · obtain ⟨t, hexec, honly, hlatched, hform, htext⟩ := step_of_withdrawnItem hrun hq fun tag h => hfwd ⟨tag, h⟩
      exact ⟨t, hexec, honly, hlatched, fun _ => ⟨hform, htext⟩, fun tag h => absurd ⟨tag, h⟩ hfwd⟩

end Sys2Proof.Proofs.ForwardEnds
end

section
/-! The train tally table, and the times of the coupler line. -/
namespace Sys2Proof.Proofs.TrainTally
open Sys2Proof Sys2Proof.Machine Effects Requests Owners Events OwnEntries Rendering Journey Driver Slots Notices Coupler Turn Received
  ForwardEnds FormationStores Changes Port

variable {s : State} {c : Instr} {x y z : Part} {u n : Nat} {f : TallyFrame} {e : TallyEntry}

/-! ### The table -/

/-- Entries written replace those of their positions. -/
theorem mem_writeTallies {new old : List TallyEntry} :
    e ∈ writeTallies new old ↔ e ∈ new ∨ (e ∈ old ∧ ∀ a ∈ new, a.position ≠ e.position) := by
  rw [writeTallies, (sortBy_perm _ _).mem_iff]
  simp [or_comm]

/-- The table holds the own entries, and of the others those of other units at other positions. -/
def OwnWritten (own : Nat) (entries before after : List TallyEntry) : Prop :=
  ∀ e, e ∈ after ↔ e ∈ entries ∨ (e ∈ before ∧ e.unitId ≠ own ∧ ∀ a ∈ entries, a.position ≠ e.position)

theorem writeOwnTallies_spec (x : Part) :
    OwnWritten x.unit.unitId (ownTallyEntries x) x.form.trainTally (writeOwnTallies x).form.trainTally := by
  intro e
  have hmem := mem_writeTallies (e := e) (new := ownTallyEntries x)
    (old := x.form.trainTally.filter fun a => a.unitId != x.unit.unitId)
  refine hmem.trans (or_congr Iff.rfl ?_)
  simp [and_assoc]

/-- The own entries read the formation in force, the unit id and the counts alone. -/
theorem ownTallyEntries_congr (h1 : inForce y = inForce x) (h2 : y.unit = x.unit) (h3 : y.seat.counts = x.seat.counts) :
    ownTallyEntries y = ownTallyEntries x := by
  rw [ownTallyEntries, ownTallyEntries, h1, h2, h3]

/-- The formation in force reads unit, route id and what the record holds. -/
theorem inForce_congr (h1 : y.form.role = x.form.role) (h2 : y.form.record = x.form.record) (h3 : y.form.qualEnd = x.form.qualEnd)
    (h4 : y.unit = x.unit) (h5 : routeInForce y.route = routeInForce x.route) : inForce y = inForce x := by
  rw [inForce, inForce, ownAlone, ownAlone, ownEntry, ownEntry, h1, h2, h3, h4, h5]

theorem nameSummary_counts (before : List SummaryEntry) (x : Part) : (nameSummary before x).seat = x.seat := by
  rw [nameSummary_eq]

theorem deriveSummary_counts (x : Part) : (deriveSummary x).seat.counts = x.seat.counts := by
  rw [deriveSummary, nameSummary_counts]
  rfl

theorem formationHandOff_counts (o : Orientation) (x : Part) : (formationHandOff o x).seat.counts = x.seat.counts := by
  unfold formationHandOff
  dsimp only
  rw [composer_eq]
  exact deriveSummary_counts (writeOwnTallies x)

theorem formationHandOff_tallies (o : Orientation) (x : Part) :
    (formationHandOff o x).form.trainTally = (writeOwnTallies x).form.trainTally := by
  unfold formationHandOff
  dsimp only
  rw [composer_eq, deriveSummary_eq]

theorem routeInForce_source (r : Route) (src : Source) :
    routeInForce { r with prog := { r.prog with source := src } } = routeInForce r := rfl

/-- The own entries written in a change of the formation in force are those of the part after it. -/
theorem formationChanged_own (o : Orientation) (x : Part) : ownTallyEntries (formationChanged o x) = ownTallyEntries x := by
  have heq := formationChanged_eq o x
  have hcounts : (formationChanged o x).seat.counts = x.seat.counts := formationHandOff_counts o (evalSource x)
  refine ownTallyEntries_congr (inForce_congr ?_ ?_ ?_ ?_ ?_) ?_ hcounts <;> rw [heq]
  exact routeInForce_source ..

theorem formationChanged_tallies (o : Orientation) (x : Part) : OwnWritten x.unit.unitId (ownTallyEntries (formationChanged o x))
    x.form.trainTally (formationChanged o x).form.trainTally := by
  have htally : (formationChanged o x).form.trainTally = (writeOwnTallies (evalSource x)).form.trainTally :=
    formationHandOff_tallies o (evalSource x)
  rw [htally, formationChanged_own]
  exact writeOwnTallies_spec (evalSource x)

theorem deriveSummary_tallies (x : Part) : (deriveSummary x).form = x.form := by
  rw [deriveSummary_eq]

/-! ### A TALLY frame -/

theorem mem_frameTallies : e ∈ frameTallies f ↔ ∃ k ∈ f.coaches, e =
    { position := k.position, booked := k.booked, unitId := f.unitId, freeEnd := k.freeEnd
      freeDivide := k.freeDivide, epoch := f.epoch } := by
  simp [frameTallies, eq_comm]

theorem mem_afterFrame {old : List TallyEntry} : e ∈ writeTallies (frameTallies f) old ↔
    (∃ k ∈ f.coaches, e =
      { position := k.position, booked := k.booked, unitId := f.unitId, freeEnd := k.freeEnd
        freeDivide := k.freeDivide, epoch := f.epoch }) ∨ (e ∈ old ∧ ∀ k ∈ f.coaches, k.position ≠ e.position) := by
  rw [mem_writeTallies, mem_frameTallies]
  refine or_congr Iff.rfl (and_congr Iff.rfl ?_)
  simp [frameTallies]

/-- The part with the entries of a frame written. -/
def frameWritten (f : TallyFrame) (x : Part) : Part :=
  { x with form := { x.form with
      trainTally := writeTallies (frameTallies f) x.form.trainTally, record := tallyRecord f x.form.record } }

theorem takeTally_same (h : tallyRecord f x.form.record = x.form.record) : takeTally f x = deriveSummary (frameWritten f x) :=
  if_pos (by simpa [onForm] using h)

theorem takeTally_changed (h : tallyRecord f x.form.record ≠ x.form.record) :
    takeTally f x = formationChanged (ownOrientation x) (frameWritten f x) :=
  if_neg (by simpa [onForm] using h)

theorem takeTally_form (f : TallyFrame) (x : Part) : (takeTally f x).form.record = tallyRecord f x.form.record ∧
    (takeTally f x).form.role = x.form.role := by
  by_cases h : tallyRecord f x.form.record = x.form.record
  · rw [takeTally_same h, deriveSummary_tallies]
    exact ⟨rfl, rfl⟩
  · rw [takeTally_changed h, formationChanged_eq]
    exact ⟨rfl, rfl⟩

theorem hearTally_eq (hep : f.epoch = s.part.form.record.epoch) (hended : f.unitId ∉ s.part.form.ended)
    (hother : ∃ u ∈ otherUnits s.part, u.unitId = f.unitId) :
    hearTally f (quiet s.part) = takeTally f (heardUnit f.unitId (quiet s.part)) := by
  have htaken : frameTaken (quiet s.part) f.unitId f.epoch = true := by
    have hep' : f.epoch = (quiet s.part).form.record.epoch := hep
    simpa [frameTaken, hep'] using hended
  have hsame : otherUnits (heardUnit f.unitId (quiet s.part)) = otherUnits s.part := by
    rw [heardUnit_eq]
    rfl
  have hany : ((otherUnits (heardUnit f.unitId (quiet s.part))).any fun u => u.unitId == f.unitId) = true := by
    rw [hsame]
    simpa using hother
  rw [hearTally, if_pos htaken]
  exact if_pos hany

theorem step_of_tally (hrun : s.part.supply.mode = .run) (hep : f.epoch = s.part.form.record.epoch)
    (hended : f.unitId ∉ s.part.form.ended) (hother : ∃ u ∈ otherUnits s.part, u.unitId = f.unitId) :
    ∃ t, exec (.tally f) s = .next t ∧ Only [.source, .form, .tallies, .seat, .panel, .disp] s t ∧
      t.part.form.record = tallyRecord f s.part.form.record ∧ t.part.form.role = s.part.form.role ∧
      (tallyRecord f s.part.form.record = s.part.form.record →
        t.part.form.trainTally = writeTallies (frameTallies f) s.part.form.trainTally) ∧
      (tallyRecord f s.part.form.record ≠ s.part.form.record →
        OwnWritten s.part.unit.unitId (ownTallyEntries t.part) (writeTallies (frameTallies f) s.part.form.trainTally)
          t.part.form.trainTally) := by
  have hheard := heardUnit_eq f.unitId (quiet s.part)
  have heq := hearTally_eq hep hended hother
  have hrecord : (heardUnit f.unitId (quiet s.part)).form.record = s.part.form.record := by
    rw [hheard]
    rfl
  have hrole : (heardUnit f.unitId (quiet s.part)).form.role = s.part.form.role := by
    rw [hheard]
    rfl
  have htable : (heardUnit f.unitId (quiet s.part)).form.trainTally = s.part.form.trainTally := by
    rw [hheard]
    rfl
  have hunit : (heardUnit f.unitId (quiet s.part)).unit = s.part.unit := by
    rw [hheard]
    rfl
  obtain ⟨hr, hl⟩ := takeTally_form f (heardUnit f.unitId (quiet s.part))
  obtain ⟨t, hexec, rfl, honly⟩ := step_in_run (c := .tally f) (f := hearTally f) hrun rfl hearTally_keeps
  refine ⟨_, hexec, honly, ?_, ?_, fun h => ?_, fun h => ?_⟩
  · rw [finish_form, heq, hr, hrecord]
  · rw [finish_form, heq, hl, hrole]
  · rw [finish_form, heq, takeTally_same (by rw [hrecord]; exact h), deriveSummary_tallies, frameWritten, htable]
  · have hown := ownTallyEntries_congr (x := hearTally f (quiet s.part)) (y := finish (hearTally f (quiet s.part)))
      (inForce_congr (by simp) (by simp) (by simp) (by simp) (by simp)) (by simp) (by simp)
    have hchanged := takeTally_changed (f := f) (x := heardUnit f.unitId (quiet s.part)) (by rw [hrecord]; exact h)
    have hspec := formationChanged_tallies (ownOrientation (heardUnit f.unitId (quiet s.part)))
      (frameWritten f (heardUnit f.unitId (quiet s.part)))
    dsimp only
    rw [hown, finish_form, heq, hchanged]
    have hunit' : (frameWritten f (heardUnit f.unitId (quiet s.part))).unit.unitId = s.part.unit.unitId := by
      rw [← hunit]
      rfl
    have htable' : (frameWritten f (heardUnit f.unitId (quiet s.part))).form.trainTally =
        writeTallies (frameTallies f) s.part.form.trainTally := by
      rw [← htable]
      rfl
    rwa [hunit', htable'] at hspec

/-! ### The times -/

theorem step_of_spacing (hrun : s.part.supply.mode = .run) (hspacing : s.part.form.spacing = true) :
    ∃ t, exec .spacingTimeExpiry s = .next t ∧ Only [.tallies] s t ∧
      t.part.form = (if s.part.form.tallyPending then { queueTally s.part.form with spacing := true, tallyPending := false }
        else { s.part.form with spacing := false }) := by
  have heq : spacingExpires (quiet s.part) = { quiet s.part with
      form := if s.part.form.tallyPending then { queueTally s.part.form with spacing := true, tallyPending := false }
        else { s.part.form with spacing := false } } := by
    rw [spacingExpires, if_pos (by exact hspacing)]
    by_cases h : s.part.form.tallyPending = true
    · rw [if_pos (by exact h), if_pos h]
      rfl
    · rw [if_neg (by exact h), if_neg h]
      rfl
  obtain ⟨t, hexec, rfl, honly⟩ := step_in_run (c := .spacingTimeExpiry) (f := spacingExpires) hrun rfl spacingExpires_keeps
  exact ⟨_, hexec, honly, by rw [finish_form, heq]⟩

theorem queueTally_eq (g : Formation) : queueTally g = { g with
    queue := if LineItem.tally ∈ g.queue then g.queue else if g.queue.length < 16 then g.queue ++ [.tally] else g.queue } := by
  rw [queueTally, queueItem_eq]
  by_cases h : LineItem.tally ∈ g.queue
  · rw [if_pos (List.contains_iff_mem.mpr h), if_pos h]
  · rw [if_neg (fun hc => h (List.contains_iff_mem.mp hc)), if_neg h]

/-- Forwards ended one after the other. -/
theorem endForwards_fold (l : List Forward) (x : Part) :
    let y := l.foldl (fun s e => endForward e.tag .linkFailed [] s) x
    y = { x with text := y.text, host := y.host, form := { x.form with forwards := y.form.forwards, queue := y.form.queue } } ∧
      ∀ e ∈ y.form.forwards, e ∈ x.form.forwards ∧ ∀ a ∈ l, e.tag ≠ a.tag := by
  induction l generalizing x with
  | nil => exact ⟨rfl, fun e he => ⟨he, nofun⟩⟩
  | cons a l ih =>
    have hone : endForward a.tag .linkFailed [] x = { x with
        text := (endForward a.tag .linkFailed [] x).text, host := (endForward a.tag .linkFailed [] x).host
        form := { x.form with forwards := (endForward a.tag .linkFailed [] x).form.forwards
                              queue := (endForward a.tag .linkFailed [] x).form.queue } } := by
      rw [endForward, answer_eq]
      rfl
    obtain ⟨heq, hleft⟩ := ih (endForward a.tag .linkFailed [] x)
    refine ⟨?_, fun e he => ?_⟩
    · rw [List.foldl_cons]
      refine heq.trans ?_
      rw [hone]
    · obtain ⟨hmem, hne⟩ := hleft e he
      rw [endForward_form] at hmem
      obtain ⟨hin, htag⟩ := List.mem_filter.mp hmem
      exact ⟨hin, List.forall_mem_cons.mpr ⟨by simpa using htag, hne⟩⟩

/-- Every forward ended: the entries and the late answers are gone. -/
theorem endForwards_eq (x : Part) : endForwards x =
    { x with text := (endForwards x).text, host := (endForwards x).host
             form := { x.form with forwards := [], late := [], queue := (endForwards x).form.queue } } := by
  obtain ⟨heq, hleft⟩ := endForwards_fold x.form.forwards x
  have hnil : (x.form.forwards.foldl (fun s e => endForward e.tag .linkFailed [] s) x).form.forwards = [] :=
    List.eq_nil_iff_forall_not_mem.mpr fun e he =>
      have ⟨hmem, hne⟩ := hleft e he
      hne e hmem rfl
  have hform : (endForwards x).form = { (x.form.forwards.foldl (fun s e => endForward e.tag .linkFailed [] s) x).form with late := [] } := rfl
  have hrest : endForwards x = { x.form.forwards.foldl (fun s e => endForward e.tag .linkFailed [] s) x with form := (endForwards x).form } := rfl
  rw [hrest, hform, heq, hnil]

theorem isolate_eq (x : Part) : ∃ q : Part, isolate x = latch .detached (changeRole .isolated { x with
    text := q.text, host := q.host
    form := { x.form with beaconLoss := none, waiting := false, rollFront := none, heardAnswers := 0
                          drive := { a := false, b := false }, forwards := [], late := [], queue := q.form.queue } }) := by
  refine ⟨endForwards (onForm (fun f => { f with
    beaconLoss := none, waiting := false, rollFront := none, heardAnswers := 0, drive := { a := false, b := false } }) x), ?_⟩
  have heq := endForwards_eq (onForm (fun f => { f with
    beaconLoss := none, waiting := false, rollFront := none, heardAnswers := 0, drive := { a := false, b := false } }) x)
  exact congrArg (fun z => latch .detached (changeRole .isolated z)) heq

theorem step_of_beaconLoss (hrun : s.part.supply.mode = .run)
    (hrole : s.part.form.role = .following ∨ s.part.form.role = .formingFollower) (hloss : s.part.form.beaconLoss = some n) :
    ∃ t, exec .beaconLoss s = .next t ∧
      Only [.host, .text, .source, .form, .tallies, .seat, .panel, .disp, .events] s t ∧ t.part.form.role = .isolated ∧
      t.part.form.beaconLoss = none ∧ t.part.form.forwards = [] ∧ t.part.form.late = [] ∧
      t.part.form.record = s.part.form.record ∧ t.part.host.latched.getLsbD 3 = true ∧ t.part.route.prog.source = .own := by
  have heq : lossExpires (quiet s.part) = isolate (quiet s.part) := by
    have hany : ((quiet s.part).form.role == .following || (quiet s.part).form.role == .formingFollower) = true := by
      simp only [quiet]
      obtain h | h := hrole <;> rw [h] <;> rfl
    have hsome : (quiet s.part).form.beaconLoss.isSome = true := by simp [hloss]
    rw [lossExpires, if_pos hsome, if_pos hany]
  obtain ⟨q, hq⟩ := isolate_eq (quiet s.part)
  obtain ⟨t, hexec, rfl, honly⟩ := step_in_run (L := [.host, .text, .source, .form, .tallies, .seat, .panel, .disp, .events])
    (c := .beaconLoss) (f := lossExpires) hrun rfl (Keeps.step lossExpires_keeps rfl .refl)
  refine ⟨_, hexec, honly, ?_⟩
  have hlatched : (isolate (quiet s.part)).host.latched.getLsbD 3 = true := by
    rw [hq]
    exact latched_of_latch (.inr (by decide))
  have hsource : (isolate (quiet s.part)).route.prog.source = .own := by
    rw [hq, latch_eq]
    exact changeRole_source (by decide) _
  have hform : (isolate (quiet s.part)).form.role = .isolated ∧ (isolate (quiet s.part)).form.beaconLoss = none ∧
      (isolate (quiet s.part)).form.forwards = [] ∧ (isolate (quiet s.part)).form.late = [] ∧
      (isolate (quiet s.part)).form.record = s.part.form.record := by
    rw [hq, latch_form, changeRole_eq]
    exact ⟨rfl, rfl, rfl, rfl, rfl⟩
  obtain ⟨h1, h2, h3, h4, h5⟩ := hform
  rw [finish_form, finish_latched, finish_route, heq]
  exact ⟨h1, h2, h3, h4, h5, hlatched, hsource⟩

theorem step_of_absence (hrun : s.part.supply.mode = .run) (hrole : s.part.form.role = .leading)
    (habsent : ∃ a ∈ s.part.form.absence, a.1 = u) :
    ∃ t, exec (.absenceTimeExpiry u) s = .next t ∧ Only [.form] s t ∧
      t.part.form = { s.part.form with rollPending := true, absence := s.part.form.absence.filter fun a => a.1 != u } := by
  have hany : (s.part.form.absence.any fun a => a.1 == u) = true := by simpa using habsent
  have heq : absenceExpires u (quiet s.part) = onForm (fun f => { f with
      rollPending := true, absence := f.absence.filter fun x => x.1 != u }) (quiet s.part) := by
    refine if_pos ?_
    simp only [quiet]
    rw [hrole, hany]
    rfl
  obtain ⟨t, hexec, rfl, honly⟩ := step_in_run (c := .absenceTimeExpiry u) (f := absenceExpires u) hrun rfl absenceExpires_keeps
  refine ⟨_, hexec, honly, ?_⟩
  rw [finish_form, heq]
  rfl

/-- Settles O39: the table after a frame, and the three times. -/
theorem talliesAndTimesOfTheCouplerLine : Obligations.TalliesAndTimesOfTheCouplerLine := by
  refine ⟨fun s f hrun hep hended hother => ?tally, fun s hrun hspacing => ?spacing,
    fun s n hrun hrole hloss => step_of_beaconLoss hrun hrole hloss,
    fun s u hrun hrole habsent => step_of_absence hrun hrole habsent⟩
  case tally =>
    obtain ⟨t, hexec, honly, hrecord, hrole, hsame, hchanged⟩ := step_of_tally hrun hep hended hother
    refine ⟨t, hexec, honly, hrecord, hrole, fun h e => ?_, fun h e => ?_⟩
    · rw [hsame h]
      exact mem_afterFrame
    · rw [hchanged h e, mem_afterFrame]
      exact or_congr Iff.rfl ⟨fun ⟨ha, hb, hc⟩ => ⟨hb, hc, ha⟩, fun ⟨hb, hc, ha⟩ => ⟨ha, hb, hc⟩⟩
  case spacing =>
    obtain ⟨t, hexec, honly, hform⟩ := step_of_spacing hrun hspacing
    rw [queueTally_eq] at hform
    refine ⟨t, hexec, honly, ?_, fun h => ?_, fun h => ?_⟩
    · rw [hform]
      cases h : s.part.form.tallyPending
      · exact h
      · rfl
    · rw [hform, if_neg (by simp [h])]
      exact ⟨rfl, rfl⟩
    · rw [hform, if_pos h]
      exact ⟨rfl, rfl⟩

end Sys2Proof.Proofs.TrainTally
end

section
/-! The effects of an epoch change and of a separation (R81, R82): queue, forwards, slots, record. -/
namespace Sys2Proof.Proofs.EpochChange
open Sys2Proof Sys2Proof.Machine Effects Requests Owners Events OwnEntries Rendering Journey Driver Slots Notices Coupler Turn Received
  ForwardEnds TrainTally

variable {s : State} {c : Instr} {x y z : Part} {l : NoticeLevel} {i : Nat} {f : Slot → Bool} {o : Orientation}

/-! ### Slots -/

/-- Two parts whose slots hold the same notices. -/
def SameNotices (x y : Part) : Prop := ∀ l i, (slotAt y.panel l i).map bare = (slotAt x.panel l i).map bare

theorem SameNotices.refl (x : Part) : SameNotices x x := fun _ _ => rfl

theorem SameNotices.trans (h : SameNotices x y) (h' : SameNotices y z) : SameNotices x z :=
  fun l i => (h' l i).trans (h l i)

theorem SameNotices.of_panel (h : y.panel = x.panel) : SameNotices x y := fun _ _ => by rw [h]

theorem SameNotices.none_iff (h : SameNotices x y) : slotAt y.panel l i = none ↔ slotAt x.panel l i = none := by
  rw [← Option.map_eq_none_iff (f := bare), h, Option.map_eq_none_iff]

theorem composer_notices (cause : Cause) (x : Part) : SameNotices x (composer cause x) := fun l i => by
  rw [composer_panel]
  exact bare_reevaluate x l i

theorem afterSlots_notices (b : Bool) (filled : Option (NoticeLevel × Nat)) (x : Part) :
    SameNotices x (afterSlots b filled x) := fun l i => bare_afterSlots b filled x l i

theorem slotAt_setContext (q : Panels) (p : ProgLevel) (v : Context) (l : NoticeLevel) (i : Nat) :
    slotAt (setContext q p v) l i = slotAt q l i := by
  cases p <;> cases l <;> rfl

theorem nameSummary_notices (before : List SummaryEntry) (x : Part) : SameNotices x (nameSummary before x) := by
  unfold nameSummary
  split
  · exact .refl x
  · exact fun l i => congrArg (Option.map bare) (slotAt_setContext x.panel .journey (refreshLevel x .journey) l i)

theorem deriveSummary_notices (x : Part) : SameNotices x (deriveSummary x) := nameSummary_notices _ (setSummary x)

theorem formationChanged_notices (o : Orientation) (x : Part) : SameNotices x (formationChanged o x) :=
  (deriveSummary_notices (writeOwnTallies (evalSource x))).trans (composer_notices _ _)

/-- A slot that is emptied stays empty while others are emptied, and an occupied one that the test names is emptied. -/
theorem vacated_of_fold (ps : List (NoticeLevel × Nat)) (x : Part)
    (h : slotAt x.panel l i = none ∨ ∃ v, slotAt x.panel l i = some v ∧ f v = true ∧ (l, i) ∈ ps) :
    slotAt (ps.foldl (fun s a => if ((slotAt s.panel a.1 a.2).map f).getD false then vacate a.1 a.2 s else s) x).panel l i = none := by
  induction ps generalizing x with
  | nil =>
    obtain h | ⟨v, -, -, hmem⟩ := h
    · exact h
    · exact absurd hmem List.not_mem_nil
  | cons a ps ih =>
    obtain ⟨k, j⟩ := a
    rw [List.foldl_cons]
    refine ih _ ?_
    cases hslot : slotAt x.panel k j with
    | none =>
      rw [Option.map_none, Option.getD_none, if_neg Bool.false_ne_true]
      obtain h | ⟨v, hv, hf, hmem⟩ := h
      · exact .inl h
      · refine .inr ⟨v, hv, hf, ?_⟩
        obtain heq | hmem := List.mem_cons.mp hmem
        · cases heq
          exact absurd (hslot.symm.trans hv) nofun
        · exact hmem
    | some w =>
      by_cases hw : f w = true
      · rw [Option.map_some, Option.getD_some, if_pos hw, slotAt_vacate hslot]
        by_cases heq : (l, i) = (k, j)
        · exact .inl (if_pos heq)
        · rw [if_neg heq]
          obtain h | ⟨v, hv, hf, hmem⟩ := h
          · exact .inl h
          · exact .inr ⟨v, hv, hf, (List.mem_cons.mp hmem).resolve_left heq⟩
      · rw [Option.map_some, Option.getD_some, if_neg hw]
        obtain h | ⟨v, hv, hf, hmem⟩ := h
        · exact .inl h
        · refine .inr ⟨v, hv, hf, (List.mem_cons.mp hmem).resolve_left fun heq => ?_⟩
          cases heq
          obtain rfl : w = v := Option.some.inj (hslot.symm.trans hv)
          exact hw hf

theorem slotAt_vacateWhere (f : Slot → Bool) {v : Slot} (hi : i < 4) (hv : slotAt x.panel l i = some v) (hf : f v = true) :
    slotAt (vacateWhere f x).panel l i = none := by
  refine vacated_of_fold slotPlaces x (.inr ⟨v, hv, hf, ?_⟩)
  obtain rfl | rfl | rfl | rfl : i = 0 ∨ i = 1 ∨ i = 2 ∨ i = 3 := by omega
  all_goals cases l <;> decide

theorem vacate_eq_text_panel (l : NoticeLevel) (i : Nat) (x : Part) :
    vacate l i x = { x with text := (vacate l i x).text, panel := (vacate l i x).panel } := by
  unfold vacate
  split <;> rfl

theorem vacateWhere_eq (f : Slot → Bool) (x : Part) :
    vacateWhere f x = { x with text := (vacateWhere f x).text, panel := (vacateWhere f x).panel } := by
  unfold vacateWhere
  generalize slotPlaces = ps
  induction ps generalizing x with
  | nil => rfl
  | cons a ps ih =>
    rw [List.foldl_cons]
    split
    · refine (ih _).trans ?_
      rw [vacate_eq_text_panel]
    · exact ih x

/-! ### The record in place -/

/-- The formation after the effects of an epoch change. -/
def renewed (x : Part) (tallies : List TallyEntry) : Formation :=
  { x.form with forwards := [], late := [], queue := if hasOthers x then [.tally] else [], trainTally := tallies }

/-- The part after steps 2 and 3 of R81, without the new TALLY. -/
def told (x : Part) : Part :=
  deriveSummary (writeOwnTallies (onForm (fun f =>
    { f with trainTally := f.trainTally.filter fun e => e.epoch == f.record.epoch })
      (onForm (fun f => { f with queue := [] }) (endForwards x))))

theorem told_eq (x : Part) : told x = { x with
    text := (told x).text, host := (told x).host, seat := (told x).seat, panel := (told x).panel, disp := (told x).disp
    form := { x.form with forwards := [], late := [], queue := [], trainTally := (told x).form.trainTally } } := by
  unfold told
  rw [deriveSummary_eq, endForwards_eq]
  rfl

theorem told_notices (x : Part) : SameNotices x (told x) := by
  have h : SameNotices x (writeOwnTallies (onForm (fun f =>
    { f with trainTally := f.trainTally.filter fun e => e.epoch == f.record.epoch })
      (onForm (fun f => { f with queue := [] }) (endForwards x)))) := .of_panel (by
    rw [endForwards_eq]
    rfl)
  exact h.trans (deriveSummary_notices _)

theorem told_inForce (x : Part) : inForce (told x) = inForce x := by
  refine inForce_congr ?_ ?_ ?_ ?_ ?_ <;> rw [told_eq]

/-- With the new TALLY, where another unit is listed. -/
def retold (x : Part) : Part := if hasOthers (told x) then onForm (queueItem .tally) (told x) else told x

theorem retold_eq (x : Part) : retold x = { told x with
    form := { (told x).form with queue := if hasOthers x then [.tally] else [] } } := by
  have hothers : hasOthers (told x) = hasOthers x := by rw [hasOthers, otherUnits, told_inForce, hasOthers, otherUnits]
  have hempty : (told x).form.queue = [] := by rw [told_eq]
  rw [retold, hothers]
  split
  · rw [onForm, queueItem_eq, hempty]
    rfl
  · rw [← hempty]

/-- The part with foreign notices gone, before the change of the formation in force is handed on. -/
def cleared (x : Part) : Part :=
  afterSlots (stablingCondition (retold x)) none (vacateWhere (foreignTo (retold x).form.record) (retold x))

theorem recordEffects_def (o : Orientation) (x : Part) : recordEffects o x = formationChanged o (cleared x) := by
  unfold recordEffects cleared retold told
  dsimp only

theorem vacateWhere_form (f : Slot → Bool) (x : Part) : (vacateWhere f x).form = x.form := by rw [vacateWhere_eq]
theorem vacateWhere_route (f : Slot → Bool) (x : Part) : (vacateWhere f x).route = x.route := by rw [vacateWhere_eq]

theorem cleared_form (x : Part) : (cleared x).form = renewed x (told x).form.trainTally := by
  rw [cleared, afterSlots_form, vacateWhere_form, retold_eq, told_eq]
  rfl

theorem cleared_route (x : Part) : (cleared x).route = x.route := by
  rw [cleared, afterSlots_eq]
  dsimp only
  rw [vacateWhere_route, retold_eq, told_eq]

theorem formationChanged_form (o : Orientation) (x : Part) :
    (formationChanged o x).form = { x.form with trainTally := (formationChanged o x).form.trainTally } :=
  congrArg Part.form (formationChanged_eq o x)

theorem formationChanged_source (o : Orientation) (x : Part) : (formationChanged o x).route.prog.source = sourceOf x :=
  (congrArg (fun y : Part => y.route.prog.source) (formationChanged_eq o x) :)

theorem recordEffects_form (o : Orientation) (x : Part) :
    (recordEffects o x).form = renewed x (recordEffects o x).form.trainTally := by
  have h := formationChanged_form o (cleared x)
  rw [cleared_form] at h
  rw [recordEffects_def]
  exact h

theorem sourceOf_congr (h1 : y.form.role = x.form.role) (h2 : y.route = x.route) : sourceOf y = sourceOf x := by
  rw [sourceOf, sourceOf, h1, h2]

/-- A notice of a unit that the record does not list leaves its slot. -/
theorem recordEffects_foreign (o : Orientation) {v : Slot} {u : Nat} (hi : i < 4) (hv : slotAt x.panel l i = some v)
    (ho : v.origin = some u) (hu : ∀ a ∈ x.form.record.units, a.unitId ≠ u) :
    slotAt (recordEffects o x).panel l i = none := by
  have hsame : SameNotices x (retold x) := (told_notices x).trans (.of_panel (by rw [retold_eq]))
  have hslot := hsame l i
  rw [hv] at hslot
  obtain ⟨w, hw, heq⟩ := Option.map_eq_some_iff.mp hslot
  have horigin : w.origin = some u := (congrArg Slot.origin heq).trans ho
  have hrecord : (retold x).form.record = x.form.record := by rw [retold_eq, told_eq]
  have hforeign : foreignTo (retold x).form.record w = true := by
    rw [hrecord, foreignTo, horigin]
    simpa using hu
  have hnone := slotAt_vacateWhere (foreignTo (retold x).form.record) hi hw hforeign
  rw [recordEffects_def, (formationChanged_notices _ _).none_iff, cleared, (afterSlots_notices _ _ _).none_iff]
  exact hnone

/-! ### A record taken, and a separation -/

/-- The formation with a record taken. -/
def recordTaken (r : FormRecord) (role : Role) (f : Formation) : Formation := { quietLeader f with record := r, role := role }

/-- The part with a record taken, before the effects of R81. -/
def taking (r : FormRecord) (role : Role) (x : Part) : Part := { x with form := recordTaken r role x.form }

theorem takeRecord_def (r : FormRecord) (role : Role) (x : Part) :
    takeRecord r role x = latch .formation (recordEffects (ownOrientation x) (taking r role x)) := rfl

theorem takeRecord_form (r : FormRecord) (role : Role) (x : Part) : (takeRecord r role x).form =
    renewed (taking r role x) (takeRecord r role x).form.trainTally := by
  rw [takeRecord_def, latch_form]
  exact recordEffects_form _ _

theorem takeRecord_latched (r : FormRecord) (role : Role) (x : Part) : (takeRecord r role x).host.latched.getLsbD 1 = true :=
  latched_of_latch (.inr (by decide))

theorem latch_panel (k : EventKind) (x : Part) : (latch k x).panel = x.panel := by rw [latch_eq]

theorem takeRecord_foreign (r : FormRecord) (role : Role) {v : Slot} {u : Nat} (hi : i < 4) (hv : slotAt x.panel l i = some v)
    (ho : v.origin = some u) (hu : ∀ a ∈ r.units, a.unitId ≠ u) : slotAt (takeRecord r role x).panel l i = none := by
  rw [takeRecord_def, latch_panel]
  exact recordEffects_foreign (x := taking r role x) _ hi hv ho hu

/-- The formation of a part that separates: the own unit alone. -/
def separated (x : Part) : Formation :=
  { quietLeader x.form with
    role := .standalone, beaconLoss := none, waiting := false, rollFront := none, heardAnswers := 0
    drive := { a := false, b := false }
    record := { epoch := x.form.record.epoch, units := [ownEntryNow x], ownIndex := 1 }
    forwards := [], late := [], queue := [] }

/-- The part that goes STANDALONE, its record not yet the own unit alone. -/
def parted (x : Part) : Part :=
  { x with form := { quietLeader x.form with
      role := .standalone, beaconLoss := none, waiting := false, rollFront := none, heardAnswers := 0
      drive := { a := false, b := false } } }

/-- The part that separates, before the effects of R82. -/
def parting (x : Part) : Part :=
  { x with form := { separated x with
      forwards := x.form.forwards, late := x.form.late, queue := x.form.queue
      trainTally := x.form.trainTally.filter fun e => e.unitId == x.unit.unitId } }

theorem ownAlone_parted (x : Part) :
    ownAlone (parted x) = { epoch := x.form.record.epoch, units := [ownEntryNow x], ownIndex := 1 } := by
  rw [ownAlone_eq]
  rfl

theorem separate_def (x : Part) : separate x = recordEffects (ownOrientation x) (parting x) := by
  have halone : recordAlone (parted x) = { parted x with form := { (parted x).form with
      record := { epoch := x.form.record.epoch, units := [ownEntryNow x], ownIndex := 1 } } } := by
    rw [recordAlone, ownAlone_parted]
    rfl
  have hparting : ownTalliesOnly (recordAlone (parted x)) = parting x := by
    rw [halone]
    rfl
  have hseparate : separate x = recordEffects (ownOrientation x) (ownTalliesOnly (recordAlone (parted x))) := rfl
  rw [hseparate, hparting]

theorem separate_form (x : Part) :
    (separate x).form = { separated x with trainTally := (separate x).form.trainTally } := by
  have hothers : hasOthers (parting x) = false := rfl
  have h := recordEffects_form (ownOrientation x) (parting x)
  rw [← separate_def, renewed, hothers] at h
  exact h

theorem separate_foreign {v : Slot} {u : Nat} (hi : i < 4) (hv : slotAt x.panel l i = some v) (ho : v.origin = some u)
    (hu : u ≠ x.unit.unitId) : slotAt (separate x).panel l i = none := by
  rw [separate_def]
  refine recordEffects_foreign (x := parting x) _ hi hv ho fun a ha => ?_
  obtain rfl : a = ownEntryNow x := List.mem_singleton.mp ha
  exact fun heq => hu heq.symm

end Sys2Proof.Proofs.EpochChange
end

section
/-! Closing a roll call, and the FORMATION that lists its followers. -/
namespace Sys2Proof.Proofs.EpochChange
open Sys2Proof Sys2Proof.Machine Effects Requests Owners Events OwnEntries Rendering Journey Driver Slots Notices Coupler Turn Received
  ForwardEnds TrainTally

variable {s : State} {c : Instr} {x y z : Part} {l : NoticeLevel} {i : Nat} {answers : List RollAnswerFrame} {f g : RollAnswerFrame}
  {units : List UnitEntry} {ep : Nat}

/-! ### The roll call closed -/

/-- What a roll call that starts leaves of a part that leads. -/
theorem startRollCall_leaves (h : aloneRole x.form.role = false) :
    (startRollCall x).form.record = x.form.record ∧ (startRollCall x).form.forwards = x.form.forwards ∧
      (startRollCall x).form.late = x.form.late ∧ (startRollCall x).form.queue = x.form.queue ∧
      (startRollCall x).host = x.host ∧ ∃ k, (startRollCall x).out.line = x.out.line ++ k := by
  cases he : x.form.qualEnd with
  | none =>
    rw [startRollCall_none he]
    exact ⟨rfl, rfl, rfl, rfl, rfl, [], (List.append_nil _).symm⟩
  | some e =>
    rw [startRollCall_some he, rollCallFrom_held h]
    exact ⟨rfl, rfl, rfl, rfl, rfl, _, rfl⟩

/-- The FORMATION frame a roll call closes with. -/
def formationFrame (answers : List RollAnswerFrame) (x : Part) : LineFrame :=
  .formation x.unit.unitId (rollRecord x answers).epoch (rollRecord x answers).units

/-- The part that has sent its FORMATION. -/
def formationSent (answers : List RollAnswerFrame) (x : Part) : Part :=
  { x with form := { x.form with drive := { a := false, b := false } }
           out := { x.out with line := x.out.line ++ [formationFrame answers x] } }

/-- The part that has taken the record of its roll call. -/
def newLeader (answers : List RollAnswerFrame) (x : Part) : Part :=
  startAbsence (takeRecord (rollRecord x answers) .leading (formationSent answers x))

theorem closeRollCall_def (answers : List RollAnswerFrame) (x : Part) : closeRollCall answers x =
    if x.form.rollAgain then startRollCall (newLeader answers x) else newLeader answers x := rfl

theorem hasOthers_first {r : FormRecord} {u : UnitEntry} {us : List UnitEntry} (hrole : aloneRole x.form.role = false)
    (hr : x.form.record = r) (hunits : r.units = u :: us) (hown : r.ownIndex = 1) : hasOthers x = !us.isEmpty := by
  rw [hasOthers, otherUnits, inForce_of_held hrole, hr, hunits, hown]
  rfl

theorem takeRecord_params (r : FormRecord) (role : Role) (x : Part) : (takeRecord r role x).host.params = x.host.params :=
  params_of_keeps takeRecord_keeps (by decide)

theorem takeRecord_line (r : FormRecord) (role : Role) (x : Part) : (takeRecord r role x).out.line = x.out.line :=
  takeRecord_keeps.all .line (by decide)

/-- The formation of a part that has closed its roll call. -/
def ledAnew (answers : List RollAnswerFrame) (x : Part) (tallies : List TallyEntry) : Formation :=
  { recordTaken (rollRecord x answers) .leading x.form with
    drive := { a := false, b := false }, forwards := [], late := [], queue := if answers = [] then [] else [.tally]
    trainTally := tallies, absence := answers.map fun f => (f.unitId, x.host.params.holdLimit) }

theorem newLeader_form (answers : List RollAnswerFrame) (x : Part) : ∃ tallies, (newLeader answers x).form = ledAnew answers x tallies := by
  have hothers : hasOthers (taking (rollRecord x answers) .leading (formationSent answers x)) = !(answers.map entryOf).isEmpty :=
    hasOthers_first (r := rollRecord x answers) rfl rfl rfl rfl
  have hqueue : (if hasOthers (taking (rollRecord x answers) .leading (formationSent answers x)) then [LineItem.tally] else []) =
      if answers = [] then [] else [.tally] := by
    rw [hothers]
    cases answers <;> rfl
  have hform := takeRecord_form (rollRecord x answers) .leading (formationSent answers x)
  have hparams := takeRecord_params (rollRecord x answers) .leading (formationSent answers x)
  rw [renewed, hqueue] at hform
  refine ⟨(takeRecord (rollRecord x answers) .leading (formationSent answers x)).form.trainTally, ?_⟩
  have hnew : (newLeader answers x).form = { (takeRecord (rollRecord x answers) .leading (formationSent answers x)).form with
      absence := (listed (takeRecord (rollRecord x answers) .leading (formationSent answers x)).form.record).map fun u =>
        (u, (takeRecord (rollRecord x answers) .leading (formationSent answers x)).host.params.holdLimit) } := rfl
  have hlisted : (listed (rollRecord x answers)).map (fun u => (u, x.host.params.holdLimit)) =
      answers.map fun f => (f.unitId, x.host.params.holdLimit) := by
    rw [listed, List.map_map, rollRecord, List.tail_cons, List.map_map]
    rfl
  have hrecord : (takeRecord (rollRecord x answers) .leading (formationSent answers x)).form.record = rollRecord x answers :=
    (congrArg Formation.record hform :)
  have hlimit : (formationSent answers x).host.params.holdLimit = x.host.params.holdLimit := rfl
  rw [hnew, hrecord, hparams, hlimit, hlisted, hform]
  rfl

theorem newLeader_eq (answers : List RollAnswerFrame) (x : Part) : newLeader answers x =
    { takeRecord (rollRecord x answers) .leading (formationSent answers x) with form := (newLeader answers x).form } := rfl

theorem newLeader_latched (answers : List RollAnswerFrame) (x : Part) : (newLeader answers x).host.latched.getLsbD 1 = true :=
  takeRecord_latched (rollRecord x answers) .leading (formationSent answers x)

theorem newLeader_line (answers : List RollAnswerFrame) (x : Part) :
    (newLeader answers x).out.line = x.out.line ++ [formationFrame answers x] := by
  rw [newLeader_eq]
  dsimp only
  rw [takeRecord_line]
  rfl

theorem rollRecord_eq (answers : List RollAnswerFrame) (x : Part) : rollRecord x answers =
    { epoch := (x.form.record.epoch + 1) % 256
      units := ownEntryNow x :: answers.map fun f =>
        { unitId := f.unitId, orientation := if f.front = .a then .forward else .reversed, booked := f.booked
          portion := f.portion, route := f.route }
      ownIndex := 1 } := by
  have hentry : entryOf = fun f : RollAnswerFrame =>
      { unitId := f.unitId, orientation := if f.front = .a then .forward else .reversed, booked := f.booked
        portion := f.portion, route := f.route } := by
    funext f
    unfold entryOf
    cases f.front <;> rfl
  rw [rollRecord, ownEntry_eq, hentry]

/-- The part at the end of a roll call that leads, before the step's end. -/
theorem closed_of_close (hline : x.out.line = []) (hx : x = quiet s.part) {t : State}
    (ht : t.part = finish (closeRollCall answers x)) : RollCallClosed s t answers := by
  obtain ⟨tallies, hform⟩ := newLeader_form answers x
  have hheld : aloneRole (newLeader answers x).form.role = false := by rw [hform]; rfl
  obtain ⟨hrecord, hforwards, hlate, hqueue, hhost, k, hk⟩ := startRollCall_leaves hheld
  have hnewLine : (newLeader answers x).out.line = [formationFrame answers x] := by rw [newLeader_line, hline, List.nil_append]
  have hboth : t.part.form.record = rollRecord x answers ∧ t.part.form.forwards = [] ∧ t.part.form.late = [] ∧
      t.part.form.queue = (if answers = [] then [] else [.tally]) ∧ t.part.host.latched.getLsbD 1 = true ∧
      t.part.out.line.head? = some (formationFrame answers x) := by
    rw [ht, finish_form, finish_latched, finish_line, closeRollCall_def]
    by_cases hagain : x.form.rollAgain = true
    · rw [if_pos hagain, hrecord, hforwards, hlate, hqueue, hhost, hk, hnewLine, hform]
      exact ⟨rfl, rfl, rfl, rfl, newLeader_latched answers x, rfl⟩
    · rw [if_neg hagain, hnewLine, hform]
      exact ⟨rfl, rfl, rfl, rfl, newLeader_latched answers x, rfl⟩
  obtain ⟨h1, h2, h3, h4, h5, h6⟩ := hboth
  have heqRecord := rollRecord_eq answers x
  rw [formationFrame, heqRecord] at h6
  rw [heqRecord] at h1
  subst hx
  refine ⟨h1, h6, h5, h2, h3, h4, fun hagain => ?_, fun hagain hend => ?_⟩
  · have hclosed : closeRollCall answers (quiet s.part) = newLeader answers (quiet s.part) := by
      rw [closeRollCall_def]
      exact if_neg (by simp [hagain])
    rw [ht, finish_form, hclosed, hform]
    exact ⟨rfl, rfl, rfl, rfl⟩
  · obtain ⟨e, he⟩ := Option.ne_none_iff_exists'.mp hend
    have hclosed : closeRollCall answers (quiet s.part) = startRollCall (newLeader answers (quiet s.part)) := by
      rw [closeRollCall_def]
      exact if_pos hagain
    have he' : (newLeader answers (quiet s.part)).form.qualEnd = some e := by
      rw [hform]
      exact he
    rw [ht, finish_form, hclosed, startRollCall_some he', rollCallFrom_held hheld]
    exact ⟨rfl, rfl⟩

theorem step_of_close (hrun : s.part.supply.mode = .run) {h : Part → Part} (hc : effect c (quiet s.part) = inRun h (quiet s.part))
    (heq : h (quiet s.part) = closeRollCall answers (quiet s.part)) :
    ∃ t, exec c s = .next t ∧ Only [.host, .text, .source, .form, .tallies, .seat, .panel, .disp, .events, .line] s t ∧
      RollCallClosed s t answers := by
  obtain ⟨t, hexec, rfl, honly⟩ := step_in_run
    (L := [.host, .text, .source, .form, .tallies, .seat, .panel, .disp, .events, .line]) hrun hc
    (by rw [heq]; exact Keeps.step closeRollCall_keeps rfl .refl)
  exact ⟨_, hexec, honly, closed_of_close (x := quiet s.part) rfl rfl (congrArg finish heq)⟩

theorem hearAnswer_leader {k : List RollAnswerFrame} (hrole : x.form.role = .formingLeader) (hk : x.form.rollCall = some k) :
    hearAnswer f x = if 2 ≤ (collect f k).length then closeRollCall (collect f k) x
      else { x with form := { x.form with rollCall := some (collect f k) } } := by
  unfold hearAnswer
  rw [hrole, hk]
  rfl

theorem step_of_collected {k : List RollAnswerFrame} (hrun : s.part.supply.mode = .run) (hrole : s.part.form.role = .formingLeader)
    (hk : s.part.form.rollCall = some k) (hcollect : collect f k = [f]) :
    ∃ t, exec (.rollAnswer f) s = .next t ∧ Only [.form] s t ∧ t.part.form = { s.part.form with rollCall := some [f] } := by
  have heq : hearAnswer f (quiet s.part) = { quiet s.part with form := { s.part.form with rollCall := some [f] } } := by
    rw [hearAnswer_leader (x := quiet s.part) hrole hk, hcollect]
    rfl
  obtain ⟨t, hexec, rfl, honly⟩ := step_in_run (L := [.form]) (c := .rollAnswer f) (f := hearAnswer f) hrun rfl
    (by rw [heq]; exact form_keeps (x := quiet s.part) rfl rfl rfl Iff.rfl)
  exact ⟨_, hexec, honly, by rw [finish_form, heq]⟩

theorem collect_other (h : g.position ≠ f.position) : collect f [g] = if g.position < f.position then [g, f] else [f, g] := by
  have hkept : ([g].filter fun a => a.position != f.position) = [g] := by simp [h]
  rw [collect, hkept]
  by_cases hlt : g.position < f.position
  · have hge : ¬ f.position < g.position := by omega
    simp [insertBy, hlt, hge]
  · have hlt' : f.position < g.position := by omega
    simp [insertBy, hlt, hlt']

/-! ### A FORMATION heard -/

theorem indexOf_some {u : Nat} (h : ∃ a ∈ units, a.unitId = u) : ∃ k, indexOf u units = some (k + 1) ∧
    (units[k]?).map (·.unitId) = some u := by
  cases hfind : units.findIdx? fun a => a.unitId == u with
  | none =>
    obtain ⟨a, ha, rfl⟩ := h
    have hne : (a.unitId == a.unitId) = false := List.findIdx?_eq_none_iff.mp hfind a ha
    exact absurd hne (by simp)
  | some k =>
    obtain ⟨hlt, hk, -⟩ := List.findIdx?_eq_some_iff_getElem.mp hfind
    exact ⟨k, by rw [indexOf, hfind]; rfl, by rw [List.getElem?_eq_getElem hlt]; simpa using hk⟩

theorem indexOf_none {u : Nat} (h : ∀ a ∈ units, a.unitId ≠ u) : indexOf u units = none := by
  have hfind : (units.findIdx? fun a => a.unitId == u) = none := List.findIdx?_eq_none_iff.mpr fun a ha => by simpa using h a ha
  rw [indexOf, hfind]
  rfl

/-- A follower that has left the roll call. -/
def calledOff (x : Part) : Part :=
  { x with form := { x.form with waiting := false, rollFront := none, heardAnswers := 0, drive := { a := false, b := false } } }

theorem calledOff_keeps (x : Part) : Keeps [.form] x (calledOff x) := form_keeps rfl rfl rfl Iff.rfl

theorem hearFormation_follower {leader : Nat} (hrole : x.form.role = .formingFollower) :
    hearFormation leader ep units x = takeFormation ep units x := by
  have hlead : leads x.form.role = false := by rw [hrole]; rfl
  rw [hearFormation, if_neg (by simp [hlead]), if_pos (by simp [hrole])]

/-- The record of a FORMATION at the part that stands at an index of its list. -/
def listedAt (ep : Nat) (units : List UnitEntry) (k : Nat) : FormRecord := { epoch := ep, units := units, ownIndex := k + 1 }

theorem takeFormation_listed {k : Nat} (h : indexOf x.unit.unitId units = some (k + 1)) : takeFormation ep units x =
    restartLoss (takeRecord (listedAt ep units k) .following (calledOff x)) := by
  unfold takeFormation
  rw [h]
  rfl

theorem takeFormation_unlisted (h : indexOf x.unit.unitId units = none) :
    takeFormation ep units x = latch .detached (separate (calledOff x)) := by
  unfold takeFormation
  rw [h]
  rfl

/-- The formation of a follower that a FORMATION lists. -/
def followed (ep : Nat) (units : List UnitEntry) (k : Nat) (x : Part) (tallies : List TallyEntry) : Formation :=
  { recordTaken (listedAt ep units k) .following (calledOff x).form with
    forwards := [], late := [], queue := if 2 ≤ units.length then [.tally] else [], trainTally := tallies
    beaconLoss := some (x.host.params.holdLimit + 2) }

theorem hasOthers_listed {k : Nat} (hk : k < units.length) :
    hasOthers (taking (listedAt ep units k) .following (calledOff x)) = decide (2 ≤ units.length) := by
  have hothers : hasOthers (taking (listedAt ep units k) .following (calledOff x)) = !(units.eraseIdx k).isEmpty := rfl
  have hlen := List.length_eraseIdx_of_lt hk
  rw [hothers]
  by_cases h2 : 2 ≤ units.length
  · have hne : units.eraseIdx k ≠ [] := fun hnil => by
      rw [hnil, List.length_nil] at hlen
      omega
    simp [h2, hne]
  · have hnil : units.eraseIdx k = [] := List.eq_nil_of_length_eq_zero (by omega)
    simp [h2, hnil]

theorem followed_form {k : Nat} (hk : k < units.length) : ∃ tallies,
    (restartLoss (takeRecord (listedAt ep units k) .following (calledOff x))).form = followed ep units k x tallies := by
  have hform := takeRecord_form (listedAt ep units k) .following (calledOff x)
  have hloss : lossTime (takeRecord (listedAt ep units k) .following (calledOff x)) = x.host.params.holdLimit + 2 := by
    rw [lossTime, takeRecord_params]
    rfl
  rw [renewed, hasOthers_listed hk] at hform
  simp only [decide_eq_true_eq] at hform
  refine ⟨(takeRecord (listedAt ep units k) .following (calledOff x)).form.trainTally, ?_⟩
  rw [restartLoss, hloss, onForm]
  dsimp only
  rw [hform]
  rfl

/-- A follower that a FORMATION lists. -/
theorem step_of_listed {leader : Nat} (hrun : s.part.supply.mode = .run) (hrole : s.part.form.role = .formingFollower)
    (hlisted : ∃ u ∈ units, u.unitId = s.part.unit.unitId) :
    ∃ t k tallies, exec (.formation leader ep units) s = .next t ∧
      Only [.host, .text, .source, .form, .tallies, .seat, .panel, .disp, .events] s t ∧
      (units[k]?).map (·.unitId) = some s.part.unit.unitId ∧ t.part.form = followed ep units k (quiet s.part) tallies ∧
      t.part.host.latched.getLsbD 1 = true ∧
      ∀ l i x o, i < 4 → slotAt s.part.panel l i = some x → x.origin = some o → (∀ u ∈ units, u.unitId ≠ o) →
        slotAt t.part.panel l i = none := by
  obtain ⟨k, hindex, hown⟩ := indexOf_some hlisted
  have hk : k < units.length := by
    by_contra hge
    rw [List.getElem?_eq_none (by omega)] at hown
    exact absurd hown nofun
  have heq : hearFormation leader ep units (quiet s.part) =
      restartLoss (takeRecord (listedAt ep units k) .following (calledOff (quiet s.part))) :=
    (hearFormation_follower (x := quiet s.part) hrole).trans (takeFormation_listed (x := quiet s.part) hindex)
  obtain ⟨tallies, hform⟩ := followed_form (ep := ep) (x := quiet s.part) hk
  obtain ⟨t, hexec, rfl, honly⟩ := step_in_run (L := [.host, .text, .source, .form, .tallies, .seat, .panel, .disp, .events])
    (c := .formation leader ep units) (f := hearFormation leader ep units) hrun rfl
    (by rw [heq]; exact Keeps.step restartLoss_keeps rfl (Keeps.step takeRecord_keeps rfl
          (Keeps.step (calledOff_keeps (quiet s.part)) rfl .refl)))
  refine ⟨_, k, tallies, hexec, honly, hown, ?_, ?_, fun l i v o hi hv ho hu => ?_⟩
  · rw [finish_form, heq, hform]
  · rw [finish_latched, heq]
    exact takeRecord_latched (listedAt ep units k) .following (calledOff (quiet s.part))
  · rw [finish_panel, heq]
    exact takeRecord_foreign (x := calledOff (quiet s.part)) (listedAt ep units k) .following hi hv ho hu

/-- A follower that a FORMATION does not list. -/
theorem step_of_unlisted {leader : Nat} (hrun : s.part.supply.mode = .run) (hrole : s.part.form.role = .formingFollower)
    (hunlisted : ∀ u ∈ units, u.unitId ≠ s.part.unit.unitId) :
    ∃ t, exec (.formation leader ep units) s = .next t ∧
      Only [.host, .text, .source, .form, .tallies, .seat, .panel, .disp, .events] s t ∧
      t.part.form.forwards = [] ∧ t.part.form.late = [] ∧ t.part.form.waiting = false ∧
      t.part.form.drive = { a := false, b := false } ∧
      t.part.form.role = .standalone ∧ t.part.form.queue = [] ∧ t.part.host.latched.getLsbD 3 = true ∧
      (∀ l i x o, i < 4 → slotAt s.part.panel l i = some x → x.origin = some o → o ≠ s.part.unit.unitId →
        slotAt t.part.panel l i = none) ∧
      t.part.form.record = { epoch := s.part.form.record.epoch, units := [ownEntryNow s.part], ownIndex := 1 } := by
  have heq : hearFormation leader ep units (quiet s.part) = latch .detached (separate (calledOff (quiet s.part))) :=
    (hearFormation_follower (x := quiet s.part) hrole).trans (takeFormation_unlisted (x := quiet s.part) (indexOf_none hunlisted))
  have hform := separate_form (calledOff (quiet s.part))
  obtain ⟨t, hexec, rfl, honly⟩ := step_in_run (L := [.host, .text, .source, .form, .tallies, .seat, .panel, .disp, .events])
    (c := .formation leader ep units) (f := hearFormation leader ep units) hrun rfl
    (by rw [heq]; exact Keeps.step latch_keeps rfl (Keeps.step separate_keeps rfl
          (Keeps.step (calledOff_keeps (quiet s.part)) rfl .refl)))
  refine ⟨_, hexec, honly, ?_⟩
  have hlatched : (finish (hearFormation leader ep units (quiet s.part))).host.latched.getLsbD 3 = true := by
    rw [finish_latched, heq]
    exact latched_of_latch (.inr (by decide))
  have hfinal : (finish (hearFormation leader ep units (quiet s.part))).form =
      { separated (calledOff (quiet s.part)) with trainTally := (separate (calledOff (quiet s.part))).form.trainTally } := by
    rw [finish_form, heq, latch_form]
    exact hform
  dsimp only
  rw [hfinal]
  refine ⟨rfl, rfl, rfl, rfl, rfl, rfl, hlatched, fun l i v o hi hv ho hu => ?_, rfl⟩
  rw [finish_panel, heq, latch_eq]
  exact separate_foreign (x := calledOff (quiet s.part)) hi hv ho hu

/-- Settles O32: the leader's side by what the answers collect to, the follower's by whether it is listed. -/
theorem aRollCallClosesInAFormation : Obligations.ARollCallClosesInAFormation := by
  refine ⟨fun s f hrun hrole => ⟨fun hk => step_of_collected hrun hrole hk rfl, fun g hk hsame => ?replaced, fun g hk hne => ?second⟩,
    fun s k hrun hrole hk => ?silence, fun s leader ep units hrun hrole => ?formation⟩
  case replaced => exact step_of_collected hrun hrole hk (by simp [collect, hsame, insertBy])
  case second =>
    have hlen : 2 ≤ (collect f [g]).length := by
      rw [collect_other hne]
      split <;> exact Nat.le_refl 2
    rw [← collect_other hne]
    exact step_of_close (h := hearAnswer f) hrun rfl ((hearAnswer_leader (x := quiet s.part) hrole hk).trans (if_pos hlen))
  case silence =>
    refine step_of_close (h := rollSilence) hrun rfl ?_
    have hrole' : (quiet s.part).form.role = .formingLeader := hrole
    have hk' : (quiet s.part).form.rollCall = some k := hk
    unfold rollSilence
    rw [hrole', hk']
  case formation =>
    by_cases hlisted : ∃ u ∈ units, u.unitId = s.part.unit.unitId
    · obtain ⟨t, k, tallies, hexec, honly, hown, hform, hlatched, hslots⟩ :=
        step_of_listed (leader := leader) (ep := ep) hrun hrole hlisted
      refine ⟨t, hexec, honly, ?_⟩
      rw [hform]
      refine ⟨rfl, rfl, rfl, rfl, fun _ => ⟨rfl, rfl, rfl, Nat.le_add_left 1 k, hown, rfl, hlatched, hslots, rfl⟩, fun hnone => ?_⟩
      obtain ⟨u, hu, heq⟩ := hlisted
      exact absurd heq (hnone u hu)
    · have hunlisted : ∀ u ∈ units, u.unitId ≠ s.part.unit.unitId := fun u hu heq => hlisted ⟨u, hu, heq⟩
      obtain ⟨t, hexec, honly, h1, h2, h3, h4, hrest⟩ := step_of_unlisted (leader := leader) (ep := ep) hrun hrole hunlisted
      exact ⟨t, hexec, honly, h1, h2, h3, h4, fun hsome => absurd hsome hlisted, fun _ => hrest⟩

end Sys2Proof.Proofs.EpochChange
end

section
/-! The unit-end inputs: debounce, coupling event, qualifying end. -/
namespace Sys2Proof.Proofs.UnitEnds
open Sys2Proof Sys2Proof.Machine Effects Requests Owners Events OwnEntries Rendering Journey Driver Slots Notices Coupler Turn Received
  ForwardEnds TrainTally EpochChange

variable {s : State} {c : Instr} {x y z : Part} {e : UnitEnd}

/-! ### The qualifying end -/

/-- The formation with its qualifying end as senses and debounced states give it. -/
def requalified (f : Formation) : Formation := { f with qualEnd := qualifyingEnd f }

/-- The part with its qualifying end set. -/
def requalify (x : Part) : Part := { x with form := requalified x.form }

theorem evalQualEnd_unchanged (h : qualifyingEnd x.form = x.form.qualEnd) : evalQualEnd x = requalify x := by
  have hsame : requalified x.form = x.form := by rw [requalified, h]
  rw [evalQualEnd, if_pos (by simp [h]), requalify, hsame]

theorem evalQualEnd_changed (h : qualifyingEnd x.form ≠ x.form.qualEnd) : evalQualEnd x =
    if leads x.form.role then (if (qualifyingEnd x.form).isNone then yieldLead (requalify x) else requalify x)
    else if aloneRole x.form.role then
      formationChanged (ownOrientation x) (if x.form.role == .standalone then recordAlone (requalify x) else requalify x)
    else requalify x := by
  rw [evalQualEnd, if_neg (by simpa using h)]
  rfl

/-- A leader that keeps a qualifying end goes on. -/
theorem evalQualEnd_leads (h : leads x.form.role = true) (hq : qualifyingEnd x.form ≠ none) : evalQualEnd x = requalify x := by
  by_cases hsame : qualifyingEnd x.form = x.form.qualEnd
  · exact evalQualEnd_unchanged hsame
  · rw [evalQualEnd_changed hsame, if_pos h, if_neg (by simpa using hq)]

/-- A leader that loses its qualifying end yields. -/
theorem evalQualEnd_yields (h : leads x.form.role = true) (hq : qualifyingEnd x.form = none) (hx : x.form.qualEnd ≠ none) :
    evalQualEnd x = yieldLead (requalify x) := by
  rw [evalQualEnd_changed (by rw [hq]; exact hx.symm), if_pos h, if_pos (by simp [hq])]

/-- A part in a formation of others that does not lead hands nothing on. -/
theorem evalQualEnd_follows (h1 : leads x.form.role = false) (h2 : aloneRole x.form.role = false) :
    evalQualEnd x = requalify x := by
  by_cases hsame : qualifyingEnd x.form = x.form.qualEnd
  · exact evalQualEnd_unchanged hsame
  · rw [evalQualEnd_changed hsame, if_neg (by simp [h1]), if_neg (by simp [h2])]

/-- A part alone keeps its epoch. -/
theorem evalQualEnd_alone (h : aloneRole x.form.role = true) : ∃ r k, (evalQualEnd x).form =
    { requalified x.form with record := r, trainTally := k } ∧ r.epoch = x.form.record.epoch := by
  by_cases hsame : qualifyingEnd x.form = x.form.qualEnd
  · rw [evalQualEnd_unchanged hsame]
    exact ⟨_, _, rfl, rfl⟩
  · have hlead : leads x.form.role = false := Bool.eq_false_iff.mpr fun hl => by
      rw [alone_of_leads hl] at h
      exact absurd h nofun
    rw [evalQualEnd_changed hsame, if_neg (by simp [hlead]), if_pos h]
    split
    · rw [formationChanged_form, recordAlone, ownAlone_eq]
      exact ⟨_, _, rfl, rfl⟩
    · rw [formationChanged_form]
      exact ⟨_, _, rfl, rfl⟩

/-- What the evaluation of the qualifying end leaves, and the role it gives. -/
structure Requalified (g f : Formation) : Prop where
  coupled : f.coupled = g.coupled ∧ f.debounce = g.debounce ∧ f.cab = g.cab
  qualEnd : f.qualEnd = qualifyingEnd g
  epoch : f.record.epoch = g.record.epoch
  record : leads g.role = true → f.record = g.record
  role : f.role = if leads g.role = true ∧ qualifyingEnd g = none ∧ g.qualEnd ≠ none then .formingFollower
    else g.role

theorem requalified_eval (x : Part) : Requalified x.form (evalQualEnd x).form := by
  by_cases hlead : leads x.form.role = true
  · by_cases hq : qualifyingEnd x.form = none
    · by_cases hx : x.form.qualEnd = none
      · rw [evalQualEnd_unchanged (hq.trans hx.symm)]
        exact ⟨⟨rfl, rfl, rfl⟩, rfl, rfl, fun _ => rfl, (if_neg fun h => h.2.2 hx).symm⟩
      · rw [evalQualEnd_yields hlead hq hx, yieldLead_eq (by exact hlead)]
        exact ⟨⟨rfl, rfl, rfl⟩, rfl, rfl, fun _ => rfl, (if_pos ⟨hlead, hq, hx⟩).symm⟩
    · rw [evalQualEnd_leads hlead hq]
      exact ⟨⟨rfl, rfl, rfl⟩, rfl, rfl, fun _ => rfl, (if_neg fun h => hq h.2.1).symm⟩
  · by_cases halone : aloneRole x.form.role = true
    · obtain ⟨r, k, hform, hep⟩ := evalQualEnd_alone halone
      rw [hform]
      exact ⟨⟨rfl, rfl, rfl⟩, rfl, hep, fun h => absurd h hlead, (if_neg fun h => hlead h.1).symm⟩
    · rw [evalQualEnd_follows (by simpa using hlead) (by simpa using halone)]
      exact ⟨⟨rfl, rfl, rfl⟩, rfl, rfl, fun _ => rfl, (if_neg fun h => hlead h.1).symm⟩

theorem qualifyingEnd_eq (f : Formation) : qualifyingEnd f =
    if f.cab.a = true ∧ f.coupled.a = false then some .a
    else if f.cab.b = true ∧ f.coupled.b = false then some .b else none := by
  simp only [qualifyingEnd, Bool.and_eq_true, Bool.not_eq_true']

theorem step_of_cab {a : Bool} (hrun : s.part.supply.mode = .run) :
    ∃ t, exec (.cabActiveChange e a) s = .next t ∧ Only [.source, .form, .tallies, .seat, .panel, .disp] s t ∧
      Requalified { s.part.form with cab := s.part.form.cab.set e a } t.part.form := by
  have hrun' : isRun (onForm (fun f => { f with cab := f.cab.set e a }) (quiet s.part)) = true := isRun_quiet hrun
  have heffect : effect (.cabActiveChange e a) (quiet s.part) =
      evalQualEnd (onForm (fun f => { f with cab := f.cab.set e a }) (quiet s.part)) := inRun_eq hrun'
  obtain ⟨t, hexec, rfl, honly⟩ := step_of_effect (L := [.source, .form, .tallies, .seat, .panel, .disp]) heffect
    (Keeps.step evalQualEnd_keeps rfl (Keeps.step (M := [.form]) (onFormBut_keeps rfl rfl rfl Iff.rfl) rfl .refl))
  refine ⟨_, hexec, honly, ?_⟩
  rw [finish_form]
  exact requalified_eval (onForm (fun f => { f with cab := f.cab.set e a }) (quiet s.part))

/-! ### The debounce -/

theorem ends_set_get {α : Type} (e : UnitEnd) (v : Ends α) : v.set e (v.get e) = v := by cases e <;> rfl

theorem step_of_sense {a : Bool} (hrun : s.part.supply.mode = .run) :
    ∃ t, exec (.coupledSenseChange e a) s = .next t ∧ Only [.form] s t ∧
      t.part.form = { s.part.form with
        coupledRaw := s.part.form.coupledRaw.set e a
        debounce := if s.part.form.coupledRaw.get e = a then s.part.form.debounce
                    else s.part.form.debounce.set e
                      (if s.part.form.coupled.get e = a then none else some (500 * 2 ^ s.part.host.params.debounce)) } := by
  have heffect : effect (.coupledSenseChange e a) (quiet s.part) = senseChanges e a (quiet s.part) := rfl
  obtain ⟨t, hexec, rfl, honly⟩ := step_of_effect (L := [.form]) heffect senseChanges_keeps
  refine ⟨_, hexec, honly, ?_⟩
  rw [finish_form]
  by_cases hsame : s.part.form.coupledRaw.get e = a
  · have heq : senseChanges e a (quiet s.part) = quiet s.part := if_pos (by simpa using hsame)
    rw [heq, if_pos hsame, ← hsame, ends_set_get]
    rfl
  · have hrun' := isRun_quiet hrun
    have htime : (if isRun (quiet s.part) && (quiet s.part).form.coupled.get e != a then
          some (debounceMs (quiet s.part).host.params.debounce) else none) =
        if s.part.form.coupled.get e = a then none else some (500 * 2 ^ s.part.host.params.debounce) := by
      rw [hrun', Bool.true_and]
      by_cases hback : s.part.form.coupled.get e = a
      · rw [if_neg (by simpa using hback), if_pos hback]
      · rw [if_pos (by simpa using hback), if_neg hback]
        rfl
    have heq : senseChanges e a (quiet s.part) = onForm (fun f => { f with
        coupledRaw := f.coupledRaw.set e a
        debounce := f.debounce.set e (if isRun (quiet s.part) && (quiet s.part).form.coupled.get e != a then
          some (debounceMs (quiet s.part).host.params.debounce) else none) }) (quiet s.part) :=
      if_neg (by simpa using hsame)
    rw [heq, htime, if_neg hsame]
    rfl

/-! ### The coupling event -/

/-- The formation with the debounced state of an end as its sense is. -/
def debounced (e : UnitEnd) (f : Formation) : Formation :=
  { f with coupled := f.coupled.set e (f.coupledRaw.get e), debounce := f.debounce.set e none }

/-- The part with that end debounced. -/
def debouncedPart (e : UnitEnd) (x : Part) : Part := { x with form := debounced e x.form }

theorem couplingEvent_eq (hrun : isRun x = true) (he : (x.form.debounce.get e).isSome = true) :
    couplingEvent e x = couplingByRole (evalQualEnd (debouncedPart e x)) := by
  rw [couplingEvent, if_pos (by rw [hrun, he]; rfl)]
  rfl

theorem debouncedPart_keeps (e : UnitEnd) (x : Part) : Keeps [.form] x (debouncedPart e x) := form_keeps rfl rfl rfl Iff.rfl

/-- The role acts, and the senses stand. -/
theorem couplingByRole_coupled (x : Part) : (couplingByRole x).form.coupled = x.form.coupled ∧
    (couplingByRole x).form.debounce = x.form.debounce := by
  have hsep : (separate x).form.coupled = x.form.coupled ∧ (separate x).form.debounce = x.form.debounce := by
    rw [separate_form]
    exact ⟨rfl, rfl⟩
  unfold couplingByRole
  split
  · exact ⟨rfl, rfl⟩
  · exact ⟨rfl, rfl⟩
  · split
    · exact hsep
    · rw [onForm, queueItem_eq]
      exact ⟨rfl, rfl⟩
  · split
    · exact hsep
    · exact ⟨rfl, rfl⟩
  · split
    · exact hsep
    · exact ⟨rfl, rfl⟩
  · exact ⟨rfl, rfl⟩

theorem uncoupled_iff {f : Formation} : uncoupled f = true ↔ f.coupled.a = false ∧ f.coupled.b = false := by simp [uncoupled]

theorem not_uncoupled {f : Formation} (h : f.coupled.a = true ∨ f.coupled.b = true) : uncoupled f = false := by
  obtain h | h := h <;> simp [uncoupled, h]

theorem couplingByRole_separates (h : x.form.role = .following ∨ x.form.role = .formingFollower ∨ x.form.role = .isolated)
    (hu : uncoupled x.form = true) : couplingByRole x = separate x := by
  unfold couplingByRole
  obtain h | h | h := h <;> rw [h] <;> exact if_pos hu

/-- The coupling event as a step. -/
theorem step_of_coupling (hrun : s.part.supply.mode = .run) (he : (s.part.form.debounce.get e).isSome = true) :
    exec (.couplingEvent e) s =
      .next { s with part := finish (couplingByRole (evalQualEnd (debouncedPart e (quiet s.part)))) } ∧
    Only [.host, .text, .source, .form, .tallies, .seat, .panel, .disp] s
      { s with part := finish (couplingByRole (evalQualEnd (debouncedPart e (quiet s.part)))) } ∧
    ∀ f : Formation, couplingByRole (evalQualEnd (debouncedPart e (quiet s.part))) = { quiet s.part with form := f } →
      f.trainTally = s.part.form.trainTally → f.spacing = s.part.form.spacing → f.tallyPending = s.part.form.tallyPending →
      (LineItem.tally ∈ f.queue ↔ LineItem.tally ∈ s.part.form.queue) →
      Only [.form] s { s with part := finish (couplingByRole (evalQualEnd (debouncedPart e (quiet s.part)))) } ∧
        (finish (couplingByRole (evalQualEnd (debouncedPart e (quiet s.part))))).form = f := by
  have heffect : effect (.couplingEvent e) (quiet s.part) = couplingByRole (evalQualEnd (debouncedPart e (quiet s.part))) :=
    couplingEvent_eq (isRun_quiet hrun) he
  obtain ⟨t, hexec, rfl, honly⟩ := step_of_effect (L := [.host, .text, .source, .form, .tallies, .seat, .panel, .disp]) heffect
    (Keeps.step couplingByRole_keeps rfl (Keeps.step evalQualEnd_keeps rfl (Keeps.step (debouncedPart_keeps e (quiet s.part)) rfl .refl)))
  refine ⟨hexec, honly, fun f hf h1 h2 h3 h4 => ?_⟩
  obtain ⟨t, -, rfl, honly'⟩ := step_of_effect (L := [.form]) heffect (by rw [hf]; exact form_keeps (x := quiet s.part) h1 h2 h3 h4)
  exact ⟨honly', by rw [finish_form, hf]⟩

theorem coupling_follows (hrole : x.form.role = .following) (h : x.form.coupled.a = true ∨ x.form.coupled.b = true) :
    couplingByRole (evalQualEnd x) = { x with form := { requalified x.form with
      queue := if x.form.queue.length < 16 then x.form.queue ++ [.formationReq] else x.form.queue } } := by
  have hrole' : (requalify x).form.role = .following := hrole
  rw [evalQualEnd_follows (by rw [hrole]; rfl) (by rw [hrole]; rfl), couplingByRole, hrole']
  dsimp only
  rw [if_neg (by rw [show uncoupled (requalify x).form = false from not_uncoupled h]; exact Bool.false_ne_true), onForm, queueItem_eq]
  rfl

theorem coupling_leading (hrole : x.form.role = .leading) (hq : qualifyingEnd x.form ≠ none) :
    couplingByRole (evalQualEnd x) = { x with form := { requalified x.form with rollPending := true } } := by
  have hrole' : (requalify x).form.role = .leading := hrole
  rw [evalQualEnd_leads (by rw [hrole]; rfl) hq, couplingByRole, hrole']
  rfl

theorem coupling_formingLeader (hrole : x.form.role = .formingLeader) (hq : qualifyingEnd x.form ≠ none) :
    couplingByRole (evalQualEnd x) = { x with form := { requalified x.form with rollAgain := true } } := by
  have hrole' : (requalify x).form.role = .formingLeader := hrole
  rw [evalQualEnd_leads (by rw [hrole]; rfl) hq, couplingByRole, hrole']
  rfl

theorem coupling_yields (hrole : x.form.role = .leading ∨ x.form.role = .formingLeader) (hq : qualifyingEnd x.form = none)
    (hx : x.form.qualEnd ≠ none) (h : x.form.coupled.a = true ∨ x.form.coupled.b = true) :
    (couplingByRole (evalQualEnd x)).form = { quietLeader (requalified x.form) with
      role := .formingFollower, waiting := false, rollFront := none, heardAnswers := 0
      beaconLoss := some (x.host.params.holdLimit + 2) } := by
  rw [evalQualEnd_yields (leads_iff.mpr hrole) hq hx, yieldLead_eq (by exact leads_iff.mpr hrole)]
  have hstay : ∀ y : Part, y.form.role = .formingFollower → uncoupled y.form = false → couplingByRole y = y := by
    intro y hy hu
    unfold couplingByRole
    rw [hy]
    exact if_neg (by simp [hu])
  rw [hstay _ rfl (by exact not_uncoupled h)]
  rfl

theorem coupling_separates (hrole : x.form.role = .following ∨ x.form.role = .formingFollower ∨ x.form.role = .isolated)
    (ha : x.form.coupled.a = false) (hb : x.form.coupled.b = false) :
    (couplingByRole (evalQualEnd x)).form.role = .standalone ∧ (couplingByRole (evalQualEnd x)).form.queue = [] ∧
      (couplingByRole (evalQualEnd x)).form.forwards = [] ∧
      (couplingByRole (evalQualEnd x)).form.record.epoch = x.form.record.epoch ∧
      (couplingByRole (evalQualEnd x)).form.record.units.length = 1 := by
  obtain ⟨⟨hcoupled, -, -⟩, -, hepoch, -, hnew⟩ := requalified_eval x
  have hlead : leads x.form.role = false := by
    obtain h | h | h := hrole <;> rw [h] <;> rfl
  rw [if_neg (by simp [hlead])] at hnew
  have hsep := couplingByRole_separates (x := evalQualEnd x) (by rw [hnew]; exact hrole)
    (by rw [uncoupled_iff, hcoupled]; exact ⟨ha, hb⟩)
  rw [hsep, separate_form]
  exact ⟨rfl, rfl, rfl, hepoch, rfl⟩

/-- Settles O30: the sense, the end of the debounce by role, and the cab. -/
theorem sensesStartAndEndTheDebounce : Obligations.SensesStartAndEndTheDebounce := by
  refine fun s e hrun => ⟨fun a => step_of_sense hrun, fun he => ?coupling, fun a => ?cab⟩
  case coupling =>
    obtain ⟨hexec, honly, hform⟩ := step_of_coupling hrun he
    obtain ⟨hcoupled, hdebounce⟩ := couplingByRole_coupled (evalQualEnd (debouncedPart e (quiet s.part)))
    obtain ⟨⟨hc, hd, -⟩, -⟩ := requalified_eval (debouncedPart e (quiet s.part))
    refine ⟨_, hexec, ?_, ?_, honly, fun hrole h => ?_, fun hq hrole => ?_, fun hq hrole => ?_, fun hq hx hrole h => ?_,
      fun hrole ha hb => ?_⟩
    · rw [finish_form, hcoupled, hc]
      rfl
    · rw [finish_form, hdebounce, hd]
      rfl
    · refine hform _ (coupling_follows (x := debouncedPart e (quiet s.part)) hrole h) rfl rfl rfl ?_
      change _ ∈ (if s.part.form.queue.length < 16 then s.part.form.queue ++ [.formationReq] else s.part.form.queue) ↔ _
      split <;> simp
    · exact hform _ (coupling_leading (x := debouncedPart e (quiet s.part)) hrole hq) rfl rfl rfl Iff.rfl
    · exact hform _ (coupling_formingLeader (x := debouncedPart e (quiet s.part)) hrole hq) rfl rfl rfl Iff.rfl
    · rw [finish_form, coupling_yields (x := debouncedPart e (quiet s.part)) hrole hq hx h]
      exact ⟨rfl, rfl, rfl, rfl, rfl⟩
    · rw [finish_form]
      exact coupling_separates (x := debouncedPart e (quiet s.part)) hrole ha hb
  case cab =>
    obtain ⟨t, hexec, honly, ⟨⟨-, -, hcab⟩, hqual, -, hrecord, hrole⟩⟩ := step_of_cab (e := e) (a := a) hrun
    rw [qualifyingEnd_eq] at hqual hrole
    refine ⟨t, hexec, honly, hcab, hqual, fun h => hrecord (leads_iff.mpr h), ?_⟩
    rw [hrole]
    simp only [leads_iff]

end Sys2Proof.Proofs.UnitEnds
end

section
/-! A beacon at the parts of a train: followed, or answered with a mark. -/
namespace Sys2Proof.Proofs.Beacon
open Sys2Proof Sys2Proof.Machine Effects Requests Owners Events OwnEntries Rendering Journey Driver Slots Notices Coupler Turn Received
  ForwardEnds TrainTally EpochChange

variable {s : State} {x y z : Part} {f : BeaconFrame}

/-! ### Clock and source -/

/-- The route and progress with the clock of a beacon taken. -/
def clockTaken (f : BeaconFrame) (r : Route) : Route :=
  if f.clockSet = true ∧ f.clock ≠ r.clock then { r with clock := f.clock, clockSet := true, rangeLatched := false } else r

/-- The part with the clock of a beacon taken. -/
def takeClock (f : BeaconFrame) (x : Part) : Part :=
  if f.clockSet && f.clock != x.route.clock then writeClock f.clock x else x

theorem takeClock_route (f : BeaconFrame) (x : Part) : (takeClock f x).route = clockTaken f x.route := by
  unfold takeClock clockTaken
  by_cases h : f.clockSet = true ∧ f.clock ≠ x.route.clock
  · rw [if_pos h, if_pos (by simpa using h), writeClock_route]
  · rw [if_neg h, if_neg (by simpa using h)]

theorem takeClock_leaves (f : BeaconFrame) (x : Part) :
    Leaves [.route, .est, .tallies, .legs, .views, .seat, .panel, .disp, .events, .host] x (takeClock f x) := by
  unfold takeClock
  split
  · exact writeClock_leaves f.clock x
  · exact .refl x

theorem clockTaken_clock (f : BeaconFrame) (r : Route) :
    (f.clockSet = true → (clockTaken f r).clock = f.clock ∧ (f.clock ≠ r.clock → (clockTaken f r).clockSet = true)) ∧
      (f.clockSet = false → (clockTaken f r).clock = r.clock ∧ (clockTaken f r).clockSet = r.clockSet) := by
  unfold clockTaken
  by_cases h : f.clockSet = true ∧ f.clock ≠ r.clock
  · rw [if_pos h]
    exact ⟨fun _ => ⟨rfl, fun _ => rfl⟩, fun hf => absurd (hf.symm.trans h.1) nofun⟩
  · rw [if_neg h]
    refine ⟨fun hset => ?_, fun _ => ⟨rfl, rfl⟩⟩
    have hsame : f.clock = r.clock := not_not.mp fun hne => h ⟨hset, hne⟩
    exact ⟨hsame.symm, fun hne => absurd hsame hne⟩

/-- Taking the clock touches nothing else of Route and Progress. -/
theorem clockTaken_rest (f : BeaconFrame) (r : Route) : (clockTaken f r).prog = r.prog ∧ (clockTaken f r).stops = r.stops ∧
    (clockTaken f r).ownSeq = r.ownSeq ∧ (clockTaken f r).mismatchEpoch = r.mismatchEpoch ∧
      routeInForce (clockTaken f r) = routeInForce r := by
  unfold clockTaken
  split <;> exact ⟨rfl, rfl, rfl, rfl, rfl⟩

/-- The clock taken does not depend on the progress record. -/
theorem clockTaken_prog (f : BeaconFrame) (r : Route) (g : Progress) :
    (clockTaken f { r with prog := g }).clock = (clockTaken f r).clock ∧
      (clockTaken f { r with prog := g }).clockSet = (clockTaken f r).clockSet := by
  unfold clockTaken
  dsimp only
  split <;> exact ⟨rfl, rfl⟩

/-- The source that a beacon gives. -/
def beaconSource (f : BeaconFrame) (r : Route) : Source :=
  if routeInForce r ≠ 0 ∧ f.route = routeInForce r then .beacon else .own

/-- The route and progress with clock and source of a beacon taken. -/
def sourced (f : BeaconFrame) (r : Route) : Route :=
  { clockTaken f r with beaconRoute := some f.route, prog := { r.prog with source := beaconSource f r } }

/-- The part with clock and source of a beacon taken. -/
def takeSource (f : BeaconFrame) (x : Part) : Part :=
  evalSource { takeClock f x with route := { (takeClock f x).route with beaconRoute := some f.route } }

theorem followBeacon_def (f : BeaconFrame) (x : Part) : followBeacon f x =
    if (takeSource f x).route.prog.source == .beacon then applySnapshot f.snap (takeSource f x)
    else noteMismatch f (takeSource f x) := rfl

theorem takeSource_route (hrole : x.form.role = .following) : (takeSource f x).route = sourced f x.route := by
  obtain ⟨hprog, -, -, -, hforce⟩ := clockTaken_rest f x.route
  have hrole' : (takeClock f x).form.role = .following :=
    (role_of_keeps (takeClock_leaves f x).keeps (by decide)).trans hrole
  have hsource : sourceOf { takeClock f x with route := { (takeClock f x).route with beaconRoute := some f.route } } =
      beaconSource f x.route := by
    have hforce' : routeInForce { clockTaken f x.route with beaconRoute := some f.route } = routeInForce x.route := hforce
    unfold sourceOf beaconSource
    dsimp only
    rw [hrole', takeClock_route, hforce']
    by_cases h : routeInForce x.route ≠ 0 ∧ f.route = routeInForce x.route
    · rw [if_pos h, if_pos]
      obtain ⟨h1, h2⟩ := h
      simp [h2, bne_iff_ne.mpr h1]
    · rw [if_neg h, if_neg]
      intro hc
      simp only [Bool.and_eq_true, bne_iff_ne, beq_iff_eq, Option.some.injEq] at hc
      exact h ⟨hc.1.2, hc.2⟩
  rw [takeSource, evalSource, hsource]
  dsimp only
  rw [takeClock_route, hprog]
  rfl

theorem takeSource_keeps (f : BeaconFrame) (x : Part) :
    Keeps [.route, .source, .est, .tallies, .legs, .views, .seat, .panel, .disp, .events, .host] x (takeSource f x) :=
  Keeps.step evalSource_keeps rfl (Keeps.step route_keeps rfl (Keeps.step (takeClock_leaves f x).keeps rfl .refl))

/-! ### The snapshot -/

/-- The distance that a snapshot gives a train placed. -/
def followedDistance (stops : List StopRec) (k : Nat) (v : Snapshot) (y : Placed) : Option Nat :=
  if (y.state = .departed ∨ y.state = .approaching) ∧ v.n = y.n then v.d.map fun d => min d (lEff stops k y.p (y.n.getD 0)) else none

/-- The record of a train placed by a snapshot. -/
def snapshotRecord (r : Route) (k hysteresis : Nat) (v : Snapshot) (y : Placed) : Progress :=
  { state := match followedDistance r.stops k v y with
      | some d =>
        if r.prog.state = .approaching then
          (if approachOf r.stops (y.n.getD 0) + hysteresis < d then .departed else .approaching)
        else (if d ≤ approachOf r.stops (y.n.getD 0) then .approaching else .departed)
      | none => y.state
    p := some y.p, n := y.n, halt := y.halt, d := followedDistance r.stops k v y
    arr := if v.p = some y.p then v.arr else none
    dep := if v.p = some y.p then v.dep else none
    stale := v.stale, source := r.prog.source }

theorem followedRecord_eq (x : Part) (v : Snapshot) (y : Placed) :
    followedRecord x v y = snapshotRecord x.route x.unit.portionTag x.host.params.hysteresis v y := by
  have hd : (if running y.state && v.n == y.n then
      v.d.map fun d => min d (lEff x.route.stops x.unit.portionTag y.p (y.n.getD 0)) else none) =
      followedDistance x.route.stops x.unit.portionTag v y := by
    simp only [followedDistance, Bool.and_eq_true, running_iff, beq_iff_eq]
  unfold followedRecord
  dsimp only
  rw [hd, snapshotRecord]
  congr 1
  · cases followedDistance x.route.stops x.unit.portionTag v y with
    | none => rfl
    | some d =>
      simp only [runningState, beq_iff_eq]
  · simp only [beq_iff_eq]
  · simp only [beq_iff_eq]

theorem applySnapshot_prog (v : Snapshot) (x : Part) : (applySnapshot v x).route =
    match placeSnapshot x.route.ownSeq v with
    | some y => { x.route with prog := snapshotRecord x.route x.unit.portionTag x.host.params.hysteresis v y }
    | none => x.route := by
  unfold applySnapshot
  cases placeSnapshot x.route.ownSeq v with
  | none => rfl
  | some y =>
    dsimp only
    rw [followedRecord_eq]
    split
    · next h => rw [beq_iff_eq.mp h]
    · rw [handOff_route]
      rfl

theorem noteMismatch_route (f : BeaconFrame) (x : Part) : (noteMismatch f x).route.prog = x.route.prog ∧
    (noteMismatch f x).route.stops = x.route.stops ∧ (noteMismatch f x).route.ownSeq = x.route.ownSeq ∧
      (noteMismatch f x).route.clock = x.route.clock ∧ (noteMismatch f x).route.clockSet = x.route.clockSet := by
  unfold noteMismatch
  split
  · rw [latch_eq]
    exact ⟨rfl, rfl, rfl, rfl, rfl⟩
  · exact ⟨rfl, rfl, rfl, rfl, rfl⟩

theorem noteMismatch_latched (h1 : f.route ≠ routeInForce x.route) (h2 : x.route.mismatchEpoch ≠ some f.epoch) :
    (noteMismatch f x).host.latched.getLsbD 6 = true ∧ (noteMismatch f x).route.mismatchEpoch = some f.epoch := by
  rw [noteMismatch, if_pos (by simp [h1, h2])]
  exact ⟨latched_of_latch (.inr (by decide)), rfl⟩

/-- What following a beacon makes of Route and Progress. -/
structure Followed (f : BeaconFrame) (x y : Part) : Prop where
  stops : y.route.stops = x.route.stops ∧ y.route.ownSeq = x.route.ownSeq
  clock : y.route.clock = (clockTaken f x.route).clock ∧ y.route.clockSet = (clockTaken f x.route).clockSet
  source : y.route.prog.source = beaconSource f x.route
  own : beaconSource f x.route = .own → y.route.prog = { x.route.prog with source := .own } ∧
    (f.route ≠ routeInForce x.route → x.route.mismatchEpoch ≠ some f.epoch →
      y.host.latched.getLsbD 6 = true ∧ y.route.mismatchEpoch = some f.epoch)
  beacon : beaconSource f x.route = .beacon → y.route.prog = match placeSnapshot x.route.ownSeq f.snap with
    | some v => { snapshotRecord x.route x.unit.portionTag x.host.params.hysteresis f.snap v with source := .beacon }
    | none => { x.route.prog with source := .beacon }

theorem followBeacon_followed (hrole : x.form.role = .following) : Followed f x (followBeacon f x) := by
  have hroute := takeSource_route (f := f) hrole
  obtain ⟨-, hstops, hseq, hepoch, hforce⟩ := clockTaken_rest f x.route
  have hunit : (takeSource f x).unit = x.unit := unit_of_keeps (takeSource_keeps f x) (by decide)
  have hparams : (takeSource f x).host.params = x.host.params := params_of_keeps (takeSource_keeps f x) (by decide)
  have hsource : (takeSource f x).route.prog.source = beaconSource f x.route := by
    rw [hroute]
    rfl
  rw [followBeacon_def, hsource]
  cases hs : beaconSource f x.route with
  | own =>
    obtain ⟨hprog, hst, hsq, hcl, hset⟩ := noteMismatch_route f (takeSource f x)
    have hmis : f.route ≠ routeInForce x.route → x.route.mismatchEpoch ≠ some f.epoch →
        (noteMismatch f (takeSource f x)).host.latched.getLsbD 6 = true ∧
          (noteMismatch f (takeSource f x)).route.mismatchEpoch = some f.epoch := fun h1 h2 => by
      have hforce' : routeInForce (takeSource f x).route = routeInForce x.route := by
        rw [hroute]
        have hsrc : routeInForce (sourced f x.route) = routeInForce (clockTaken f x.route) := by
          rw [sourced, ← (clockTaken_rest f x.route).1]
          rfl
        exact hsrc.trans hforce
      have hepoch' : (takeSource f x).route.mismatchEpoch = x.route.mismatchEpoch := by
        rw [hroute]
        exact hepoch
      exact noteMismatch_latched (by rw [hforce']; exact h1) (by rw [hepoch']; exact h2)
    rw [if_neg (by decide)]
    refine ⟨⟨?_, ?_⟩, ⟨?_, ?_⟩, ?_, fun _ => ⟨?_, hmis⟩, fun h => absurd (hs.symm.trans h) nofun⟩
    · rw [hst, hroute]
      exact hstops
    · rw [hsq, hroute]
      exact hseq
    · rw [hcl, hroute]
      rfl
    · rw [hset, hroute]
      rfl
    · rw [hprog, hsource, hs]
    · rw [hprog, hroute, sourced, hs]
  | beacon =>
    have happlied := applySnapshot_prog f.snap (takeSource f x)
    rw [hroute, hunit, hparams] at happlied
    have hseq' : (sourced f x.route).ownSeq = x.route.ownSeq := hseq
    rw [hseq'] at happlied
    have hrecord (v : Placed) : snapshotRecord (sourced f x.route) x.unit.portionTag x.host.params.hysteresis f.snap v =
        { snapshotRecord x.route x.unit.portionTag x.host.params.hysteresis f.snap v with source := .beacon } := by
      have hstops' : (sourced f x.route).stops = x.route.stops := hstops
      simp only [snapshotRecord, hstops']
      simp only [sourced, hs]
    rw [if_pos (by decide)]
    cases hplace : placeSnapshot x.route.ownSeq f.snap with
    | none =>
      rw [hplace] at happlied
      dsimp only at happlied
      refine ⟨⟨?_, ?_⟩, ⟨?_, ?_⟩, ?_, fun h => absurd (hs.symm.trans h) nofun, fun _ => ?_⟩ <;> rw [happlied]
      · exact hstops
      · exact hseq
      · rfl
      · rfl
      · rfl
      · rw [hplace, sourced, hs]
    | some v =>
      rw [hplace] at happlied
      dsimp only at happlied
      rw [hrecord] at happlied
      refine ⟨⟨?_, ?_⟩, ⟨?_, ?_⟩, ?_, fun h => absurd (hs.symm.trans h) nofun, fun _ => ?_⟩ <;> rw [happlied]
      · exact hstops
      · exact hseq
      · rfl
      · rfl
      · exact hs.symm
      · rw [hplace]

/-! ### The beacon as a step -/

/-- The formation of a part that hears a beacon. -/
def heardForm (cycle : Nat) (g : Formation) : Formation := { g with grant := none, ended := endedThen g, heardCycle := some cycle }

/-- The part that hears a beacon. -/
def hearing (cycle : Nat) (x : Part) : Part := { x with form := heardForm cycle x.form }

theorem onForm_hearing (cycle : Nat) (x : Part) : onForm (fun g => { endGrant g with heardCycle := some cycle }) x = hearing cycle x := by
  simp only [onForm, endGrant_eq]
  rfl

/-- A part that takes the beacon of its leader, as it stands before clock and progress. -/
structure Taking (f : BeaconFrame) (s : State) (x : Part) : Prop where
  keeps : Keeps [.source, .form, .tallies, .seat, .panel, .disp] (quiet s.part) x
  role : x.form.role = .following
  record : x.form.record = s.part.form.record
  loss : x.form.beaconLoss = some (s.part.host.params.holdLimit + 2)
  cycle : x.form.heardCycle = some f.cycle
  route : ∃ src, x.route = { s.part.route with prog := { s.part.route.prog with source := src } }

theorem hearing_keeps (n : Nat) (x : Part) : Keeps [.form] x (hearing n x) := form_keeps rfl rfl rfl Iff.rfl

theorem taking_following (hrole : s.part.form.role = .following) : Taking f s (restartLoss (hearing f.cycle (quiet s.part))) :=
  ⟨Keeps.step restartLoss_keeps rfl (Keeps.step (hearing_keeps _ _) rfl .refl), hrole, rfl, rfl, rfl, s.part.route.prog.source, rfl⟩

theorem taking_isolated : Taking f s (restartLoss (changeRole .following (hearing f.cycle (quiet s.part)))) := by
  have heq := changeRole_eq .following (hearing f.cycle (quiet s.part))
  refine ⟨Keeps.step restartLoss_keeps rfl (Keeps.step changeRole_keeps rfl (Keeps.step (hearing_keeps _ _) rfl .refl)),
    ?_, ?_, ?_, ?_, (changeRole .following (hearing f.cycle (quiet s.part))).route.prog.source, ?_⟩
  · exact (congrArg (·.form.role) heq :)
  · exact (congrArg (·.form.record) heq :)
  · have hlimit := (congrArg (·.host.params.holdLimit) heq :)
    exact congrArg (fun n => some (n + 2)) hlimit
  · exact (congrArg (·.form.heardCycle) heq :)
  · exact (congrArg Part.route heq :)

theorem takeBeacon_def (f : BeaconFrame) (x : Part) : takeBeacon f x = sendLine
    (.response (followBeacon f (restartLoss x)).unit.unitId f.cycle (queueLevel (followBeacon f (restartLoss x)).form.queue))
    (followBeacon f (restartLoss x)) := rfl

/-- The beacon taken by a part that follows. -/
theorem step_of_taken_beacon (hrun : s.part.supply.mode = .run) (htaking : Taking f s (restartLoss x))
    (heq : hearBeacon f (quiet s.part) = takeBeacon f x) :
    ∃ t, exec (.beacon f) s = .next t ∧
      Only [.route, .source, .est, .form, .tallies, .legs, .views, .seat, .panel, .disp, .events, .host, .line] s t ∧
      t.part.form.role = .following ∧ t.part.form.record = s.part.form.record ∧
      t.part.form.beaconLoss = some (s.part.host.params.holdLimit + 2) ∧ t.part.form.heardCycle = some f.cycle ∧
      t.part.out.line = [.response s.part.unit.unitId f.cycle (queueLevel t.part.form.queue)] ∧ Followed f s.part t.part := by
  obtain ⟨hkeeps, hrole, hrecord, hloss, hcycle, src, hroute⟩ := htaking
  obtain ⟨t, hexec, rfl, honly⟩ := step_in_run
    (L := [.route, .source, .est, .form, .tallies, .legs, .views, .seat, .panel, .disp, .events, .host, .line]) (c := .beacon f)
    (f := hearBeacon f) hrun rfl (Keeps.step hearBeacon_keeps rfl .refl)
  have hform := (followBeacon_keeps (f := f) (s := restartLoss x)).all .form (by decide)
  have hform' := hform.2
  have hunit' : (restartLoss x).unit = s.part.unit := unit_of_keeps (x := quiet s.part) hkeeps (by decide)
  have hunit : (followBeacon f (restartLoss x)).unit = s.part.unit :=
    (unit_of_keeps (followBeacon_keeps (f := f) (s := restartLoss x)) (by decide)).trans hunit'
  have hparams : (restartLoss x).host.params = s.part.host.params := params_of_keeps (x := quiet s.part) hkeeps (by decide)
  have hline : (followBeacon f (restartLoss x)).out.line = [] :=
    ((followBeacon_keeps (f := f) (s := restartLoss x)).all .line (by decide)).trans (hkeeps.all .line (by decide))
  have hfollowed := followBeacon_followed (f := f) hrole
  refine ⟨_, hexec, honly, ?_, ?_, ?_, ?_, ?_, ?_⟩
  · rw [finish_form, heq]
    exact (congrArg Formation.role hform' :).trans hrole
  · rw [finish_form, heq]
    exact (congrArg Formation.record hform' :).trans hrecord
  · rw [finish_form, heq]
    exact (congrArg Formation.beaconLoss hform' :).trans hloss
  · rw [finish_form, heq]
    exact (congrArg Formation.heardCycle hform' :).trans hcycle
  · rw [finish_line, finish_form, heq, takeBeacon_def, hunit]
    exact congrArg (· ++ [_]) hline
  · have hsame : ∀ y : Part, Followed f (restartLoss x) y → Followed f s.part y := by
      intro y ⟨h1, h2, h3, h4, h5⟩
      rw [hroute] at h1 h2 h3 h4 h5
      rw [hunit', hparams] at h5
      obtain ⟨hclock, hset⟩ := clockTaken_prog f s.part.route { s.part.route.prog with source := src }
      exact ⟨h1, ⟨h2.1.trans hclock, h2.2.trans hset⟩, h3, h4, h5⟩
    have hfin := hsame _ hfollowed
    obtain ⟨h1, h2, h3, h4, h5⟩ := hfin
    have hroutes : (finish (hearBeacon f (quiet s.part))).route = (followBeacon f (restartLoss x)).route := by
      rw [finish_route, heq]
      rfl
    have hlatched : (finish (hearBeacon f (quiet s.part))).host.latched = (followBeacon f (restartLoss x)).host.latched := by
      rw [finish_latched, heq]
      rfl
    refine ⟨?_, ?_, ?_, ?_, ?_⟩ <;> simp only [hroutes, hlatched]
    · exact h1
    · exact h2
    · exact h3
    · exact h4
    · exact h5

theorem step_of_marked {loss : Option Nat} (hrun : s.part.supply.mode = .run)
    (heq : hearBeacon f (quiet s.part) =
      markSlot { quiet s.part with form := { heardForm f.cycle s.part.form with beaconLoss := loss } }) :
    ∃ t, exec (.beacon f) s = .next t ∧ Only [.form, .line] s t ∧ t.part.out.line = [.mark] ∧
      t.part.form = { heardForm f.cycle s.part.form with beaconLoss := loss } := by
  obtain ⟨t, hexec, rfl, honly⟩ := step_in_run (L := [.form, .line]) (c := .beacon f) (f := hearBeacon f) hrun rfl
    (by rw [heq]; exact Keeps.step markSlot_keeps rfl (Keeps.step (M := [.form])
          (form_keeps (x := quiet s.part) rfl rfl rfl Iff.rfl) rfl .refl))
  refine ⟨_, hexec, honly, ?_, ?_⟩
  · rw [finish_line, heq]
    rfl
  · rw [finish_form, heq]
    rfl

theorem fromRecord_iff {r : FormRecord} : fromRecord f r = true ↔ f.leader = leaderId r ∧ f.epoch = r.epoch := by
  simp [fromRecord]

theorem hearBeacon_following (hrole : x.form.role = .following) : hearBeacon f x =
    if fromRecord f x.form.record then takeBeacon f (hearing f.cycle x) else markSlot (restartLoss (hearing f.cycle x)) := by
  unfold hearBeacon
  rw [onForm_hearing, hrole]

theorem hearBeacon_isolated (hrole : x.form.role = .isolated) : hearBeacon f x =
    if fromRecord f x.form.record && decide (2 ≤ x.form.record.units.length) then
      takeBeacon f (changeRole .following (hearing f.cycle x)) else markSlot (hearing f.cycle x) := by
  unfold hearBeacon
  rw [onForm_hearing, hrole]

/-- Settles O34: the beacon of the own leader by clock, source and snapshot; any other by the mark. -/
theorem aFollowerTakesItsLeadersBeacon : Obligations.AFollowerTakesItsLeadersBeacon := by
  refine ⟨fun s f hrun hrole hleader hep => ?taken, fun s f hrun => ⟨fun hrole => ?marks, fun hrole => ?restarts⟩⟩
  case taken =>
    have hfrom : fromRecord f s.part.form.record = true := fromRecord_iff.mpr ⟨hleader, hep⟩
    have hstep : ∃ t, exec (.beacon f) s = .next t ∧
        Only [.route, .source, .est, .form, .tallies, .legs, .views, .seat, .panel, .disp, .events, .host, .line] s t ∧
        t.part.form.role = .following ∧ t.part.form.record = s.part.form.record ∧
        t.part.form.beaconLoss = some (s.part.host.params.holdLimit + 2) ∧ t.part.form.heardCycle = some f.cycle ∧
        t.part.out.line = [.response s.part.unit.unitId f.cycle (queueLevel t.part.form.queue)] ∧ Followed f s.part t.part := by
      obtain hf | ⟨hi, hlen⟩ := hrole
      · exact step_of_taken_beacon hrun (taking_following hf) ((hearBeacon_following (x := quiet s.part) hf).trans (if_pos hfrom))
      · exact step_of_taken_beacon hrun taking_isolated ((hearBeacon_isolated (x := quiet s.part) hi).trans
          (if_pos (by rw [show fromRecord f (quiet s.part).form.record = true from hfrom]; exact decide_eq_true hlen)))
    obtain ⟨t, hexec, honly, h1, h2, h3, h4, hline, ⟨hstops, hseq⟩, ⟨hclock, hset⟩, hsource, hown, hbeacon⟩ := hstep
    obtain ⟨htake, hleave⟩ := clockTaken_clock f s.part.route
    refine ⟨t, hexec, honly, h1, h2, h3, h4, hline, hstops, hseq, ?_, ?_, hsource, fun h => hown (hsource.symm.trans h),
      fun h => ?_⟩
    · rw [hclock, hset]
      exact htake
    · rw [hclock, hset]
      exact hleave
    · have hprog := hbeacon (hsource.symm.trans h)
      cases hplace : placeSnapshot s.part.route.ownSeq f.snap with
      | none =>
        rw [hplace] at hprog
        exact hprog
      | some y =>
        rw [hplace] at hprog
        exact hprog
  case marks =>
    refine step_of_marked (loss := s.part.form.beaconLoss) hrun ?_
    obtain h | ⟨hi, hnot⟩ := hrole
    · have h' : (quiet s.part).form.role = .standalone := h
      unfold hearBeacon
      rw [onForm_hearing, h']
      rfl
    · refine (hearBeacon_isolated (x := quiet s.part) hi).trans ((if_neg fun hc => hnot ?_).trans rfl)
      simp only [Bool.and_eq_true, decide_eq_true_eq] at hc
      obtain ⟨hfrom, hlen⟩ := hc
      obtain ⟨h1, h2⟩ := fromRecord_iff.mp hfrom
      exact ⟨h1, h2, hlen⟩
  case restarts =>
    refine step_of_marked (loss := some (s.part.host.params.holdLimit + 2)) hrun ?_
    obtain h | ⟨hf, hnot⟩ := hrole
    · have h' : (quiet s.part).form.role = .formingFollower := h
      unfold hearBeacon
      rw [onForm_hearing, h']
      rfl
    · exact (hearBeacon_following (x := quiet s.part) hf).trans ((if_neg fun hc => hnot (fromRecord_iff.mp hc)).trans rfl)

end Sys2Proof.Proofs.Beacon
end

section
/-! What the warm return leaves: notices, texts, endpoints, and the role that resumes. -/
namespace Sys2Proof.Proofs.WarmReturn
open Sys2Proof Sys2Proof.Machine Effects Requests Owners Events OwnEntries Rendering Journey Driver Slots Notices Coupler Turn Received
  ForwardEnds TrainTally EpochChange UnitEnds DisplayLine

variable {s : State} {x y z : Part} {l : NoticeLevel} {i h : Nat} {t : TextStore}

/-! ### Notices, slot by slot -/

/-- The notices of a level, slot by slot. -/
def noticesOf (q : Panels) (l : NoticeLevel) : List (Option Slot) := (slotsOf q l).map (Option.map bare)

/-- The notices stand in their slots. -/
def NoticesKept (x y : Part) : Prop := ∀ l, noticesOf y.panel l = noticesOf x.panel l

theorem NoticesKept.refl (x : Part) : NoticesKept x x := fun _ => rfl
theorem NoticesKept.trans (h : NoticesKept x y) (h' : NoticesKept y z) : NoticesKept x z := fun l => (h' l).trans (h l)
theorem NoticesKept.of_panel (h : y.panel = x.panel) : NoticesKept x y := fun _ => by rw [h]

theorem NoticesKept.same (h : NoticesKept x y) : SameNotices x y := by
  intro l i
  have hget (q : Panels) : (slotAt q l i).map bare = ((noticesOf q l)[i]?).join := by
    rw [slotAt_eq, noticesOf, List.getElem?_map]
    cases (slotsOf q l)[i]? <;> rfl
  rw [hget, hget, h l]

theorem notices_useSlots (s s' : Part) (f : Nat → Bool) (b : Bool) (slots : List (Option Slot)) :
    (useSlots s f (refreshSlots s' b slots)).map (Option.map bare) = slots.map (Option.map bare) := by
  refine List.ext_getElem? fun i => ?_
  simp only [useSlots, refreshSlots, mapFrom_eq_map_zipIdx, List.getElem?_map, List.getElem?_zipIdx]
  cases slots[i]? with
  | none => rfl
  | some v => cases v <;> rfl

theorem composer_kept (cause : Cause) (x : Part) : NoticesKept x (composer cause x) := fun l => by
  rw [composer_panel]
  cases l
  · exact notices_useSlots ..
  · exact notices_useSlots ..

theorem slotsOf_setContext (q : Panels) (p : ProgLevel) (v : Context) (l : NoticeLevel) :
    slotsOf (setContext q p v) l = slotsOf q l := by
  cases p <;> cases l <;> rfl

theorem renderNamed_kept (ls : List ProgLevel) (f : CoachShow → Bool) (x : Part) : NoticesKept x (renderNamed ls f x) := by
  have hfold (q : Panels) (l : NoticeLevel) :
      slotsOf (ls.foldl (fun q l => setContext q l (refreshLevel x l)) q) l = slotsOf q l := by
    induction ls generalizing q with
    | nil => rfl
    | cons p ls ih => exact (ih _).trans (slotsOf_setContext ..)
  exact fun l => congrArg (List.map (Option.map bare)) (hfold x.panel l)

theorem nameSummary_kept (before : List SummaryEntry) (x : Part) : NoticesKept x (nameSummary before x) := by
  unfold nameSummary
  split
  · exact .refl x
  · exact renderNamed_kept _ _ x

theorem deriveSummary_kept (x : Part) : NoticesKept x (deriveSummary x) := nameSummary_kept _ (setSummary x)

theorem estRecompute_kept (x : Part) : NoticesKept x (estRecompute x) := by
  unfold estRecompute nameStops
  split
  · split
    · exact .refl x
    · exact renderNamed_kept _ _ (setEstimates x)
  · exact .refl x

theorem refreshSeats_kept (x : Part) : NoticesKept x (refreshSeats x) := by
  have htold : NoticesKept x (writeOwnTallies (rebuildTally (recomputeSeats x))) :=
    .of_panel (panel_of_keeps (L := [.views, .disp, .seat, .tallies]) (Keeps.step writeOwnTallies_keeps rfl
      (Keeps.step rebuildTally_keeps rfl (Keeps.step recomputeSeats_keeps rfl .refl))) (by decide))
  have hreport (z : Part) : NoticesKept z (reportTallies z) := .of_panel (panel_of_keeps reportTallies_keeps (by decide))
  unfold refreshSeats tallyUpdate
  dsimp only
  split
  · exact htold.trans ((hreport _).trans (deriveSummary_kept _))
  · exact .of_panel (panel_of_keeps (L := [.views, .disp, .seat]) (Keeps.step rebuildTally_keeps rfl
      (Keeps.step recomputeSeats_keeps rfl .refl)) (by decide))

theorem formationChanged_kept (o : Orientation) (x : Part) : NoticesKept x (formationChanged o x) :=
  (deriveSummary_kept (writeOwnTallies (evalSource x))).trans (composer_kept _ _)

theorem changeRole_kept (r : Role) (x : Part) : NoticesKept x (changeRole r x) := by
  unfold changeRole
  dsimp only
  split
  · exact .refl x
  · exact formationChanged_kept _ (onForm (fun f => { f with role := r }) x)

theorem yieldLead_kept (x : Part) : NoticesKept x (yieldLead x) := changeRole_kept _ (onForm (fun f => { quietLeader f with
  waiting := false, rollFront := none, heardAnswers := 0 }) x)

theorem startRollCall_kept (x : Part) : NoticesKept x (startRollCall x) := by
  cases he : x.form.qualEnd with
  | none =>
    rw [startRollCall_none he]
    exact .refl x
  | some e =>
    rw [startRollCall_some he, rollCallFrom_eq]
    exact changeRole_kept .formingLeader x

theorem evalQualEnd_kept (x : Part) : NoticesKept x (evalQualEnd x) := by
  by_cases hsame : qualifyingEnd x.form = x.form.qualEnd
  · rw [evalQualEnd_unchanged hsame]
    exact .refl x
  · rw [evalQualEnd_changed hsame]
    split
    · split
      · exact yieldLead_kept (requalify x)
      · exact .refl x
    · split
      · split
        · exact formationChanged_kept _ (recordAlone (requalify x))
        · exact formationChanged_kept _ (requalify x)
      · exact .refl x

/-! ### Endpoints -/

theorem changeRole_drawn (r : Role) (x : Part) : PanelsDrawn x (changeRole r x) := by
  unfold changeRole
  dsimp only
  split
  · exact .refl x
  · exact formationChanged_drawn _ (onForm (fun f => { f with role := r }) x)

theorem yieldLead_drawn (x : Part) : PanelsDrawn x (yieldLead x) := changeRole_drawn _ (onForm (fun f => { quietLeader f with
  waiting := false, rollFront := none, heardAnswers := 0 }) x)

theorem startRollCall_drawn (x : Part) : PanelsDrawn x (startRollCall x) := by
  cases he : x.form.qualEnd with
  | none =>
    rw [startRollCall_none he]
    exact .refl x
  | some e =>
    rw [startRollCall_some he, rollCallFrom_eq]
    exact changeRole_drawn .formingLeader x

theorem evalQualEnd_drawn (x : Part) : PanelsDrawn x (evalQualEnd x) := by
  by_cases hsame : qualifyingEnd x.form = x.form.qualEnd
  · rw [evalQualEnd_unchanged hsame]
    exact .refl x
  · rw [evalQualEnd_changed hsame]
    split
    · split
      · exact yieldLead_drawn (requalify x)
      · exact .refl x
    · split
      · split
        · exact formationChanged_drawn _ (recordAlone (requalify x))
        · exact formationChanged_drawn _ (requalify x)
      · exact .refl x

theorem afterSlots_drawn (b : Bool) (filled : Option (NoticeLevel × Nat)) (x : Part) : PanelsDrawn x (afterSlots b filled x) := by
  unfold afterSlots
  dsimp only
  split
  · exact lightAndCompose_drawn _ x
  · exact composer_drawn _ x

theorem told_drawn (x : Part) : PanelsDrawn x (told x) := by
  have hends : PanelsDrawn x (writeOwnTallies (onForm (fun f =>
      { f with trainTally := f.trainTally.filter fun e => e.epoch == f.record.epoch })
        (onForm (fun f => { f with queue := [] }) (endForwards x)))) := .of_eq (by
    rw [endForwards_eq]
    rfl)
  exact hends.trans (deriveSummary_drawn _)

theorem recordEffects_drawn (o : Orientation) (x : Part) : PanelsDrawn x (recordEffects o x) := by
  have hretold : PanelsDrawn x (retold x) := (told_drawn x).trans (.of_eq (by rw [retold_eq]))
  have hvacated : PanelsDrawn x (vacateWhere (foreignTo (retold x).form.record) (retold x)) :=
    hretold.trans (.of_eq (by rw [vacateWhere_eq]))
  rw [recordEffects_def]
  exact (hvacated.trans (afterSlots_drawn _ _ _)).trans (formationChanged_drawn _ _)

theorem separate_drawn (x : Part) : PanelsDrawn x (separate x) := by
  rw [separate_def]
  exact recordEffects_drawn _ (parting x)

/-- Every endpoint as a warm return resets it, whatever its content. -/
def Fresh (d : Display) : Prop := ∀ e ∈ d.table, e.present = true ∧ e.miss = 0 ∧ e.shown = none ∧ e.probeTime = none

theorem fresh_warmDisplay (d : Display) : Fresh (warmDisplay d) := by
  intro e he
  obtain ⟨a, -, rfl⟩ := List.mem_map.mp he
  exact ⟨rfl, rfl, rfl, rfl⟩

theorem mem_lineEntry {d d' : Display} (h : d'.table.map lineEntry = d.table.map lineEntry) {e : EpEntry} (he : e ∈ d'.table) :
    ∃ a ∈ d.table, lineEntry a = lineEntry e := List.mem_map.mp (h ▸ List.mem_map_of_mem he)

theorem Fresh.drawn {d d' : Display} (h : Fresh d) (hd : d'.table.map lineEntry = d.table.map lineEntry) : Fresh d' := by
  intro e he
  obtain ⟨a, ha, heq⟩ := mem_lineEntry hd he
  have hfield {α : Type} (g : EpEntry → α) (hg : ∀ v, g (lineEntry v) = g v) : g e = g a := by
    rw [← hg e, ← heq, hg]
  obtain ⟨h1, h2, h3, h4⟩ := h a ha
  exact ⟨(hfield EpEntry.present fun _ => rfl).trans h1, (hfield EpEntry.miss fun _ => rfl).trans h2,
    (hfield EpEntry.shown fun _ => rfl).trans h3, (hfield EpEntry.probeTime fun _ => rfl).trans h4⟩

theorem addrs_of_lineEntry {d d' : Display} (h : d'.table.map lineEntry = d.table.map lineEntry) :
    d'.table.map (·.addr) = d.table.map (·.addr) := by
  have hmap (l : List EpEntry) : l.map (·.addr) = (l.map lineEntry).map (·.addr) := by
    rw [List.map_map]
    rfl
  rw [hmap, h, ← hmap]

/-! ### Texts -/

/-- The variants of an entry. -/
def variants (e : TextEntry) : Variant × Option Variant × Option Variant := (e.v0, e.v1, e.v2)

/-- The host's texts stand. -/
def SameTexts (t t' : TextStore) : Prop := ∀ h, h < 192 → (textAt t' h).map variants = (textAt t h).map variants

theorem SameTexts.refl (t : TextStore) : SameTexts t t := fun _ _ => rfl
theorem SameTexts.trans {t' t'' : TextStore} (h : SameTexts t t') (h' : SameTexts t' t'') : SameTexts t t'' :=
  fun k hk => (h' k hk).trans (h k hk)

theorem textAt_dropEntry_ne {a : Nat} (hne : h ≠ a) (t : TextStore) : textAt (dropEntry a t) h = textAt t h := by
  unfold dropEntry
  split
  · exact assocGet_assocErase_ne hne _
  · rfl

theorem sameTexts_release (a : Nat) (t : TextStore) : SameTexts t (release a t) := by
  intro h hh
  unfold release
  split
  · next e he =>
    have hset : (textAt { t with entries := assocSet a { e with refs := e.refs - 1 } t.entries } h).map variants =
        (textAt t h).map variants := by
      rw [textAt_set]
      split
      · next heq =>
        rw [heq, he]
        rfl
      · rfl
    dsimp only
    split
    · next hdrop =>
      have hne : h ≠ a := by
        rintro rfl
        simp only [Bool.and_eq_true, decide_eq_true_eq] at hdrop
        omega
      rw [textAt_dropEntry_ne hne]
      exact hset
    · exact hset
  · rfl

theorem sameTexts_releaseAll (hs : List Nat) (t : TextStore) : SameTexts t (releaseAll hs t) := by
  induction hs generalizing t with
  | nil => exact .refl t
  | cons a hs ih => exact (sameTexts_release a t).trans (ih _)

theorem endForwards_texts (x : Part) : SameTexts x.text (endForwards x).text := by
  have hfold (l : List Forward) (y : Part) : SameTexts y.text (l.foldl (fun s e => endForward e.tag .linkFailed [] s) y).text := by
    induction l generalizing y with
    | nil => exact .refl _
    | cons a l ih =>
      have hone : SameTexts y.text (endForward a.tag .linkFailed [] y).text := by
        rw [endForward, answer_text]
        exact sameTexts_releaseAll _ _
      exact hone.trans (ih _)
  exact hfold x.form.forwards x

theorem vacate_texts (l : NoticeLevel) (i : Nat) (x : Part) : SameTexts x.text (vacate l i x).text := by
  unfold vacate
  split
  · exact sameTexts_release _ _
  · exact .refl _

theorem vacateWhere_texts (f : Slot → Bool) (x : Part) : SameTexts x.text (vacateWhere f x).text := by
  unfold vacateWhere
  generalize slotPlaces = ps
  induction ps generalizing x with
  | nil => exact .refl _
  | cons a ps ih =>
    rw [List.foldl_cons]
    split
    · exact (vacate_texts a.1 a.2 x).trans (ih _)
    · exact ih x

theorem told_text (x : Part) : (told x).text = (endForwards x).text :=
  text_of_keeps (L := [.seat, .panel, .disp, .tallies, .form]) (x := endForwards x)
    (Keeps.step deriveSummary_keeps rfl (Keeps.step writeOwnTallies_keeps rfl (Keeps.step onForm_keeps rfl
      (Keeps.step onForm_keeps rfl .refl)))) (by decide)

theorem recordEffects_texts (o : Orientation) (x : Part) : SameTexts x.text (recordEffects o x).text := by
  have hcleared : (recordEffects o x).text = (vacateWhere (foreignTo (retold x).form.record) (retold x)).text := by
    rw [recordEffects_def]
    exact text_of_keeps (L := [.source, .tallies, .seat, .panel, .disp]) (Keeps.step formationChanged_keeps rfl
      (Keeps.step afterSlots_keeps rfl .refl)) (by decide)
  have hretold : (retold x).text = (endForwards x).text := by
    rw [retold_eq]
    exact told_text x
  rw [hcleared]
  refine SameTexts.trans ?_ (vacateWhere_texts _ _)
  rw [hretold]
  exact endForwards_texts x

/-! ### The slots of a separation -/

theorem untouched_of_fold {f : Slot → Bool} {v : Slot} (hf : f v = false) (ps : List (NoticeLevel × Nat)) (x : Part)
    (hv : slotAt x.panel l i = some v) :
    slotAt (ps.foldl (fun s a => if ((slotAt s.panel a.1 a.2).map f).getD false then vacate a.1 a.2 s else s) x).panel l i = some v := by
  induction ps generalizing x with
  | nil => exact hv
  | cons a ps ih =>
    obtain ⟨k, j⟩ := a
    rw [List.foldl_cons]
    refine ih _ ?_
    split
    · next hgone =>
      cases hw : slotAt x.panel k j with
      | none => simp [hw] at hgone
      | some w =>
        have hfw : f w = true := by simpa [hw] using hgone
        rw [slotAt_vacate hw, if_neg, hv]
        intro heq
        cases heq
        obtain rfl : w = v := Option.some.inj (hw.symm.trans hv)
        exact absurd (hf.symm.trans hfw) nofun
    · exact hv

/-- The slots that a test does not name stay, the others are emptied. -/
theorem slotAt_vacateWhere_eq (f : Slot → Bool) (x : Part) (l : NoticeLevel) (hi : i < 4) :
    slotAt (vacateWhere f x).panel l i = (slotAt x.panel l i).filter fun v => !f v := by
  cases hv : slotAt x.panel l i with
  | none => exact vacated_of_fold slotPlaces x (.inl hv)
  | some v =>
    cases hf : f v with
    | true =>
      rw [slotAt_vacateWhere f hi hv hf]
      simp [Option.filter, hf]
    | false =>
      have h := untouched_of_fold hf slotPlaces x hv
      rw [vacateWhere, h]
      simp [Option.filter, hf]

/-- A notice of another unit than the own. -/
def foreign (own : Nat) (v : Slot) : Bool := match v.origin with
  | some u => u != own
  | none => false

theorem foreign_bare (own : Nat) (v : Slot) : foreign own (bare v) = foreign own v := rfl

theorem separate_slots (x : Part) (l : NoticeLevel) (hi : i < 4) : (slotAt (separate x).panel l i).map bare =
    ((slotAt x.panel l i).map bare).filter fun v => !foreign x.unit.unitId v := by
  have hsame : SameNotices (parting x) (retold (parting x)) := (told_notices _).trans (.of_panel (by rw [retold_eq]))
  have hrecord : (retold (parting x)).form.record = { epoch := x.form.record.epoch, units := [ownEntryNow x], ownIndex := 1 } := by
    rw [retold_eq, told_eq]
    rfl
  have hforeign : foreignTo (retold (parting x)).form.record = foreign x.unit.unitId := by
    funext v
    rw [hrecord, foreignTo, foreign]
    cases v.origin with
    | none => rfl
    | some u =>
      have hown : (ownEntryNow x).unitId = x.unit.unitId := rfl
      simp [hown, bne, BEq.comm]
  have hslot := hsame l i
  have hpanel : (parting x).panel = x.panel := rfl
  rw [hpanel] at hslot
  rw [separate_def, recordEffects_def, formationChanged_notices, cleared, afterSlots_notices, slotAt_vacateWhere_eq _ _ l hi,
    hforeign, ← hslot]
  cases slotAt (retold (parting x)).panel l i with
  | none => rfl
  | some v =>
    by_cases hf : foreign x.unit.unitId v = true <;> simp [Option.filter, foreign_bare, hf]

end Sys2Proof.Proofs.WarmReturn
end

section
/-! A qualified return in a hold: the steps of a warm return and what each leaves. -/
namespace Sys2Proof.Proofs.Resumption
open Sys2Proof Sys2Proof.Machine Effects Requests Owners Events OwnEntries Rendering Journey Driver Slots Notices Coupler Turn Received
  ForwardEnds TrainTally EpochChange UnitEnds DisplayLine WarmReturn Description

variable {s : State} {x y z : Part} {ext : Bool} {L : List Block}

/-! ### The role that resumes -/

theorem evalQualEnd_record (h : x.form.role ≠ .standalone ∨ qualifyingEnd x.form = x.form.qualEnd) :
    (evalQualEnd x).form.record = x.form.record := by
  by_cases hsame : qualifyingEnd x.form = x.form.qualEnd
  · rw [evalQualEnd_unchanged hsame]
    rfl
  · have hrole : x.form.role ≠ .standalone := h.resolve_right hsame
    by_cases halone : aloneRole x.form.role = true
    · have hlead : leads x.form.role ≠ true := fun hl => absurd ((alone_of_leads hl).symm.trans halone) nofun
      rw [evalQualEnd_changed hsame, if_neg hlead, if_pos halone, if_neg (by simpa using hrole), formationChanged_form]
      rfl
    · by_cases hlead : leads x.form.role = true
      · exact (requalified_eval x).record hlead
      · rw [evalQualEnd_follows (by simpa using hlead) (by simpa using halone)]
        rfl

theorem yieldLead_role (h : leads x.form.role = true) : (yieldLead x).form.role = .formingFollower := by
  rw [yieldLead_eq h]

theorem yieldLead_record (h : leads x.form.role = true) : (yieldLead x).form.record = x.form.record := by
  rw [yieldLead_eq h]
  rfl

/-- The role that resumes, by the role and the qualifying end found: a leader without one yields. -/
theorem resumeRole_eq (x : Part) : resumeRole x =
    if leads (evalQualEnd x).form.role = true ∧ (evalQualEnd x).form.qualEnd = none then yieldLead (evalQualEnd x)
    else match (evalQualEnd x).form.role with
      | .leading => startAbsence (evalQualEnd x)
      | .formingLeader => startRollCall (evalQualEnd x)
      | .standalone => evalQualEnd x
      | _ => restartLoss (evalQualEnd x) := by
  unfold resumeRole
  dsimp only
  cases (evalQualEnd x).form.role <;> cases (evalQualEnd x).form.qualEnd <;> rfl

theorem startRollCall_role (h : x.form.role = .formingLeader) : (startRollCall x).form.role = .formingLeader := by
  cases he : x.form.qualEnd with
  | none => rw [startRollCall_none he, h]
  | some e => rw [startRollCall_some he, rollCallFrom_held (by rw [h]; rfl)]; rfl

theorem resumeRole_form (x : Part) :
    (resumeRole x).form.record = (evalQualEnd x).form.record ∧ (resumeRole x).form.role =
      if leads (evalQualEnd x).form.role = true ∧ (evalQualEnd x).form.qualEnd = none then .formingFollower
      else (evalQualEnd x).form.role := by
  rw [resumeRole_eq]
  split
  · next h => exact ⟨yieldLead_record h.1, yieldLead_role h.1⟩
  · cases hr : (evalQualEnd x).form.role
    case formingLeader => exact ⟨(startRollCall_leaves (by rw [hr]; rfl)).1, startRollCall_role hr⟩
    all_goals exact ⟨rfl, hr⟩

/-- A leader without a qualifying end is FORMING as follower, every other role resumes. -/
theorem resumeRole_role (x : Part) : (resumeRole x).form.role =
    if (x.form.role = .leading ∨ x.form.role = .formingLeader) ∧ qualifyingEnd x.form = none then .formingFollower
    else x.form.role := by
  obtain ⟨-, hqual, -, -, hrole⟩ := requalified_eval x
  simp only [(resumeRole_form x).2, hqual, ← leads_iff]
  by_cases hlost : leads x.form.role = true ∧ qualifyingEnd x.form = none ∧ x.form.qualEnd ≠ none
  · rw [if_pos hlost] at hrole
    rw [hrole, if_neg (by simp [leads]), if_pos ⟨hlost.1, hlost.2.1⟩]
  · rw [if_neg hlost] at hrole
    rw [hrole]

/-! ### The steps of a warm return -/

/-- The part with supply, staging and driver as the return leaves them. -/
def restored (ext : Bool) (x : Part) : Part :=
  { x with
    supply := { x.supply with
      mode := .run, hold := none, extHold := none, settle := some 0, breakCount := min 15 (x.supply.breakCount + 1)
      startCause := if ext then .warmExtended else .warm }
    unit := { x.unit with staging := none }
    disp := warmDisplay x.disp }

/-- … with the progress record of the return. -/
def progressed (ext : Bool) (x : Part) : Part := if ext then staleProgress (restored ext x) else restored ext x

/-- … with estimates, seats and sensors anew. -/
def reseated (ext : Bool) (x : Part) : Part := refreshSeats (mapSensors (fun _ => {}) (estRecompute (progressed ext x)))

/-- … with the debounce times of the ends. -/
def sensing (ext : Bool) (x : Part) : Part :=
  onForm (restartDebounce (debounceMs (reseated ext x).host.params.debounce)) (reseated ext x)

/-- … with its place in the formation. -/
def rejoined (ext : Bool) (x : Part) : Part := if ext then returnAlone (sensing ext x) else resumeRole (sensing ext x)

theorem warmReturn_eq (ext : Bool) (x : Part) : warmReturn ext x = hostStart (composer { all := true } (rejoined ext x)) := rfl

theorem reseated_keeps (ext : Bool) (x : Part) :
    Keeps [.est, .panel, .disp, .tallies, .views, .seat, .sensors] (progressed ext x) (reseated ext x) :=
  Keeps.step refreshSeats_keeps rfl (Keeps.step mapSensors_keeps rfl (Keeps.step estRecompute_keeps rfl .refl))

theorem sensing_keeps (ext : Bool) (x : Part) :
    Keeps [.est, .panel, .disp, .tallies, .views, .seat, .sensors, .form] (progressed ext x) (sensing ext x) := by
  rw [sensing]
  exact Keeps.step onForm_keeps rfl (Keeps.step (reseated_keeps ext x) rfl .refl)

/-- What the place in the formation and the last two steps can touch. -/
theorem rejoined_keeps (ext : Bool) (x : Part) :
    Keeps [.text, .source, .form, .tallies, .seat, .panel, .disp, .host, .line] (sensing ext x) (rejoined ext x) := by
  unfold rejoined
  split
  · exact Keeps.step separate_keeps rfl (Keeps.step onForm_keeps rfl .refl)
  · exact Keeps.step resumeRole_keeps rfl .refl

/-! ### What the return leaves -/

theorem progressed_keeps (ext : Bool) (x : Part) : Keeps [.route, .host, .events] (restored ext x) (progressed ext x) := by
  unfold progressed
  split
  · exact Keeps.step staleProgress_keeps rfl .refl
  · exact .refl

/-- The progress record alone is the work of the return's first step. -/
theorem staleProgress_route (x : Part) : (staleProgress x).route = { x.route with prog := (staleProgress x).route.prog } := by
  unfold staleProgress
  split <;> rfl

theorem progressed_route (ext : Bool) (x : Part) :
    (progressed ext x).route = { x.route with prog := (progressed ext x).route.prog } := by
  unfold progressed
  split
  · exact staleProgress_route (restored _ x)
  · rfl

theorem warmReturn_keeps_progressed (ext : Bool) (x : Part) :
    Keeps [.est, .text, .source, .form, .tallies, .views, .sensors, .seat, .panel, .disp, .host, .events, .line]
      (progressed ext x) (warmReturn ext x) := by
  rw [warmReturn_eq]
  exact Keeps.step hostStart_keeps rfl (Keeps.step composer_keeps rfl (Keeps.step (rejoined_keeps ext x) rfl
    (Keeps.step (sensing_keeps ext x) rfl .refl)))

theorem warmReturn_supply (ext : Bool) (x : Part) : (warmReturn ext x).supply = (restored ext x).supply :=
  (supply_of_keeps (warmReturn_keeps_progressed ext x) (by decide)).trans (supply_of_keeps (progressed_keeps ext x) (by decide))

theorem warmReturn_params (ext : Bool) (x : Part) : (warmReturn ext x).host.params = x.host.params :=
  (params_of_keeps (warmReturn_keeps_progressed ext x) (by decide)).trans (params_of_keeps (x := restored ext x) (progressed_keeps ext x) (by decide))

theorem warmReturn_unit (ext : Bool) (x : Part) : (warmReturn ext x).unit = { x.unit with staging := none } :=
  (unit_of_keeps (warmReturn_keeps_progressed ext x) (by decide)).trans (unit_of_keeps (progressed_keeps ext x) (by decide))

theorem warmReturn_legs (ext : Bool) (x : Part) : (warmReturn ext x).res.legs = x.res.legs :=
  (legs_of_keeps (warmReturn_keeps_progressed ext x) (by decide)).1.trans (legs_of_keeps (progressed_keeps ext x) (by decide)).1

theorem warmReturn_prog (ext : Bool) (x : Part) : (warmReturn ext x).route = { (progressed ext x).route with
    prog := { (progressed ext x).route.prog with source := (warmReturn ext x).route.prog.source } } :=
  route_but_source_of_keeps (warmReturn_keeps_progressed ext x) (by decide)

theorem warmReturn_route (ext : Bool) (x : Part) :
    (warmReturn ext x).route = { x.route with prog := (warmReturn ext x).route.prog } := by
  have h := warmReturn_prog ext x
  rw [progressed_route] at h
  rw [h]

theorem warmReturn_sensors (ext : Bool) (x : Part) {c p : Nat} {v : Sensor} (h : sensorAt (warmReturn ext x).seat c p = some v) :
    v = {} := by
  have hkept : Keeps [.text, .source, .form, .tallies, .views, .seat, .panel, .disp, .host, .events, .line]
      (mapSensors (fun _ => {}) (estRecompute (progressed ext x))) (warmReturn ext x) := by
    have hseats : Keeps [.text, .source, .form, .tallies, .views, .seat, .panel, .disp, .host, .events, .line]
        (mapSensors (fun _ => {}) (estRecompute (progressed ext x))) (sensing ext x) := by
      rw [sensing, reseated]
      exact Keeps.step onForm_keeps rfl (Keeps.step refreshSeats_keeps rfl .refl)
    rw [warmReturn_eq]
    exact Keeps.step hostStart_keeps rfl (Keeps.step composer_keeps rfl (Keeps.step (rejoined_keeps ext x) rfl hseats))
  have hsensors := sensors_of_keeps hkept (by decide)
  rw [sensorAt, hsensors, mapSensors] at h
  obtain ⟨row, hrow, hp⟩ := Option.bind_eq_some_iff.mp h
  rw [List.getElem?_map] at hrow
  obtain ⟨before, -, rfl⟩ := Option.map_eq_some_iff.mp hrow
  rw [List.getElem?_map] at hp
  obtain ⟨-, -, rfl⟩ := Option.map_eq_some_iff.mp hp
  rfl

theorem resumeRole_drawn (x : Part) : PanelsDrawn x (resumeRole x) := by
  refine (evalQualEnd_drawn x).trans ?_
  rw [resumeRole_eq]
  split
  · exact yieldLead_drawn _
  · split
    · exact .of_eq rfl
    · exact startRollCall_drawn _
    · exact .refl _
    · exact .of_eq rfl

theorem rejoined_drawn (ext : Bool) (x : Part) : PanelsDrawn (sensing ext x) (rejoined ext x) := by
  unfold rejoined
  split
  · rw [returnAlone]
    exact PanelsDrawn.trans (.of_eq (onForm_disp ..)) (separate_drawn _)
  · exact resumeRole_drawn _

theorem warmReturn_drawn (ext : Bool) (x : Part) : Redrawn (fun _ => False) (warmDisplay x.disp) (warmReturn ext x).disp := by
  have hprog : LineDrawn (restored ext x) (progressed ext x) := by
    unfold progressed staleProgress
    split
    · split
      · exact Redrawn.of_eq (latch_disp ..)
      · exact Redrawn.refl _
    · exact Redrawn.refl _
  have hest : LineDrawn (restored ext x) (mapSensors (fun _ => {}) (estRecompute (progressed ext x))) :=
    hprog.trans (estRecompute_drawn _).line
  have hseats : LineDrawn (restored ext x) (sensing ext x) := hest.trans (refreshSeats_drawn _)
  exact hseats.trans ((rejoined_drawn ext x).trans (composer_drawn _ _)).line

theorem warmReturn_latched (ext : Bool) (x : Part) :
    (warmReturn ext x).host.latched = (progressed ext x).host.latched ||| 1#14 := by
  have hkept : Keeps [.est, .text, .source, .form, .tallies, .views, .sensors, .seat, .panel, .disp, .host, .line]
      (progressed ext x) (composer { all := true } (rejoined ext x)) :=
    Keeps.step composer_keeps rfl (Keeps.step (rejoined_keeps ext x) rfl (Keeps.step (sensing_keeps ext x) rfl .refl))
  rw [warmReturn_eq, hostStart_latched, latched_of_keeps hkept (by decide)]

/-! ### From BREAK_HOLD -/

theorem qualifyingEnd_of_keeps (h : Keeps L x y) (hb : Block.form ∉ L) : qualifyingEnd y.form = qualifyingEnd x.form :=
  (congrArg qualifyingEnd (h.all _ hb).2 :)

theorem sensing_qualifyingEnd (ext : Bool) (x : Part) : qualifyingEnd (sensing ext x).form = qualifyingEnd x.form := by
  have hstart := qualifyingEnd_of_keeps (x := restored ext x) (progressed_keeps ext x) (by decide)
  have hseats := qualifyingEnd_of_keeps (reseated_keeps ext x) (by decide)
  rw [hstart] at hseats
  rw [sensing, onForm_form]
  exact hseats

theorem sensing_qualEnd (ext : Bool) (x : Part) : (sensing ext x).form.qualEnd = x.form.qualEnd := by
  have hstart := qualEnd_of_keeps (x := restored ext x) (progressed_keeps ext x) (by decide)
  have hseats := qualEnd_of_keeps (reseated_keeps ext x) (by decide)
  rw [hstart] at hseats
  rw [sensing, onForm_form]
  exact hseats

theorem sensing_role (ext : Bool) (x : Part) : (sensing ext x).form.role = x.form.role := by
  have hstart := role_of_keeps (x := restored ext x) (progressed_keeps ext x) (by decide)
  have hseats := role_of_keeps (reseated_keeps ext x) (by decide)
  rw [hstart] at hseats
  rw [sensing, onForm_form]
  exact hseats

theorem sensing_record (ext : Bool) (x : Part) : (sensing ext x).form.record = x.form.record := by
  have hstart := record_of_keeps (x := restored ext x) (progressed_keeps ext x) (by decide)
  have hseats := record_of_keeps (reseated_keeps ext x) (by decide)
  rw [hstart] at hseats
  rw [sensing, onForm_form]
  exact hseats

theorem warmReturn_form (ext : Bool) (x : Part) : (warmReturn ext x).form = (rejoined ext x).form := by
  have hhost (y : Part) : (hostStart y).form = y.form := rfl
  have hpanels (y : Part) : (composer { all := true } y).form = y.form := by rw [composer_eq]
  rw [warmReturn_eq, hhost, hpanels]

theorem hold_role (x : Part) : (warmReturn false x).form.role =
    if (x.form.role = .leading ∨ x.form.role = .formingLeader) ∧ qualifyingEnd x.form = none then .formingFollower
    else x.form.role := by
  have h : (warmReturn false x).form.role = _ := resumeRole_role (sensing false x)
  rw [sensing_role, sensing_qualifyingEnd] at h
  exact h

theorem hold_record (x : Part) : (warmReturn false x).form.record.epoch = x.form.record.epoch ∧
    (x.form.role ≠ .standalone ∨ qualifyingEnd x.form = x.form.qualEnd → (warmReturn false x).form.record = x.form.record) := by
  have h : (warmReturn false x).form.record = _ := (resumeRole_form (sensing false x)).1
  rw [h]
  refine ⟨?_, fun hkept => ?_⟩
  · rw [(requalified_eval (sensing false x)).epoch, sensing_record]
  · rw [evalQualEnd_record, sensing_record]
    rw [sensing_role, sensing_qualifyingEnd, sensing_qualEnd]
    exact hkept

theorem hold_text (x : Part) : (warmReturn false x).text = x.text := by
  have hkept : Keeps [.est, .source, .form, .tallies, .views, .sensors, .seat, .panel, .disp, .host, .events, .line]
      (progressed false x) (warmReturn false x) := by
    rw [warmReturn_eq]
    exact Keeps.step hostStart_keeps rfl (Keeps.step composer_keeps rfl (Keeps.step (resumeRole_keeps (s := sensing false x)) rfl
      (Keeps.step (sensing_keeps false x) rfl .refl)))
  exact text_of_keeps (x := progressed false x) hkept (by decide)

theorem resumeRole_kept (x : Part) : NoticesKept x (resumeRole x) := by
  refine (evalQualEnd_kept x).trans ?_
  rw [resumeRole_eq]
  split
  · exact yieldLead_kept _
  · split
    · exact .of_panel rfl
    · exact startRollCall_kept _
    · exact .refl _
    · exact .of_panel rfl

theorem sensing_notices (ext : Bool) (x : Part) : NoticesKept x (sensing ext x) := by
  have hprog : NoticesKept x (progressed ext x) := .of_panel (panel_of_keeps (x := restored ext x) (progressed_keeps ext x) (by decide))
  exact hprog.trans ((estRecompute_kept _).trans (refreshSeats_kept (mapSensors (fun _ => {}) (estRecompute (progressed ext x)))))

theorem hold_notices (x : Part) : NoticesKept x (warmReturn false x) := by
  have hhost (y : Part) : NoticesKept y (hostStart y) := .of_panel rfl
  have hrole : rejoined false x = resumeRole (sensing false x) := if_neg nofun
  rw [warmReturn_eq, hrole]
  exact (sensing_notices false x).trans ((resumeRole_kept _).trans ((composer_kept _ _).trans (hhost _)))

/-! ### From EXTENDED_HOLD -/

/-- The part as it goes STANDALONE. -/
def leaving (x : Part) : Part := onForm (fun f => { f with qualEnd := qualifyingEnd f }) (sensing true x)

theorem rejoined_extended (x : Part) : rejoined true x = separate (leaving x) := by
  rw [rejoined, if_pos rfl, returnAlone, leaving]

theorem progressed_extended (x : Part) : progressed true x = staleProgress (restored true x) := by
  rw [progressed, if_pos rfl]

theorem extended_form (x : Part) : (warmReturn true x).form =
    { separated (leaving x) with trainTally := (separate (leaving x)).form.trainTally } := by
  rw [warmReturn_form, rejoined_extended]
  exact separate_form (leaving x)

/-- What the part that goes STANDALONE has kept of its state before. -/
theorem leaving_keeps (x : Part) :
    Keeps [.est, .panel, .disp, .tallies, .views, .seat, .sensors, .form] (progressed true x) (leaving x) := by
  rw [leaving]
  exact Keeps.step onForm_keeps rfl (sensing_keeps true x)

theorem routeInForce_staleProgress (x : Part) : routeInForce (staleProgress x).route = routeInForce x.route := by
  unfold staleProgress
  split
  · next h =>
    have hroute (z : Part) : (latch .progressStale z).route = z.route := (congrArg Part.route (latch_eq .progressStale z) :)
    rw [hroute]
    cases hs : x.route.prog.state <;> simp_all [underWay, routeInForce, setProg]
  · rfl

theorem leaving_route (x : Part) : (leaving x).route = (staleProgress (restored true x)).route := by
  rw [route_of_keeps (leaving_keeps x) (by decide) (by decide), progressed_extended]

theorem leaving_unit (x : Part) : (leaving x).unit = { x.unit with staging := none } := by
  rw [unit_of_keeps (leaving_keeps x) (by decide), unit_of_keeps (x := restored true x) (progressed_keeps true x) (by decide)]
  rfl

theorem extended_units (x : Part) :
    (warmReturn true x).form.record.units = [ownEntryNow { x with form := (warmReturn true x).form }] := by
  have hentry : ownEntryNow (leaving x) = ownEntryNow { x with form := (warmReturn true x).form } := by
    unfold ownEntryNow
    rw [leaving_unit, leaving_route, routeInForce_staleProgress, extended_form]
    rfl
  rw [← hentry, extended_form]
  rfl

theorem extended_epoch (x : Part) : (warmReturn true x).form.record.epoch = x.form.record.epoch := by
  have hrecord : (leaving x).form.record = (sensing true x).form.record := by
    rw [leaving, onForm_form]
  have hform : (warmReturn true x).form.record.epoch = (leaving x).form.record.epoch := by
    rw [extended_form]
    rfl
  rw [hform, hrecord, sensing_record]

theorem leaving_text (x : Part) : (leaving x).text = x.text := by
  rw [text_of_keeps (leaving_keeps x) (by decide), text_of_keeps (x := restored true x) (progressed_keeps true x) (by decide)]
  rfl

theorem separate_texts (x : Part) : SameTexts x.text (separate x).text := by
  rw [separate_def]
  exact recordEffects_texts _ (parting x)

theorem extended_texts (x : Part) : SameTexts x.text (warmReturn true x).text := by
  have h := separate_texts (leaving x)
  have htext : (warmReturn true x).text = (rejoined true x).text := by
    rw [warmReturn_eq]
    exact text_of_keeps (L := [.host, .events, .panel, .disp]) (Keeps.step hostStart_keeps rfl
      (Keeps.step composer_keeps rfl .refl)) (by decide)
  rw [htext, rejoined_extended]
  rw [leaving_text] at h
  exact h

theorem extended_slots (x : Part) (l : NoticeLevel) {i : Nat} (hi : i < 4) :
    (slotAt (warmReturn true x).panel l i).map bare =
      ((slotAt x.panel l i).map bare).filter fun v => !foreign x.unit.unitId v := by
  have hlast := (composer_kept { all := true } (rejoined true x)).same l i
  have hreturned : (warmReturn true x).panel = (composer { all := true } (rejoined true x)).panel := by
    rw [warmReturn_eq]
    exact panel_of_keeps (hostStart_keeps (s := composer { all := true } (rejoined true x))) (by decide)
  have hfirst := (sensing_notices true x).same l i
  have hslots := separate_slots (leaving x) l hi
  have hpanel : (leaving x).panel = (sensing true x).panel := by
    rw [leaving]
    exact panel_of_keeps onForm_keeps (by decide)
  rw [hpanel, hfirst, leaving_unit] at hslots
  rw [hreturned, hlast, rejoined_extended]
  exact hslots

theorem staleProgress_prog (x : Part) : (staleProgress x).route.prog =
    if underWay x.route.prog.state then { x.route.prog with
      stale := true, d := none, state := if x.route.prog.state == .approaching then .departed else x.route.prog.state }
    else x.route.prog := by
  unfold staleProgress
  split <;> rfl

theorem staleProgress_latched (x : Part) (h : underWay x.route.prog.state = true) :
    (staleProgress x).host.latched.getLsbD 7 = true := by
  unfold staleProgress
  rw [if_pos h]
  exact latched_of_latch (.inr (by decide))

theorem extended_prog (x : Part) : (warmReturn true x).route.prog =
    { (staleProgress (restored true x)).route.prog with source := (warmReturn true x).route.prog.source } := by
  have h := congrArg Route.prog (warmReturn_prog true x)
  rw [progressed_extended] at h
  exact h

/-! ### The command -/

/-- The part at the qualified return. -/
def mains (x : Part) : Part := onSupply (fun u => { u with mainBroken := false, qualifying := false }) x

theorem step_of_return {mv : Nat} (hmain : s.part.supply.mainBroken = true) (hq : s.part.supply.qualifying = true)
    (hmode : s.part.supply.mode = if ext then .extendedHold else .breakHold) :
    exec (.mainReturn mv) s = .next { s with part := finish (warmReturn ext (mains (quiet s.part))) } := by
  refine step_of_effect_bare ?_
  rw [effect, mainReturn_qualified (x := quiet s.part) hmain hq]
  cases ext
  · simp only [handleReturn, onSupply_supply, quiet_supply, hmode]
    rfl
  · simp only [handleReturn, onSupply_supply, quiet_supply, hmode]
    rfl

/-- A slot but for its rotation. -/
def still (v : Slot) : Slot := { v with rotation := { pages := [], index := 0, lang := 0, dwell := 0, inUse := false } }

theorem still_slots (h : NoticesKept x y) (l : NoticeLevel) :
    (slotsOf y.panel l).map (Option.map still) = (slotsOf x.panel l).map (Option.map still) := by
  have hview (q : Panels) : (slotsOf q l).map (Option.map still) =
      (noticesOf q l).map (Option.map still) := by
    rw [noticesOf, List.map_map]
    refine List.map_congr_left fun v _ => ?_
    cases v <;> rfl
  rw [hview, hview, h l]

/-- Own notices stay after EXTENDED_HOLD, those of other units are gone. -/
theorem extended_still (x : Part) (l : NoticeLevel) {i : Nat} (hi : i < 4) :
    (slotAt (warmReturn true x).panel l i).map still =
      match slotAt x.panel l i with
      | some v => if v.origin = none ∨ v.origin = some x.unit.unitId then some (still v) else none
      | none => none := by
  have hview (v : Option Slot) : v.map still = (v.map bare).map still := by cases v <;> rfl
  rw [hview, extended_slots x l hi]
  cases slotAt x.panel l i with
  | none => rfl
  | some v =>
    cases ho : v.origin with
    | none => simp [foreign, bare, ho, still]
    | some u => by_cases hu : u = x.unit.unitId <;> simp [foreign, bare, ho, hu, still]

theorem warmReturn_endpoints (ext : Bool) (x : Part) :
    (warmReturn ext x).disp.table.map (·.addr) = x.disp.table.map (·.addr) ∧ Fresh (warmReturn ext x).disp := by
  have hdrawn := (warmReturn_drawn ext x).table
  refine ⟨?_, (fresh_warmDisplay x.disp).drawn hdrawn⟩
  rw [addrs_of_lineEntry hdrawn, warmDisplay, List.map_map]
  rfl

/-- A train under way has not reported its place since the break. -/
theorem extended_progress (x : Part) :
    (warmReturn true x).route.prog.p = x.route.prog.p ∧ (warmReturn true x).route.prog.n = x.route.prog.n ∧
      (underWay x.route.prog.state = true → (warmReturn true x).route.prog.stale = true ∧
        (warmReturn true x).route.prog.d = none ∧ (warmReturn true x).host.latched.getLsbD 7 = true ∧
        (warmReturn true x).route.prog.state =
          if x.route.prog.state = .approaching then .departed else x.route.prog.state) := by
  have hroute : (restored true x).route = x.route := rfl
  have hlatched : underWay x.route.prog.state = true → (warmReturn true x).host.latched.getLsbD 7 = true := fun h => by
    rw [warmReturn_latched, progressed_extended, BitVec.getLsbD_or, staleProgress_latched (restored true x) (by exact h)]
    rfl
  rw [extended_prog, staleProgress_prog, hroute]
  split
  · next h => exact ⟨rfl, rfl, fun _ => ⟨rfl, rfl, hlatched h, by simp⟩⟩
  · next h => exact ⟨rfl, rfl, fun hway => absurd hway h⟩

/-- Settles O27: in both holds the qualified return runs the steps of a warm return, and each of them leaves what the statement
names; they differ in the progress record of the first step and in the role of the sixth. -/
theorem aReturnFromAHoldIsWarm : Obligations.AReturnFromAHoldIsWarm := by
  intro s mv hmode hmain hq
  obtain ⟨ext, hext⟩ : ∃ ext : Bool, s.part.supply.mode = if ext then .extendedHold else .breakHold :=
    hmode.elim (fun h => ⟨false, h⟩) fun h => ⟨true, h⟩
  refine ⟨_, step_of_return hmain hq hext, rfl, ?_⟩
  simp only [finish_supply, finish_latched, finish_params, finish_unit, finish_route, finish_res, finish_table, finish_seat,
    finish_text, finish_panel, finish_form]
  obtain ⟨haddrs, hfresh⟩ := warmReturn_endpoints ext (mains (quiet s.part))
  refine ⟨?_, ?_, warmReturn_params _ _, warmReturn_unit _ _, ?_, ?_, ?_, ?_, warmReturn_legs _ _, haddrs, hfresh,
    fun c p v hv => warmReturn_sensors _ _ hv, fun hbreak => ?_, fun hextended => ?_⟩
  · rw [warmReturn_supply]
    cases ext <;> simp [restored, mains, hext]
  · rw [warmReturn_latched, BitVec.getLsbD_or]
    simp
  · rw [warmReturn_route]
    rfl
  · rw [warmReturn_route]
    rfl
  · rw [warmReturn_route]
    rfl
  · rw [warmReturn_route]
    rfl
  · obtain rfl : ext = false := by
      cases ext
      · rfl
      · exact absurd (hbreak.symm.trans hext) nofun
    have hnotices := hold_notices (mains (quiet s.part))
    obtain ⟨hepoch, hrecord⟩ := hold_record (mains (quiet s.part))
    exact ⟨congrArg Route.prog (warmReturn_prog false (mains (quiet s.part))), hold_text _, still_slots hnotices .staff,
      still_slots hnotices .service, hold_role _, hepoch, hrecord⟩
  · obtain rfl : ext = true := by
      cases ext
      · exact absurd (hextended.symm.trans hext) nofun
      · rfl
    obtain ⟨hp, hn, hway⟩ := extended_progress (mains (quiet s.part))
    refine ⟨?_, extended_epoch _, ?_, extended_texts _, fun l i hi => extended_still _ l hi, hp, hn, hway⟩
    · rw [extended_form]
      rfl
    · rw [extended_units]
      exact congrArg (fun e => [e]) (ownEntryNow_congr rfl rfl rfl)

end Sys2Proof.Proofs.Resumption
end

section
/-! The legs of a journey: departures set deadlines, arrivals free and open, a new portion tag orphans and restores. -/
namespace Sys2Proof.Proofs.LegChanges
open Sys2Proof Sys2Proof.Machine Effects Requests ConfigGet Owners Events OwnEntries Changes Journey Claims Driver

variable {s : State} {x y z : Part} {k p : Nat} {t : ClockTime} {tag : Byte} {body : List Byte}

/-! ### Progress messages taken -/

theorem step_of_departed (h : Accepts s tag) (hbody : readIndexTime body = some (k, t)) (hk : k ≤ 63) (hday : t.day ≤ 1)
    (ht : t.ok = true) (hsource : s.part.route.prog.source = .own)
    (hstood : (s.part.route.prog.state = .standing ∧ s.part.route.prog.p = some k) ∨
      (s.part.route.prog.state = .halted ∧ s.part.route.prog.halt = some k)) :
    exec (.departed tag body) s =
      .next { s with part := finish (answer tag .ok [] (takeDeparted t.seconds (handed 0x0E#8 tag s.part))) } := by
  have hc : effect (.departed tag body) (quiet s.part) = hostRequest 0x0E#8 tag (some (k, t)) ownDeparted (quiet s.part) := by
    rw [← hbody]
    rfl
  have hfrom : departsFrom s.part.route.prog = some k := departsFrom_eq_some_iff.mpr hstood
  have hown : ownDeparted (k, t) (handed 0x0E#8 tag s.part) = taken (takeDeparted t.seconds (handed 0x0E#8 tag s.part)) :=
    (message_good hk hday ht hsource).trans ((checked_next (by simp [hfrom])).trans checked_nil)
  obtain ⟨u, hexec, rfl, -, -⟩ := step_of_taken h hc rfl hown (takeDeparted_leaves ..)
  exact hexec

theorem step_of_arrived (h : Accepts s tag) (hbody : readIndexTime body = some (k, t)) (hk : k ≤ 63) (hday : t.day ≤ 1)
    (ht : t.ok = true) (hsource : s.part.route.prog.source = .own)
    (hstate : s.part.route.prog.state = .departed ∨ s.part.route.prog.state = .approaching)
    (hp : s.part.route.prog.p = some p) (hpk : p < k) (hlen : k < s.part.route.stops.length)
    (hplace : k ∈ s.part.route.ownSeq ∨ k ≤ s.part.route.ownSeq.getLast?.getD 0) :
    exec (.arrived tag body) s =
      .next { s with part := finish (answer tag .ok [] (takeArrived k t.seconds (handed 0x0F#8 tag s.part))) } := by
  have hc : effect (.arrived tag body) (quiet s.part) = hostRequest 0x0F#8 tag (some (k, t)) ownArrived (quiet s.part) := by
    rw [← hbody]
    rfl
  have hrunning : running s.part.route.prog.state = true := by
    obtain hs | hs := hstate <;> simp [running, hs]
  have hgood : arrivalBad s.part.route k = false := by
    rw [← Bool.not_eq_true, arrivalBad_iff, hp, Option.getD_some]
    rintro (hover | hback | ⟨hlast, hnot⟩)
    · omega
    · omega
    · exact hplace.elim hnot fun hle => absurd hle (Nat.not_le.mpr hlast)
  have hown : ownArrived (k, t) (handed 0x0F#8 tag s.part) = taken (takeArrived k t.seconds (handed 0x0F#8 tag s.part)) :=
    (ownArrived_eq (x := handed 0x0F#8 tag s.part) hk hday ht hsource).trans ((checked_next (by simp [hrunning])).trans
      ((checked_next hgood).trans checked_nil))
  obtain ⟨u, hexec, rfl, -, -⟩ := step_of_taken h hc rfl hown (takeArrived_leaves ..)
  exact hexec

/-! ### Departures -/

theorem mapReleasing_legs (f : Leg → Leg) (x : Part) : (mapReleasing f x).res.legs = x.res.legs.map f := by
  rw [mapReleasing_res]

/-- A leg as a departure leaves it, once its deadline is set. -/
def departedLeg (x : Part) (t : Nat) (l : Leg) : Leg :=
  let w := x.host.params.claimWindow
  let l' := if l.phase == .opened && !l.noRelease && 0 < w && x.route.clockSet then
    { l with phase := .timed (min Config.clockTop (t + 60 * w)) } else l
  if deadlineReached x.route.clock l' then decideLeg x l' else l'

theorem setDeadlines_legs (t : Nat) (x : Part) : (setDeadlines t x).res.legs = x.res.legs.map (departedLeg x t) := by
  unfold setDeadlines decideDeadlines
  rw [mapReleasing_legs, mapLegs, List.map_map]
  rfl

/-- In RUN, where no deadline was reached before. -/
theorem departedLeg_eq {l : Leg} {t : Nat} (hrun : isRun x = true) (h : ∀ d, l.phase = .timed d → x.route.clock < d) :
    departedLeg x t l =
      let w := x.host.params.claimWindow
      let d := min 172799 (t + 60 * w)
      if l.phase = .opened ∧ l.noRelease = false ∧ 0 < w ∧ x.route.clockSet = true then
        if x.route.clock < d then { l with phase := .timed d }
        else if evidenceFresh x.seat l.coach l.seat = true then
          (if seatOccupied x.seat l.coach l.seat = true then { l with state := .claimed, phase := .done }
           else { l with state := .released, phase := .done })
        else { l with phase := .deferred 0 }
      else l := by
  have hcond : (l.phase == .opened && !l.noRelease && decide (0 < x.host.params.claimWindow) && x.route.clockSet) = true ↔
      l.phase = .opened ∧ l.noRelease = false ∧ 0 < x.host.params.claimWindow ∧ x.route.clockSet = true := by
    simp [and_assoc]
  have htop : Config.clockTop = 172799 := rfl
  unfold departedLeg
  dsimp only
  by_cases hset : l.phase = .opened ∧ l.noRelease = false ∧ 0 < x.host.params.claimWindow ∧ x.route.clockSet = true
  · rw [if_pos (hcond.mpr hset), if_pos hset, deadlineReached, decideLeg, hrun, htop, Bool.true_and]
    by_cases hclock : x.route.clock < min 172799 (t + 60 * x.host.params.claimWindow)
    · rw [if_pos hclock, if_neg (by simpa using hclock)]
    · rw [if_neg hclock, if_pos (decide_eq_true (Nat.not_lt.mp hclock))]
  · rw [if_neg (fun hc => hset (hcond.mp hc)), if_neg hset, deadlineReached]
    cases hphase : l.phase with
    | timed d => rw [if_neg (by simpa using h d hphase)]
    | _ => rfl

/-! ### Arrivals -/

theorem openWindows_legs (k : Nat) (x : Part) : (openWindows k x).res.legs = x.res.legs.map fun l =>
    if l.state = .booked ∧ l.phase = .ahead ∧ l.frm ≤ k then
      { l with phase := if sensorFitted x.unit l.coach l.seat = true then .opened else .done } else l := by
  refine List.map_congr_left fun l _ => ?_
  simp only [openedPhase, Bool.and_eq_true, beq_iff_eq, decide_eq_true_eq, and_assoc]

theorem freeFinished_legs (hp : x.route.prog.p = some p) :
    (freeFinished x).res.legs = x.res.legs.filter fun l => decide (p < l.till) := by
  rw [freeFinished, hp]
  refine List.filter_congr fun l _ => ?_
  rw [Bool.eq_iff_iff]
  simp

theorem freeFinished_unit (x : Part) : (freeFinished x).unit = x.unit := unit_of_keeps freeFinished_keeps (by decide)

/-! ### Orphans and their restoration -/

/-- A leg restored. -/
def restoredLeg (x : Part) (p : Nat) (l : Leg) : Leg :=
  { l with state := .booked, phase := restoredPhase x.unit x.route.prog p l }

/-- The leg is one that the restoration may book again. -/
def restorable (x : Part) (p : Nat) (l : Leg) : Bool := l.state == .orphaned && stopsCall x.route.ownSeq l && decide (p < l.till)

theorem restoreLegs_cons (x : Part) (p : Nat) (done : List Leg) (l : Leg) (rest : List Leg) :
    restoreLegs x p done (l :: rest) = restoreLegs x p
      ((if restorable x p l && !meetsActive l (done ++ rest) then restoredLeg x p l else l) :: done) rest := by
  rw [restoreLegs]
  by_cases h : (restorable x p l && !meetsActive l (done ++ rest)) = true
  · rw [if_pos h, if_pos (by exact h)]
    rfl
  · rw [if_neg h, if_neg (by exact h)]

/-- What has passed and what is no orphan that calls stays as it is. -/
theorem mem_restoreLegs {l : Leg} {rest : List Leg} (done : List Leg)
    (h : l ∈ done ∨ (l ∈ rest ∧ restorable x p l = false)) : l ∈ restoreLegs x p done rest := by
  induction rest generalizing done with
  | nil =>
    rw [restoreLegs, List.mem_reverse]
    exact h.resolve_right fun hl => absurd hl.1 List.not_mem_nil
  | cons m rest ih =>
    rw [restoreLegs_cons]
    refine ih _ ?_
    obtain hdone | ⟨hrest, hno⟩ := h
    · exact .inl (List.mem_cons_of_mem _ hdone)
    · obtain rfl | hrest := List.mem_cons.mp hrest
      · rw [hno, Bool.false_and, if_neg Bool.false_ne_true]
        exact .inl List.mem_cons_self
      · exact .inr ⟨hrest, hno⟩

/-- Two legs of one seat over a common range. -/
def meets (m l : Leg) : Prop := m.sameSeat l = true ∧ m.overlaps l = true

theorem meetsActive_none {l : Leg} {ms : List Leg} : meetsActive l ms = false ↔ ∀ m ∈ ms, m.active = true → ¬ meets m l := by
  simp only [meetsActive, List.any_eq_false, meets, Bool.and_eq_true, not_and, and_imp]

/-- An orphan that calls is booked again where no leg of its seat over its range is active or may be restored before it. -/
theorem restored_mem {l : Leg} (hl : restorable x p l = true) (done pre post : List Leg) (hfirst : l ∉ pre)
    (hdone : ∀ m ∈ done, m.active = true → ¬ meets m l)
    (hrest : ∀ m ∈ pre ++ post, m ≠ l → meets m l → m.active = false ∧ restorable x p m = false) :
    restoredLeg x p l ∈ restoreLegs x p done (pre ++ l :: post) := by
  have horphan : l.state = .orphaned := by simpa [restorable, and_assoc] using And.left (by simpa [restorable, and_assoc] using hl)
  induction pre generalizing done with
  | nil =>
    have hclear : meetsActive l (done ++ post) = false := by
      refine meetsActive_none.mpr fun m hm hact hmeet => ?_
      obtain hm | hm := List.mem_append.mp hm
      · exact hdone m hm hact hmeet
      · by_cases heq : m = l
        · rw [heq, Leg.active, horphan] at hact
          exact absurd hact nofun
        · exact absurd ((hrest m hm heq hmeet).1.symm.trans hact) nofun
    rw [List.nil_append, restoreLegs_cons, if_pos (by rw [hl, hclear]; rfl)]
    exact mem_restoreLegs _ (.inl List.mem_cons_self)
  | cons m pre ih =>
    have hne : m ≠ l := fun heq => hfirst (heq ▸ List.mem_cons_self)
    rw [List.cons_append, restoreLegs_cons]
    refine ih _ (fun h => hfirst (List.mem_cons_of_mem _ h)) (fun m' hm' => ?_)
      fun m' hm' => hrest m' (List.mem_cons_of_mem _ hm')
    obtain rfl | hm' := List.mem_cons.mp hm'
    · intro hact hmeet
      have hm : meets m l := by
        split at hmeet
        · exact hmeet
        · exact hmeet
      obtain ⟨hidle, hno⟩ := hrest m List.mem_cons_self hne hm
      rw [hno, Bool.false_and, if_neg Bool.false_ne_true] at hact
      exact absurd (hidle.symm.trans hact) nofun
    · exact hdone m' hm'

/-- A leg that the sequence no longer carries is ORPHANED. -/
def orphanedLeg (seq : List Nat) (l : Leg) : Leg :=
  if l.active && !stopsCall seq l then { l with state := .orphaned, phase := .done } else l

/-- The legs that the sequence no longer carries. -/
def lostLegs (seq : List Nat) (legs : List Leg) : List Leg := legs.filter fun l => l.active && !stopsCall seq l

theorem noteOrphans_res (n : Nat) (x : Part) : (noteOrphans n x).res =
    { x.res with orphanCount := if n = 0 then x.res.orphanCount else min 65535 (x.res.orphanCount + n) } := by
  unfold noteOrphans
  split
  · rfl
  · rw [latch_eq]
    rfl

theorem noteOrphans_latched {n : Nat} (h : n ≠ 0) (x : Part) : (noteOrphans n x).host.latched.getLsbD 10 = true := by
  rw [noteOrphans, if_neg h]
  exact latched_of_latch (.inr (by decide))

theorem orphanPass_eq (x : Part) : orphanPass x =
    noteOrphans (lostLegs x.route.ownSeq x.res.legs).length (mapLegs (orphanedLeg x.route.ownSeq) x) := rfl

theorem orphanPass_res (x : Part) : (orphanPass x).res.legs = x.res.legs.map (orphanedLeg x.route.ownSeq) ∧
    (orphanPass x).res.orphanCount = if lostLegs x.route.ownSeq x.res.legs = [] then x.res.orphanCount
      else min 65535 (x.res.orphanCount + (lostLegs x.route.ownSeq x.res.legs).length) := by
  rw [orphanPass_eq, noteOrphans_res]
  simp only [List.length_eq_zero_iff]
  exact ⟨rfl, rfl⟩

theorem orphanPass_keeps (x : Part) : Keeps [.legs, .host, .events] x (orphanPass x) := by
  have hnote : Leaves [.legs, .host, .events] x (orphanPass x) := by
    rw [orphanPass_eq]
    exact .step noteOrphans_leaves rfl (.step mapLegs_leaves rfl (.refl _))
  exact hnote.keeps

/-- The legs after a re-derived sequence. -/
theorem rederived_legs (hp : x.route.prog.p = some p) :
    (handleNotes [.rederived] x).res.legs = (restoreLegs (orphanPass x) p []
      (x.res.legs.map (orphanedLeg x.route.ownSeq))).filter fun l => decide (p < l.till) := by
  have hroute : (orphanPass x).route = x.route := route_of_keeps (orphanPass_keeps x) (by decide) (by decide)
  have hpass : restorePass (orphanPass x) = { orphanPass x with res := { (orphanPass x).res with
      legs := restoreLegs (orphanPass x) p [] (orphanPass x).res.legs } } := by
    have hhere : (orphanPass x).route.prog.p = some p := by rw [hroute, hp]
    rw [restorePass, hhere]
  have hnotes : handleNotes [.rederived] x = freeFinished (restorePass (orphanPass x)) := rfl
  have hplace : (restorePass (orphanPass x)).route.prog.p = some p := by
    rw [hpass]
    exact (congrArg (fun r : Route => r.prog.p) hroute).trans hp
  rw [hnotes, freeFinished_legs hplace, hpass, (orphanPass_res x).1]

theorem rederived_rest (x : Part) : (handleNotes [.rederived] x).res.orphanCount = (orphanPass x).res.orphanCount ∧
    (handleNotes [.rederived] x).host.latched = (orphanPass x).host.latched := by
  have hnotes : handleNotes [.rederived] x = freeFinished (restorePass (orphanPass x)) := rfl
  rw [hnotes]
  unfold freeFinished restorePass
  constructor
  · (repeat' split) <;> rfl
  · (repeat' split) <;> rfl

section
variable {seq : List Nat} {l m : Leg}

theorem orphanedLeg_lost (hact : l.active = true) (hcall : stopsCall seq l = false) :
    orphanedLeg seq l = { l with state := .orphaned, phase := .done } := by
  rw [orphanedLeg, if_pos (by rw [hact, hcall]; rfl)]

theorem orphanedLeg_stays (h : l.active = false ∨ stopsCall seq l = true) : orphanedLeg seq l = l := by
  rw [orphanedLeg, if_neg]
  obtain h | h := h <;> simp [h]

/-- What the new sequence makes of the legs that stay in the pool. -/
theorem rederived_mem (hp : x.route.prog.p = some p) (hl : l ∈ x.res.legs) (hahead : p < l.till) :
    (l.state = .released → l ∈ (handleNotes [.rederived] x).res.legs) ∧
    (l.active = true → stopsCall x.route.ownSeq l = true → l ∈ (handleNotes [.rederived] x).res.legs) ∧
    (l.active = true → stopsCall x.route.ownSeq l = false →
      { l with state := .orphaned, phase := .done } ∈ (handleNotes [.rederived] x).res.legs) := by
  have hroute : (orphanPass x).route = x.route := route_of_keeps (orphanPass_keeps x) (by decide) (by decide)
  have hstays (v : Leg) (hv : orphanedLeg x.route.ownSeq l = v) (htill : v.till = l.till)
      (hno : restorable (orphanPass x) p v = false) : v ∈ (handleNotes [.rederived] x).res.legs := by
    rw [rederived_legs hp]
    refine List.mem_filter.mpr ⟨mem_restoreLegs _ (.inr ⟨hv ▸ List.mem_map_of_mem hl, hno⟩), ?_⟩
    rw [htill]
    exact decide_eq_true hahead
  refine ⟨fun hrel => hstays l (orphanedLeg_stays (.inl ?_)) rfl ?_,
    fun hact hcall => hstays l (orphanedLeg_stays (.inr hcall)) rfl ?_,
    fun hact hcall => hstays _ (orphanedLeg_lost hact hcall) rfl ?_⟩
  · rw [Leg.active, hrel]
    rfl
  · rw [restorable, hrel]
    rfl
  · have hnot : (l.state == .orphaned) = false := by
      cases hs : l.state <;> simp_all [Leg.active]
    rw [restorable, hnot]
    rfl
  · rw [restorable, hroute]
    have hcalls : stopsCall x.route.ownSeq { l with state := .orphaned, phase := .done } = false := hcall
    rw [hcalls, Bool.and_false, Bool.false_and]

/-- An orphan that calls and that no leg of its seat stands against is booked again. -/
theorem rederived_restored (hp : x.route.prog.p = some p) (hl : l ∈ x.res.legs) (hahead : p < l.till)
    (horphan : l.state = .orphaned) (hcall : stopsCall x.route.ownSeq l = true)
    (hclear : ∀ m ∈ x.res.legs, m ≠ l → meets m l → m.state = .released ∨ (m.active = true ∧ stopsCall x.route.ownSeq m = false)) :
    restoredLeg x p l ∈ (handleNotes [.rederived] x).res.legs := by
  have hroute : (orphanPass x).route = x.route := route_of_keeps (orphanPass_keeps x) (by decide) (by decide)
  have hunit : (orphanPass x).unit = x.unit := unit_of_keeps (orphanPass_keeps x) (by decide)
  have hable : restorable (orphanPass x) p l = true := by
    rw [restorable, hroute, horphan, hcall, decide_eq_true hahead]
    rfl
  have hstay : orphanedLeg x.route.ownSeq l = l := orphanedLeg_stays (.inr hcall)
  have hmem : l ∈ x.res.legs.map (orphanedLeg x.route.ownSeq) := List.mem_map.mpr ⟨l, hl, hstay⟩
  obtain ⟨pre, post, hsplit, hfirst⟩ := List.eq_append_cons_of_mem hmem
  have hrest : ∀ m ∈ pre ++ post, m ≠ l → meets m l → m.active = false ∧ restorable (orphanPass x) p m = false := by
    intro m hm hne hmeet
    have hall : m ∈ x.res.legs.map (orphanedLeg x.route.ownSeq) := by
      rw [hsplit]
      exact List.mem_append.mpr ((List.mem_append.mp hm).imp id (List.mem_cons_of_mem _))
    obtain ⟨m0, hm0, rfl⟩ := List.mem_map.mp hall
    have hne0 : m0 ≠ l := by
      rintro rfl
      exact hne hstay
    have hmeet0 : meets m0 l := by
      unfold orphanedLeg at hmeet
      split at hmeet
      · exact hmeet
      · exact hmeet
    obtain hrel | ⟨hact, hlost⟩ := hclear m0 hm0 hne0 hmeet0
    · have hidle : m0.active = false := by
        rw [Leg.active, hrel]
        rfl
      rw [orphanedLeg_stays (.inl hidle)]
      refine ⟨hidle, ?_⟩
      rw [restorable, hrel]
      rfl
    · have hcalls : stopsCall x.route.ownSeq { m0 with state := .orphaned, phase := .done } = false := hlost
      rw [orphanedLeg_lost hact hlost, restorable, hroute, hcalls, Bool.and_false, Bool.false_and]
      exact ⟨rfl, rfl⟩
  have hback := restored_mem hable [] pre post hfirst (fun m hm => absurd hm List.not_mem_nil) hrest
  have hsame : restoredLeg (orphanPass x) p l = restoredLeg x p l := by
    rw [restoredLeg, restoredLeg, hroute, hunit]
  rw [← hsplit, hsame] at hback
  rw [rederived_legs hp]
  exact List.mem_filter.mpr ⟨hback, decide_eq_true hahead⟩

end

/-- The part on the new calling sequence, its position placed anew. -/
def rerouted (k : Nat) (x : Part) : Part := { x with unit := { x.unit with portionTag := k }, route := placedRoute k x.route }

theorem retagged_handOff (h : hasRoute x.route.prog.state = true) : ∃ cause, retagged k x =
    handOff (restateNotes x.route.prog.state (rerouted k x).route.prog.state) cause (rerouted k x) := by
  unfold retagged restatePortion
  rw [if_pos h, rerouted, placedRoute, if_pos h]
  exact ⟨_, rfl⟩

/-- The restatement that does not end the journey. -/
theorem restateNotes_placed {g : Progress} {y : Placed} (hy : y.state ≠ .terminated) :
    restateNotes g.state (restated g (some y)).state = [.rederived] := by
  rw [restated_some, restateNotes]
  dsimp only
  split
  · simp
  · simp [hy]

/-! ### The three messages -/

theorem departure_legs (h : Accepts s tag) (hbody : readIndexTime body = some (k, t)) (hk : k ≤ 63) (hday : t.day ≤ 1)
    (ht : t.ok = true) (hsource : s.part.route.prog.source = .own) :
    (s.part.route.prog.state = .standing → s.part.route.prog.p = some k →
      ∃ u, exec (.departed tag body) s = .next u ∧
        u.part.res.legs = s.part.res.legs.map (departedLeg (handed 0x0E#8 tag s.part) t.seconds)) ∧
    (s.part.route.prog.state = .halted → s.part.route.prog.halt = some k →
      ∃ u, exec (.departed tag body) s = .next u ∧ u.part.res.legs = s.part.res.legs) := by
  refine ⟨fun hstate hp => ⟨_, step_of_departed h hbody hk hday ht hsource (.inl ⟨hstate, hp⟩), ?_⟩,
    fun hstate hhalt => ⟨_, step_of_departed h hbody hk hday ht hsource (.inr ⟨hstate, hhalt⟩), ?_⟩⟩
  · simp only [finish_res, answer_res]
    rw [takeDeparted, (handOff_legs ..).1]
    have hstood : ((handed 0x0E#8 tag s.part).route.prog.state == PState.standing) = true := by
      rw [handed_route, hstate]
      rfl
    rw [hstood]
    exact setDeadlines_legs ..
  · simp only [finish_res, answer_res]
    rw [takeDeparted, (handOff_legs ..).1]
    have hstood : ((handed 0x0E#8 tag s.part).route.prog.state == PState.standing) = false := by
      rw [handed_route, hstate]
      rfl
    rw [hstood]
    rfl

theorem arrival_legs_stop {v : Nat} (hmem : k ∈ x.route.ownSeq) (hnext : firstAfter x.route.ownSeq k ≠ none) :
    (takeArrived k v x).res.legs = (x.res.legs.filter fun l => decide (k < l.till)).map fun l =>
      if l.state = .booked ∧ l.phase = .ahead ∧ l.frm ≤ k then
        { l with phase := if sensorFitted x.unit l.coach l.seat = true then .opened else .done } else l := by
  have hgoes : arrivalNotes (arrivedAt x.route k v) = [] := by
    have hstanding : (arrivedAt x.route k v).state = .standing := by
      rw [arrivedAt]
      exact if_pos (Option.isSome_iff_ne_none.mpr hnext)
    rw [arrivalNotes, hstanding]
    rfl
  have hnotes : handleNotes [.arrival k] (setProg (arrivedAt x.route k v) x) =
      openWindows k (freeFinished (setProg (arrivedAt x.route k v) x)) := rfl
  rw [takeArrived_stop v hmem, hgoes, (handOff_legs ..).1, hnotes, openWindows_legs, freeFinished_unit,
    freeFinished_legs (p := k) rfl]
  rfl

theorem arrival_legs_halt {v : Nat} (hmem : k ∉ x.route.ownSeq) (hp : (haltedAt x.route k).p = some p) :
    (takeArrived k v x).res.legs = x.res.legs.filter fun l => decide (p < l.till) := by
  have hnotes : handleNotes [.halt] (setProg (haltedAt x.route k) x) = freeFinished (setProg (haltedAt x.route k) x) := rfl
  rw [takeArrived_halt v hmem, (handOff_legs ..).1, hnotes, freeFinished_legs hp]
  rfl

/-- The legs, the orphan count and the latch after PORTION-SET are those of the re-derived sequence. -/
theorem takePortion_legs {y : Placed} (hroute : hasRoute x.route.prog.state = true) (hy : y.state ≠ .terminated)
    (hplace : placeAgain (callSeq x.route.stops k) x.route.prog = some y) :
    (takePortion k x).res.legs = (handleNotes [.rederived] (rerouted k x)).res.legs ∧
      (takePortion k x).res.orphanCount = (handleNotes [.rederived] (rerouted k x)).res.orphanCount ∧
      (takePortion k x).host.latched = (handleNotes [.rederived] (rerouted k x)).host.latched := by
  obtain ⟨cause, heq⟩ := retagged_handOff (k := k) hroute
  have hnotes : restateNotes x.route.prog.state (rerouted k x).route.prog.state = [.rederived] := by
    rw [rerouted, placedRoute, if_pos hroute, hplace]
    exact restateNotes_placed hy
  rw [hnotes] at heq
  have hkept := takePortion_keeps_retagged k x
  obtain ⟨hlegs, -, hcount⟩ := legs_of_keeps hkept (by decide)
  have hlatched := latched_of_keeps hkept (by decide)
  rw [heq] at hlegs hcount hlatched
  obtain ⟨hlegs', -, hcount'⟩ := handOff_legs [.rederived] cause (rerouted k x)
  exact ⟨hlegs.trans hlegs', hcount.trans hcount',
    hlatched.trans (latched_of_keeps (handOff_after [.rederived] cause (rerouted k x)) (by decide))⟩

theorem rerouted_route {y : Placed} (hroute : hasRoute x.route.prog.state = true)
    (hplace : placeAgain (callSeq x.route.stops k) x.route.prog = some y) :
    (rerouted k x).route.ownSeq = callSeq x.route.stops k ∧ (rerouted k x).route.prog.p = some y.p := by
  rw [rerouted, placedRoute, if_pos hroute, hplace]
  exact ⟨rfl, rfl⟩

theorem restoredPhase_eq (u : UnitDesc) (g : Progress) (p : Nat) (l : Leg) : restoredPhase u g p l =
    if p < l.frm then .ahead
    else if l.frm = p ∧ g.state = .standing then (if sensorFitted u l.coach l.seat = true then .opened else .done)
    else .done := by
  simp only [restoredPhase, openedPhase, Bool.and_eq_true, beq_iff_eq]

/-- A portion change: the tag is taken, and the legs are those of the re-derived sequence. -/
theorem step_of_portion {f : Byte} (h : Accepts s tag) (hsmall : f.toNat ≤ 2) (hnew : f.toNat ≠ s.part.unit.portionTag) :
    exec (.portionSet tag [f]) s =
      .next { s with part := finish (answer tag .ok [] (takePortion f.toNat (handed 0x05#8 tag s.part))) } := by
  have hc : effect (.portionSet tag [f]) (quiet s.part) = hostRequest 0x05#8 tag (some f.toNat) ownPortionSet (quiet s.part) := rfl
  have hown : ownPortionSet f.toNat (handed 0x05#8 tag s.part) = taken (takePortion f.toNat (handed 0x05#8 tag s.part)) := by
    rw [ownPortionSet, if_neg (Nat.not_lt.mpr hsmall), if_neg (by rw [handed_unit]; exact hnew)]
  obtain ⟨u, hexec, rfl, -, -⟩ := step_of_taken h hc rfl hown (takePortion_leaves ..)
  exact hexec

/-- Settles O54: each message by the legs that its notification leaves. -/
theorem legsFollowTheJourney : Obligations.LegsFollowTheJourney := by
  refine ⟨fun s tag body k t h hbody hk hday ht hsource => ?departed,
    fun s tag body k p t h hbody hk hday ht hsource hstate hp hpk hlen => ⟨fun hmem hnext => ?stop, fun hmem hle => ?halt⟩,
    fun s tag f y h hsmall hnew hroute hy hplace => ?portion⟩
  case departed =>
    obtain ⟨hstop, hhalt⟩ := departure_legs h hbody hk hday ht hsource
    refine ⟨fun hstate hp hbefore => ?_, hhalt⟩
    obtain ⟨u, hexec, hlegs⟩ := hstop hstate hp
    have hrun : isRun (handed 0x0E#8 tag s.part) = true := by
      rw [isRun, handed_supply, h.1]
      rfl
    refine ⟨u, hexec, hlegs.trans (List.map_congr_left fun l hl => ?_)⟩
    exact departedLeg_eq (x := handed 0x0E#8 tag s.part) hrun (hbefore l hl)
  case stop =>
    refine ⟨_, step_of_arrived h hbody hk hday ht hsource hstate hp hpk hlen (.inl hmem), ?_⟩
    simp only [finish_res, answer_res]
    exact arrival_legs_stop (x := handed 0x0F#8 tag s.part) hmem hnext
  case halt =>
    obtain ⟨hlast, -, -⟩ := haltedAt_of_p (v := s.part.route) hp k
    refine ⟨_, step_of_arrived h hbody hk hday ht hsource hstate hp hpk hlen (.inr hle), ?_⟩
    simp only [finish_res, answer_res, finish_route, answer_route]
    rw [takeArrived_prog_halt (x := handed 0x0F#8 tag s.part) _ hmem, arrival_legs_halt (x := handed 0x0F#8 tag s.part) hmem hlast]
    simp only [handed_route, hlast, Option.getD_some]
    rfl
  case portion =>
    have hx : hasRoute (handed 0x05#8 tag s.part).route.prog.state = true := hroute
    have hplaced : placeAgain (callSeq (handed 0x05#8 tag s.part).route.stops f.toNat) (handed 0x05#8 tag s.part).route.prog = some y :=
      hplace
    obtain ⟨hlegs, hcount, hlatched⟩ := takePortion_legs hx hy hplaced
    obtain ⟨hseq, hpos⟩ := rerouted_route hx hplaced
    refine ⟨_, step_of_portion h hsmall hnew, ?_⟩
    simp only [finish_res, answer_res, finish_latched, answer_latched, finish_route, answer_route]
    rw [hlegs, hcount, hlatched]
    have hlost : lostLegs (rerouted f.toNat (handed 0x05#8 tag s.part)).route.ownSeq s.part.res.legs = s.part.res.legs.filter fun l =>
        l.active && !((callSeq s.part.route.stops f.toNat).contains l.frm && (callSeq s.part.route.stops f.toNat).contains l.till) := by
      rw [hseq]
      rfl
    obtain ⟨hcounted, hlatch⟩ := rederived_rest (rerouted f.toNat (handed 0x05#8 tag s.part))
    refine ⟨fun l hl => ?_, ?_, fun hne => ?_, fun l hl hahead => ?_⟩
    · rw [rederived_legs hpos] at hl
      exact of_decide_eq_true (List.mem_filter.mp hl).2
    · rw [hcounted, (orphanPass_res _).2]
      simp only [← hlost]
      rfl
    · rw [← hlost] at hne
      rw [hlatch, orphanPass_eq]
      exact noteOrphans_latched (fun hz => hne (List.length_eq_zero_iff.mp hz)) _
    · obtain ⟨hreleased, hactive, hgone⟩ := rederived_mem (x := rerouted f.toNat (handed 0x05#8 tag s.part)) hpos hl hahead
      rw [hseq] at hactive hgone
      refine ⟨hreleased, hactive, hgone, fun horphan hcall hclear => ?_⟩
      have hback := rederived_restored (x := rerouted f.toNat (handed 0x05#8 tag s.part)) hpos hl hahead horphan
        (by rw [hseq]; exact hcall) fun m hm hne hmeet => by
          obtain ⟨hseat, hover⟩ := hmeet
          simp only [Leg.sameSeat, Leg.overlaps, Bool.and_eq_true, beq_iff_eq, decide_eq_true_eq] at hseat hover
          rw [hseq]
          exact hclear m hm hne hseat.1 hseat.2 hover.1 hover.2
      rw [restoredLeg, restoredPhase_eq] at hback
      rw [takePortion_route, retagged_route]
      exact hback

end Sys2Proof.Proofs.LegChanges
end

section
/-! The seats at an arrival: free horizon, display state, named stop, and the content version of the seat unit. -/
namespace Sys2Proof.Proofs.SeatViews
open Sys2Proof Sys2Proof.Machine Effects Requests ConfigGet Owners Events Rendering Journey Driver DisplayLine LegChanges

variable {s : State} {x y z : Part} {c q k p m : Nat} {a : EpAddr} {d : Display}

/-! ### The endpoint table -/

theorem epAt_raiseContent_self (a : EpAddr) (d : Display) :
    epAt (raiseContent a d) a = (epAt d a).map fun e => { e with content := (e.content + 1) % 256 } := by
  unfold raiseContent
  cases he : epAt d a with
  | none => exact he
  | some e =>
    have hself : epAt (epUpdate a (fun x => { x with content := (x.content + 1) % 256 }) d) a =
        some { e with content := (e.content + 1) % 256 } := by
      rw [epAt_epUpdate_self a (fun x : EpEntry => { x with content := (x.content + 1) % 256 }) (fun _ => rfl), he]
      rfl
    dsimp only
    split
    · rw [epAt_of_enqueue]
      exact hself
    · exact hself

theorem epAt_raiseContent_ne {b : EpAddr} (h : b ≠ a) (d : Display) : epAt (raiseContent a d) b = epAt d b := by
  unfold raiseContent
  split
  · rfl
  · have hother := epAt_epUpdate_ne h (fun x : EpEntry => { x with content := (x.content + 1) % 256 }) (fun _ => rfl) d
    dsimp only
    split
    · rw [epAt_of_enqueue]
      exact hother
    · exact hother

theorem epAt_raiseAll (l : List EpAddr) (hl : l.Nodup) (a : EpAddr) (d : Display) : epAt (raiseAll l d) a =
    if a ∈ l then (epAt d a).map fun e => { e with content := (e.content + 1) % 256 } else epAt d a := by
  induction l generalizing d with
  | nil => rfl
  | cons b l ih =>
    obtain ⟨hb, hl⟩ := List.nodup_cons.mp hl
    have hone : raiseAll (b :: l) d = raiseAll l (raiseContent b d) := rfl
    rw [hone, ih hl]
    by_cases hab : a = b
    · subst hab
      rw [if_neg hb, if_pos List.mem_cons_self, epAt_raiseContent_self]
    · simp only [List.mem_cons, hab, false_or, epAt_raiseContent_ne hab]

theorem epAt_congr {d' : Display} (h : d'.table = d.table) (a : EpAddr) : epAt d' a = epAt d a := by rw [epAt, epAt, h]

/-! ### The views -/

theorem seat_of_seatAt {u : UnitDesc} {r : SeatRec} (h : seatAt u c q = some r) :
    ∃ v, u.coaches[c]? = some v ∧ v.seats[q]? = some r := Option.bind_eq_some_iff.mp h

theorem viewAt_allViews {r : SeatRec} (h : seatAt x.unit c q = some r) :
    ((allViews x)[c]?).bind (fun v => v[q]?) = some (seatView x c q) := by
  obtain ⟨v, hc, hq⟩ := seat_of_seatAt h
  simp [allViews, mapFrom_eq_map_zipIdx, List.getElem?_map, List.getElem?_zipIdx, hc, hq]

theorem seat_mem_endpoints {r : SeatRec} (h : seatAt x.unit c q = some r) (hfit : r.unitFitted = true) :
    ({ coach := c, kind := .seat, number := q } : EpAddr) ∈ seatAddrs x.unit := by
  obtain ⟨v, hc, hq⟩ := seat_of_seatAt h
  have hcoach : ({ coach := c, kind := .seat, number := q } : EpAddr) ∈ coachEndpoints c v := by
    unfold coachEndpoints
    simp only [List.append_assoc]
    refine List.mem_append.mpr (.inl (List.mem_flatten.mpr ⟨[_], ?_, List.mem_singleton_self _⟩))
    rw [mapFrom_eq_map_zipIdx]
    refine List.mem_map.mpr ⟨(r, q), ?_, if_pos hfit⟩
    exact List.mem_zipIdx_iff_getElem?.mpr hq
  refine List.mem_filter.mpr ⟨List.mem_flatten.mpr ⟨coachEndpoints c v, ?_, hcoach⟩, rfl⟩
  rw [mapFrom_eq_map_zipIdx]
  exact List.mem_map.mpr ⟨(v, c), List.mem_zipIdx_iff_getElem?.mpr hc, rfl⟩

/-- A fitted seat unit has its content version raised exactly where what it shows has changed. -/
theorem recomputeSeats_content {r : SeatRec} (h : seatAt x.unit c q = some r) (hfit : r.unitFitted = true) :
    epAt (recomputeSeats x).disp { coach := c, kind := .seat, number := q } =
      if shownOf (viewAt x.res c q) = shownOf (some (seatView x c q)) then
        epAt x.disp { coach := c, kind := .seat, number := q }
      else (epAt x.disp { coach := c, kind := .seat, number := q }).map fun e => { e with content := (e.content + 1) % 256 } := by
  have hview : viewAt (recomputeSeats x).res c q = some (seatView x c q) := viewAt_allViews h
  have hnodup : (seatAddrs x.unit).Nodup := (endpointList_nodup _).filter _
  have heq : (recomputeSeats x).disp = raiseAll ((seatAddrs x.unit).filter fun a =>
      shownOf (viewAt x.res a.coach a.number) != shownOf (viewAt (recomputeSeats x).res a.coach a.number)) x.disp := rfl
  rw [heq, epAt_raiseAll _ (hnodup.filter _)]
  by_cases hsame : shownOf (viewAt x.res c q) = shownOf (some (seatView x c q))
  · rw [if_pos hsame, if_neg]
    intro hmem
    have hne := (List.mem_filter.mp hmem).2
    rw [hview] at hne
    exact absurd hsame (by simpa using hne)
  · rw [if_neg hsame, if_pos]
    refine List.mem_filter.mpr ⟨seat_mem_endpoints h hfit, ?_⟩
    rw [hview]
    simpa using hsame

theorem leastOf_eq_none {l : List Nat} : leastOf l = none ↔ l = [] := by
  cases l with
  | nil => simp [leastOf]
  | cons a l =>
    unfold leastOf
    split <;> simp

theorem leastOf_spec {l : List Nat} (h : leastOf l = some m) : m ∈ l ∧ ∀ j ∈ l, m ≤ j := by
  induction l generalizing m with
  | nil => exact absurd h nofun
  | cons a l ih =>
    unfold leastOf at h
    split at h
    · next w hw =>
      obtain ⟨hmem, hle⟩ := ih hw
      obtain rfl := Option.some.inj h
      refine ⟨?_, fun j hj => ?_⟩
      · obtain hmin | hmin := Nat.le_total a w
        · rw [Nat.min_eq_left hmin]
          exact List.mem_cons_self
        · rw [Nat.min_eq_right hmin]
          exact List.mem_cons_of_mem _ hmem
      · obtain rfl | hj := List.mem_cons.mp hj
        · exact Nat.min_le_left ..
        · exact (Nat.min_le_right ..).trans (hle j hj)
    · next hw =>
      obtain rfl := Option.some.inj h
      rw [leastOf_eq_none.mp hw]
      simp

theorem leastOf_eq {l : List Nat} (hm : m ∈ l) (hle : ∀ j ∈ l, m ≤ j) : leastOf l = some m := by
  cases h : leastOf l with
  | none => exact absurd (leastOf_eq_none.mp h ▸ hm) List.not_mem_nil
  | some w =>
    obtain ⟨hw, hwle⟩ := leastOf_spec h
    rw [Nat.le_antisymm (hwle m hm) (hle w hw)]

/-! ### What a seat shows under way -/

/-- The active legs of a seat. -/
def seatLegs (legs : List Leg) (c q : Nat) : List Leg := legs.filter fun l => l.active && l.coach == c && l.seat == q

/-- Those of them that cover the stop. -/
def covering (legs : List Leg) (c q k : Nat) : List Leg :=
  (seatLegs legs c q).filter fun l => decide (l.frm ≤ k) && decide (k < l.till)

/-- The stops ahead at which one of them begins. -/
def beginning (legs : List Leg) (c q k : Nat) : List Nat :=
  ((seatLegs legs c q).filter fun l => decide (k < l.frm)).map (·.frm)

theorem mem_covering {legs : List Leg} {l : Leg} :
    l ∈ covering legs c q k ↔ l ∈ legs.filter (fun l => l.onSeat c q) ∧ l.covers k = true := by
  simp only [covering, seatLegs, List.mem_filter, Leg.onSeat, Leg.covers, Bool.and_eq_true]
  tauto

theorem beginning_eq (legs : List Leg) (c q k : Nat) : beginning legs c q k =
    (((legs.filter fun l => l.onSeat c q).filter fun l => l.active && k < l.frm).map (·.frm)) := by
  simp only [beginning, seatLegs, List.filter_filter, Leg.onSeat]
  refine congrArg _ (List.filter_congr fun l _ => ?_)
  cases l.active <;> simp

/-- The stop a vacant seat is free to. -/
def freeTo (legs : List Leg) (c q k last : Nat) : Nat := (leastOf (beginning legs c q k)).getD last

theorem seatView_underWay {last : Nat} (hp : x.route.prog.p = some k) (hlast : x.route.ownSeq.getLast? = some last)
    (hway : underWay x.route.prog.state = true) :
    (covering x.res.legs c q k ≠ [] → ∃ l ∈ covering x.res.legs c q k,
      seatView x c q = { horizon := some k, display := .reserved, stop := some l.till }) ∧
    (covering x.res.legs c q k = [] → seatView x c q =
      if seatOccupied x.seat c q = true then { horizon := some k, display := .free, stop := none }
      else if k < freeTo x.res.legs c q k last ∧ freeTo x.res.legs c q k last < last then
        { horizon := some (freeTo x.res.legs c q k last), display := .freeUntil, stop := some (freeTo x.res.legs c q k last) }
      else { horizon := some (freeTo x.res.legs c q k last), display := .free, stop := none }) := by
  have hview : seatView x c q = match (x.res.legs.filter fun l => l.onSeat c q).find? (·.covers k) with
      | some l => { horizon := some k, display := .reserved, stop := some l.till }
      | none =>
        if seatOccupied x.seat c q then { horizon := some k, display := .free, stop := none }
        else
          let h := freeTo x.res.legs c q k last
          if k < h && h < last then { horizon := some h, display := .freeUntil, stop := some h }
          else { horizon := some h, display := .free, stop := none } := by
    unfold seatView
    rw [hp, hlast]
    dsimp only
    rw [if_pos hway, freeTo, beginning_eq] <;> rfl
  cases hfind : (x.res.legs.filter fun l => l.onSeat c q).find? (·.covers k) with
  | some l =>
    have hmem : l ∈ covering x.res.legs c q k := mem_covering.mpr ⟨List.mem_of_find?_eq_some hfind, List.find?_some (p := fun y : Leg => y.covers k) hfind⟩
    rw [hfind] at hview
    exact ⟨fun _ => ⟨l, hmem, hview⟩, fun hnone => absurd (hnone ▸ hmem) List.not_mem_nil⟩
  | none =>
    have hnone : covering x.res.legs c q k = [] := List.eq_nil_iff_forall_not_mem.mpr fun l hl => by
      obtain ⟨hseat, hcovers⟩ := mem_covering.mp hl
      exact List.find?_eq_none.mp hfind l hseat hcovers
    rw [hfind] at hview
    refine ⟨fun hne => absurd hnone hne, fun _ => ?_⟩
    rw [hview]
    simp only [Bool.and_eq_true, decide_eq_true_eq]

theorem seatView_ended (h : underWay x.route.prog.state = false) : seatView x c q = {} := by
  unfold seatView
  split
  · rw [if_neg (by simp [h])]
  · rfl

/-! ### The hand-off of an arrival -/

/-- The part as the Reservation Store leaves it at an arrival. -/
def noted (k v : Nat) (x : Part) : Part :=
  handleNotes (.arrival k :: arrivalNotes (arrivedAt x.route k v)) (setProg (arrivedAt x.route k v) x)

theorem takeArrived_eq {v : Nat} (h : k ∈ x.route.ownSeq) : takeArrived k v x =
    restartStabling (lightAndCompose {} (estRecompute (tallyUpdate (recomputeSeats (noted k v x))))) := by
  rw [takeArrived_stop v h]
  rfl

theorem noted_leaves (k v : Nat) (x : Part) : Leaves [.route, .legs, .host, .events] x (noted k v x) :=
  .step (handleNotes_leaves _ _) rfl (.step (setProg_leaves (by rfl)) rfl (.refl _))

theorem noted_route (k v : Nat) (x : Part) : (noted k v x).route = { x.route with prog := arrivedAt x.route k v } :=
  route_of_keeps (handleNotes_leaves _ _).keeps (by decide) (by decide)

/-- After the seats: tallies, estimates and panels. -/
theorem takeArrived_after {v : Nat} (h : k ∈ x.route.ownSeq) :
    Keeps [.tallies, .seat, .panel, .disp, .est] (recomputeSeats (noted k v x)) (takeArrived k v x) := by
  rw [takeArrived_eq h]
  exact Keeps.step restartStabling_keeps rfl (Keeps.step lightAndCompose_keeps rfl (Keeps.step estRecompute_keeps rfl
    (Keeps.step tallyUpdate_keeps rfl .refl)))

theorem takeArrived_drawn {v : Nat} (h : k ∈ x.route.ownSeq) : PanelsDrawn (recomputeSeats (noted k v x)) (takeArrived k v x) := by
  have hdark (z : Part) : PanelsDrawn z (restartStabling z) := .of_eq rfl
  rw [takeArrived_eq h]
  exact (tallyUpdate_drawn _).trans ((estRecompute_drawn _).trans ((lightAndCompose_drawn _ _).trans (hdark _)))

theorem takeArrived_views {v : Nat} (h : k ∈ x.route.ownSeq) : (takeArrived k v x).res.views = allViews (noted k v x) :=
  (takeArrived_after h).all .views (by decide)

theorem takeArrived_sameLegs {v : Nat} (h : k ∈ x.route.ownSeq) : (takeArrived k v x).res.legs = (noted k v x).res.legs :=
  (legs_of_keeps (takeArrived_after h) (by decide)).1

theorem noted_unit (k v : Nat) (x : Part) : (noted k v x).unit = x.unit := unit_of_keeps (noted_leaves k v x).keeps (by decide)

theorem noted_sensors (k v : Nat) (x : Part) : (noted k v x).seat.sensors = x.seat.sensors :=
  (noted_leaves k v x).keeps.all .sensors (by decide)

theorem noted_views (k v : Nat) (x : Part) : (noted k v x).res.views = x.res.views :=
  (noted_leaves k v x).keeps.all .views (by decide)

theorem noted_entry (k v : Nat) (x : Part) (a : EpAddr) : epAt (noted k v x).disp a = epAt x.disp a :=
  epAt_congr ((noted_leaves k v x).keeps.all .disp (by decide)).1 a

/-- The view of a seat after an arrival. -/
theorem takeArrived_view {v : Nat} {r : SeatRec} (h : k ∈ x.route.ownSeq) (hseat : seatAt x.unit c q = some r) :
    viewAt (takeArrived k v x).res c q = some (seatView (noted k v x) c q) := by
  rw [viewAt, takeArrived_views h]
  exact viewAt_allViews (by rw [noted_unit]; exact hseat)

/-- The endpoint entry of a fitted seat unit after an arrival. -/
theorem takeArrived_entry {v : Nat} {r : SeatRec} (h : k ∈ x.route.ownSeq) (hseat : seatAt x.unit c q = some r)
    (hfit : r.unitFitted = true) : epAt (takeArrived k v x).disp { coach := c, kind := .seat, number := q } =
      if shownOf (viewAt x.res c q) = shownOf (some (seatView (noted k v x) c q)) then
        epAt x.disp { coach := c, kind := .seat, number := q }
      else (epAt x.disp { coach := c, kind := .seat, number := q }).map fun e => { e with content := (e.content + 1) % 256 } := by
  have hviews : viewAt (noted k v x).res c q = viewAt x.res c q := by rw [viewAt, viewAt, noted_views]
  have hdrawn := (takeArrived_drawn (v := v) h).spared { coach := c, kind := .seat, number := q } rfl
  rw [hdrawn, recomputeSeats_content (by rw [noted_unit]; exact hseat) hfit, hviews, noted_entry]

/-! ### The obligation -/

/-- Beyond the last stop no seat is served; at a stop before it each seat shows what its legs and its sensor give. -/
theorem arrival_view {v : Nat} (h : k ∈ x.route.ownSeq) :
    (firstAfter x.route.ownSeq k = none → seatView (noted k v x) c q = { horizon := none, display := .noService, stop := none }) ∧
    (firstAfter x.route.ownSeq k ≠ none →
      (covering (noted k v x).res.legs c q k ≠ [] → ∃ l ∈ covering (noted k v x).res.legs c q k,
        seatView (noted k v x) c q = { horizon := some k, display := .reserved, stop := some l.till }) ∧
      (covering (noted k v x).res.legs c q k = [] → seatOccupied x.seat c q = true →
        seatView (noted k v x) c q = { horizon := some k, display := .free, stop := none }) ∧
      (covering (noted k v x).res.legs c q k = [] → seatOccupied x.seat c q = false →
        (beginning (noted k v x).res.legs c q k = [] → k < x.route.ownSeq.getLast?.getD 0 →
          seatView (noted k v x) c q = { horizon := some (x.route.ownSeq.getLast?.getD 0), display := .free, stop := none }) ∧
        (∀ j ∈ beginning (noted k v x).res.legs c q k, (∀ i ∈ beginning (noted k v x).res.legs c q k, j ≤ i) →
          seatView (noted k v x) c q = if j < x.route.ownSeq.getLast?.getD 0 then
              { horizon := some j, display := .freeUntil, stop := some j }
            else { horizon := some j, display := .free, stop := none }))) := by
  have hroute := noted_route k v x
  refine ⟨fun hnone => ?_, fun hnext => ?_⟩
  · refine seatView_ended ?_
    rw [hroute]
    simp [arrivedAt, hnone, underWay]
  · obtain ⟨last, hlast⟩ : ∃ last, x.route.ownSeq.getLast? = some last :=
      ⟨_, List.getLast?_eq_some_getLast (List.ne_nil_of_mem h)⟩
    have hway : underWay (noted k v x).route.prog.state = true := by
      rw [hroute]
      simp [arrivedAt, Option.isSome_iff_ne_none.mpr hnext, underWay]
    have hoccupied : seatOccupied (noted k v x).seat c q = seatOccupied x.seat c q := by
      rw [seatOccupied, seatOccupied, sensorAt, sensorAt, noted_sensors]
    obtain ⟨hcovered, hfree⟩ := seatView_underWay (c := c) (q := q) (k := k) (last := last)
      (by rw [hroute]; rfl) (by rw [hroute]; exact hlast) hway
    rw [hoccupied] at hfree
    rw [hlast, Option.getD_some]
    refine ⟨hcovered, fun hnone htaken => ?_, fun hnone hvacant => ⟨fun hempty hk => ?_, fun j hj hleast => ?_⟩⟩
    · rw [hfree hnone, if_pos htaken]
    · have hto : freeTo (noted k v x).res.legs c q k last = last := by
        rw [freeTo, hempty]
        rfl
      rw [hfree hnone, if_neg (by simp [hvacant]), hto, if_neg (fun hlt => Nat.lt_irrefl _ hlt.2)]
    · have hto : freeTo (noted k v x).res.legs c q k last = j := by
        rw [freeTo, leastOf_eq hj hleast]
        rfl
      have hkj : k < j := by
        obtain ⟨l, hl, rfl⟩ := List.mem_map.mp hj
        exact of_decide_eq_true (List.mem_filter.mp hl).2
      rw [hfree hnone, if_neg (by simp [hvacant]), hto]
      simp only [hkj, true_and]

/-- What a seat unit shows of a view. -/
theorem seatContent_eq {u : Part} {w : SeatView} {r : SeatRec} (hview : viewAt u.res c q = some w)
    (hseat : seatAt u.unit c q = some r) :
    (seatContent u c q).display = w.display ∧ (seatContent u c q).dim = decide (w.display = .noService) ∧
      (seatContent u c q).label = number r.label ∧
      (seatContent u c q).line1 =
        (if w.display = .reserved then asc "reserved" else if w.display = .freeUntil then asc "free to" else []) ∧
      (seatContent u c q).line2 = (if w.display = .reserved ∨ w.display = .freeUntil then
        (w.stop.map (seatStopName u c)).getD [] else []) := by
  obtain ⟨horizon, display, stop⟩ := w
  unfold seatContent
  rw [hview, hseat]
  refine ⟨rfl, rfl, rfl, ?_, ?_⟩
  · cases display <;> rfl
  · cases display <;> cases stop <;> rfl

/-- Settles O51: the views are those of the part with the legs that the arrival leaves, and a seat unit is raised where what it
shows has changed. -/
theorem anArrivalRecomputesEverySeat : Obligations.AnArrivalRecomputesEverySeat := by
  intro s tag body k p t h hbody hk hday ht hsource hstate hp hpk hlen hmem
  refine ⟨_, step_of_arrived h hbody hk hday ht hsource hstate hp hpk hlen (.inl hmem), fun c q r hseat => ?_⟩
  have hat : k ∈ (handed 0x0F#8 tag s.part).route.ownSeq := hmem
  have hunit : seatAt (handed 0x0F#8 tag s.part).unit c q = some r := hseat
  have hview := takeArrived_view (v := t.seconds) hat hunit
  obtain ⟨hended, hserved⟩ := arrival_view (c := c) (q := q) (v := t.seconds) hat
  intro last mine cover ahead taken z
  have hviewed : viewAt (finish (answer tag .ok [] (takeArrived k t.seconds (handed 0x0F#8 tag s.part)))).res c q =
      some (seatView (noted k t.seconds (handed 0x0F#8 tag s.part)) c q) := by
    rw [finish_res, answer_res]
    exact hview
  have hseated : seatAt (finish (answer tag .ok [] (takeArrived k t.seconds (handed 0x0F#8 tag s.part)))).unit c q = some r := by
    rw [finish_unit, answer_unit, unit_of_keeps (takeArrived_leaves ..).keeps (by decide)]
    exact hunit
  have hlegs : (finish (answer tag .ok [] (takeArrived k t.seconds (handed 0x0F#8 tag s.part)))).res.legs =
      (noted k t.seconds (handed 0x0F#8 tag s.part)).res.legs := by
    rw [finish_res, answer_res, takeArrived_sameLegs hat]
  have hcover : cover = covering (noted k t.seconds (handed 0x0F#8 tag s.part)).res.legs c q k := by rw [← hlegs]; rfl
  have hahead : ahead = beginning (noted k t.seconds (handed 0x0F#8 tag s.part)).res.legs c q k := by rw [← hlegs]; rfl
  have htaken : taken = seatOccupied (handed 0x0F#8 tag s.part).seat c q := by
    rw [handed_seat, seatOccupied]
    cases hs : sensorAt s.part.seat c q <;> simp [taken, hs]
  obtain ⟨hdisplay, hdim, hlabel, hline1, hline2⟩ := seatContent_eq hviewed hseated
  refine ⟨_, hviewed, hended, fun hnext => ?_, hdisplay, hdim, hlabel, hline1, hline2, fun hfit e he => ?_⟩
  · obtain ⟨hreserved, hfree, hvacant⟩ := hserved hnext
    rw [hcover, hahead, htaken]
    refine ⟨fun hne => ?_, hfree, hvacant⟩
    obtain ⟨l, hl, heq⟩ := hreserved hne
    rw [heq]
    exact ⟨rfl, rfl, l, hl, rfl⟩
  · have hentry : epAt (handed 0x0F#8 tag s.part).disp { coach := c, kind := .seat, number := q } = some e := he
    rw [epAt_finish, answer_disp, takeArrived_entry hat hunit hfit, hentry]
    by_cases hsame : shownOf (viewAt s.part.res c q) = shownOf (some (seatView (noted k t.seconds (handed 0x0F#8 tag s.part)) c q))
    · rw [if_pos (by exact hsame), if_pos (by exact hsame)]
      rfl
    · rw [if_neg (by exact hsame), if_neg (by exact hsame)]
      rfl

end Sys2Proof.Proofs.SeatViews
end

section
/-! The own tally at an arrival, and what a changed count hands on. -/
namespace Sys2Proof.Proofs.OwnTally
open Sys2Proof Sys2Proof.Machine Effects Requests ConfigGet Owners Events Rendering Journey Driver Coupler TrainTally Received LegChanges
  SeatViews FormationStores OwnEntries Notices

variable {s : State} {x y z : Part} {k p : Nat}

/-! ### The rest of the part in the hand-off -/

theorem estRecompute_eq (x : Part) : estRecompute x =
    { x with est := (estRecompute x).est, panel := (estRecompute x).panel, disp := (estRecompute x).disp } := by
  unfold estRecompute nameStops
  split
  · split <;> rfl
  · rfl

theorem lightAndCompose_eq (cause : Cause) (x : Part) : lightAndCompose cause x =
    { x with panel := (lightAndCompose cause x).panel, disp := (lightAndCompose cause x).disp } := composer_eq ..

/-- Estimates and panels leave formation and seats as the tally left them. -/
theorem takeArrived_formSeat {v : Nat} (h : k ∈ x.route.ownSeq) :
    (takeArrived k v x).form = (tallyUpdate (recomputeSeats (noted k v x))).form ∧
      (takeArrived k v x).seat = (tallyUpdate (recomputeSeats (noted k v x))).seat := by
  have hdark (z : Part) : (restartStabling z).form = z.form ∧ (restartStabling z).seat = z.seat := ⟨rfl, rfl⟩
  rw [takeArrived_eq h, (hdark _).1, (hdark _).2, lightAndCompose_eq, estRecompute_eq]
  exact ⟨rfl, rfl⟩

theorem handleNote_form (n : Note) (x : Part) : (handleNote x n).form = x.form := by
  have hreleases (i : Nat) (z : Part) : (noteReleases i z).form = z.form := by
    unfold noteReleases
    split <;> rfl
  have horphans (i : Nat) (z : Part) : (noteOrphans i z).form = z.form := by
    unfold noteOrphans
    split <;> rfl
  have hfree (z : Part) : (freeFinished z).form = z.form := by
    unfold freeFinished
    split <;> rfl
  have hrestore (z : Part) : (restorePass z).form = z.form := by
    unfold restorePass
    split <;> rfl
  have hdecide (z : Part) : (decideDeadlines z).form = z.form := hreleases ..
  have hset (t : Nat) (z : Part) : (setDeadlines t z).form = z.form := hdecide ..
  cases n with
  | placement i => exact hfree x
  | arrival i => exact hfree x
  | halt => exact hfree x
  | departure t fromStop =>
    cases fromStop
    · rfl
    · exact hset t x
  | termination => rfl
  | opened => rfl
  | rederived => exact (hfree _).trans ((hrestore _).trans (horphans ..))

theorem handleNotes_form (notes : List Note) (x : Part) : (handleNotes notes x).form = x.form := by
  induction notes generalizing x with
  | nil => rfl
  | cons n notes ih => exact (ih _).trans (handleNote_form n x)

theorem noted_form (k v : Nat) (x : Part) : (noted k v x).form = x.form := handleNotes_form ..

theorem noted_seat (k v : Nat) (x : Part) : (noted k v x).seat = x.seat := by
  have h : (noted k v x).seat = { x.seat with sensors := (noted k v x).seat.sensors } :=
    (noted_leaves k v x).keeps.all .seat (by decide)
  rw [noted_sensors] at h
  exact h

theorem noted_supply (k v : Nat) (x : Part) : (noted k v x).supply = x.supply :=
  supply_of_keeps (noted_leaves k v x).keeps (by decide)

/-! ### Columns, rows and counts -/

/-- The seats of a coach that are free to a stop. -/
def freeSeats (vs : List SeatView) (j : Nat) : Nat := (vs.filter fun v => v.horizon.any fun h => decide (j ≤ h)).length

theorem seatsFreeTo_eq (vs : List SeatView) (j : Nat) : seatsFreeTo vs j = freeSeats vs j := by
  refine congrArg List.length (List.filter_congr fun v _ => ?_)
  cases v.horizon <;> rfl

theorem coachCounts_eq (stops : List StopRec) (cols : List Nat) (vs : List SeatView) : coachCounts stops cols vs =
    match cols.getLast? with
    | none => (0, 0)
    | some e => (freeSeats vs e, freeSeats vs ((cols.find? fun j => ((stops[j]?).map (·.divide)).getD false).getD e)) := by
  unfold coachCounts divideColumn
  simp only [seatsFreeTo_eq] <;> rfl

theorem tallyColumns_arrived {v : Nat} : tallyColumns (noted k v x).route =
    x.route.ownSeq.filter fun i => decide (k < i) && (firstAfter x.route.ownSeq k).isSome := by
  rw [noted_route]
  unfold tallyColumns arrivedAt
  dsimp only
  by_cases hnext : (firstAfter x.route.ownSeq k).isSome = true
  · simp [hnext, underWay]
  · simp [hnext, underWay]

/-- A count of a coach differs, a coach that is not there counting 0. -/
theorem countsDiffer_iff (a b : List (Nat × Nat)) :
    countsDiffer a b = true ↔ ∃ i < max a.length b.length, a.getD i (0, 0) ≠ b.getD i (0, 0) := by
  simp [countsDiffer]

/-- The tally is rebuilt, and told on where a count differs. -/
theorem tallyUpdate_same (h : countsDiffer x.seat.counts (rebuildTally x).seat.counts = false) : tallyUpdate x = rebuildTally x := by
  unfold tallyUpdate
  dsimp only
  rw [if_neg (by simp [h])]

theorem tallyUpdate_differs (h : countsDiffer x.seat.counts (rebuildTally x).seat.counts = true) :
    tallyUpdate x = deriveSummary (reportTallies (writeOwnTallies (rebuildTally x))) := by
  unfold tallyUpdate
  dsimp only
  rw [if_pos h]

/-! ### The report -/

/-- The pacing of a changed tally. -/
def reported (g : Formation) : Formation :=
  if LineItem.tally ∈ g.queue then g
  else if g.spacing = true then { g with tallyPending := true }
  else { g with queue := if g.queue.length < 16 then g.queue ++ [.tally] else g.queue, spacing := true }

theorem reportTallies_eq (hrun : isRun x = true) :
    reportTallies x = { x with form := if otherUnits x = [] then x.form else reported x.form } := by
  have hothers : hasOthers x = true ↔ ¬ otherUnits x = [] := by simp [hasOthers]
  unfold reportTallies
  by_cases halone : otherUnits x = []
  · rw [if_neg (by simp [hasOthers, halone]), if_pos halone]
  · rw [if_pos (by simp [hrun, hothers.mpr halone]), if_neg halone]
    by_cases hqueued : LineItem.tally ∈ x.form.queue
    · rw [if_pos (by simpa using hqueued), reported, if_pos hqueued]
    · rw [if_neg (by simpa using hqueued), reported, if_neg hqueued]
      by_cases hspacing : x.form.spacing = true
      · rw [if_pos hspacing, if_pos hspacing]
        rfl
      · rw [if_neg hspacing, if_neg hspacing, onForm, queueItem_eq]

theorem reported_keeps (g : Formation) : (reported g).trainTally = g.trainTally ∧ (reported g).role = g.role ∧
    (reported g).record = g.record ∧ (reported g).qualEnd = g.qualEnd := by
  unfold reported
  split
  · exact ⟨rfl, rfl, rfl, rfl⟩
  · split <;> exact ⟨rfl, rfl, rfl, rfl⟩

theorem reported_pacing (g : Formation) :
    (LineItem.tally ∈ g.queue → (reported g).queue = g.queue ∧ (reported g).spacing = g.spacing ∧
      (reported g).tallyPending = g.tallyPending) ∧
    (LineItem.tally ∉ g.queue → (reported g).spacing = true ∧
      (g.spacing = true → (reported g).tallyPending = true ∧ (reported g).queue = g.queue) ∧
      (g.spacing = false → (reported g).tallyPending = g.tallyPending ∧
        (reported g).queue = if g.queue.length < 16 then g.queue ++ [.tally] else g.queue)) := by
  refine ⟨fun h => ?_, fun h => ?_⟩
  · rw [reported, if_pos h]
    exact ⟨rfl, rfl, rfl⟩
  · rw [reported, if_neg h]
    cases hs : g.spacing
    · exact ⟨rfl, nofun, fun _ => ⟨rfl, rfl⟩⟩
    · exact ⟨rfl, fun _ => ⟨rfl, rfl⟩, nofun⟩

/-! ### The seat summary -/

theorem insertBy_pairwise {α : Type} {r : α → α → Prop} {before : α → α → Bool} (htrans : ∀ a b c, r a b → r b c → r a c)
    (hyes : ∀ a b, before a b = true → r a b) (hno : ∀ a b, before a b = false → r b a) (a : α) (l : List α) (h : l.Pairwise r) :
    (insertBy before a l).Pairwise r := by
  induction l with
  | nil => exact List.pairwise_singleton ..
  | cons b l ih =>
    obtain ⟨hb, hl⟩ := List.pairwise_cons.mp h
    unfold insertBy
    split
    · next hab =>
      have hfirst := hyes a b hab
      exact List.pairwise_cons.mpr ⟨List.forall_mem_cons.mpr ⟨hfirst, fun c hc => htrans a b c hfirst (hb c hc)⟩, h⟩
    · next hab =>
      refine List.pairwise_cons.mpr ⟨fun c hc => ?_, ih hl⟩
      obtain rfl | hc := Legs.mem_insertBy.mp hc
      · exact hno c b (by simpa using hab)
      · exact hb c hc

/-- A list sorted by a total order stands in that order. -/
theorem sortBy_pairwise {α : Type} {r : α → α → Prop} {before : α → α → Bool} (htrans : ∀ a b c, r a b → r b c → r a c)
    (hyes : ∀ a b, before b a = true → r b a) (hno : ∀ a b, before b a = false → r a b) (l : List α) : (sortBy before l).Pairwise r := by
  induction l with
  | nil => exact List.Pairwise.nil
  | cons a l ih =>
    refine insertBy_pairwise htrans (fun b c hbc => ?_) (fun b c hbc => ?_) a _ ih
    · exact hno b c (by simpa using hbc)
    · exact hyes b c (by simpa using hbc)

/-- The order of the seat summary, on the entries of the table. -/
def ranks (a b : TallyEntry) : Prop := b.freeEnd < a.freeEnd ∨ (a.freeEnd = b.freeEnd ∧ a.position ≤ b.position)

/-- The table entries that the summary may hold, in its order. -/
def ranking (x : Part) : List TallyEntry :=
  sortBy (fun (a b : TallyEntry) => b.freeEnd < a.freeEnd || (a.freeEnd == b.freeEnd && a.position < b.position))
    (x.form.trainTally.filter (eligible x))

theorem ranking_pairwise (x : Part) : (ranking x).Pairwise ranks := by
  refine sortBy_pairwise (fun a b c hab hbc => ?_) (fun a b h => ?_) (fun a b h => ?_) _
  · simp only [ranks] at *
    omega
  · simp only [Bool.or_eq_true, Bool.and_eq_true, decide_eq_true_eq, beq_iff_eq] at h
    simp only [ranks]
    omega
  · simp only [Bool.or_eq_false_iff, Bool.and_eq_false_iff, decide_eq_false_iff_not, beq_eq_false_iff_ne] at h
    simp only [ranks]
    omega

/-- What the summary shows of an entry. -/
def shownLine (e : TallyEntry) : SummaryEntry :=
  { position := e.position, booked := e.booked, freeEnd := e.freeEnd, freeDivide := e.freeDivide }

theorem seatSummary_eq (x : Part) : seatSummary x = ((ranking x).take 6).map shownLine := rfl

/-- The summary holds the first six of the eligible entries. -/
theorem seatSummary_spec (x : Part) :
    (seatSummary x).length = min 6 (x.form.trainTally.filter (eligible x)).length ∧
    (∀ y ∈ seatSummary x, ∃ e ∈ x.form.trainTally.filter (eligible x), y = shownLine e) ∧
    (seatSummary x).Pairwise (fun a b => b.freeEnd < a.freeEnd ∨ (a.freeEnd = b.freeEnd ∧ a.position ≤ b.position)) ∧
    (∀ e ∈ x.form.trainTally.filter (eligible x), shownLine e ∈ seatSummary x ∨ ∀ y ∈ seatSummary x,
      e.freeEnd < y.freeEnd ∨ (e.freeEnd = y.freeEnd ∧ y.position ≤ e.position)) := by
  have hperm : (ranking x).Perm (x.form.trainTally.filter (eligible x)) := sortBy_perm _ _
  have hsplit : (ranking x).take 6 ++ (ranking x).drop 6 = ranking x := List.take_append_drop ..
  have hsorted := ranking_pairwise x
  rw [← hsplit, List.pairwise_append] at hsorted
  obtain ⟨htake, -, hacross⟩ := hsorted
  rw [seatSummary_eq]
  refine ⟨?_, fun y hy => ?_, List.pairwise_map.mpr htake, fun e he => ?_⟩
  · rw [List.length_map, List.length_take, hperm.length_eq]
  · obtain ⟨e, he, rfl⟩ := List.mem_map.mp hy
    exact ⟨e, hperm.mem_iff.mp (List.mem_of_mem_take he), rfl⟩
  · have hmem := hperm.mem_iff.mpr he
    rw [← hsplit] at hmem
    obtain hin | hout := List.mem_append.mp hmem
    · exact .inl (List.mem_map_of_mem hin)
    · refine .inr fun y hy => ?_
      obtain ⟨a, ha, rfl⟩ := List.mem_map.mp hy
      exact (hacross a ha e hout).imp id fun h => ⟨h.1.symm, h.2⟩

/-! ### The tally of an arrival -/

/-- The part with the own tally of an arrival rebuilt. -/
def retallied (k v : Nat) (x : Part) : Part := rebuildTally (recomputeSeats (noted k v x))

theorem retallied_form (k v : Nat) (x : Part) : (retallied k v x).form = x.form := noted_form k v x

theorem retallied_seat (k v : Nat) (x : Part) :
    (retallied k v x).seat.columns = (x.route.ownSeq.filter fun i => decide (k < i) && (firstAfter x.route.ownSeq k).isSome) ∧
    (retallied k v x).seat.rows = ((allViews (noted k v x)).map fun vs => (retallied k v x).seat.columns.map (freeSeats vs)) ∧
    (retallied k v x).seat.counts = ((allViews (noted k v x)).map fun vs => match (retallied k v x).seat.columns.getLast? with
      | none => (0, 0)
      | some e => (freeSeats vs e, freeSeats vs
          (((retallied k v x).seat.columns.find? fun j => ((x.route.stops[j]?).map (·.divide)).getD false).getD e))) ∧
    (retallied k v x).seat.summary = x.seat.summary := by
  have hstops : (noted k v x).route.stops = x.route.stops := (congrArg Route.stops (noted_route k v x) :)
  have hsummary : (retallied k v x).seat.summary = (noted k v x).seat.summary := rfl
  refine ⟨tallyColumns_arrived, List.map_congr_left fun vs _ => List.map_congr_left fun j _ => seatsFreeTo_eq vs j,
    List.map_congr_left fun vs _ => ?_, by rw [hsummary, noted_seat]⟩
  refine (coachCounts_eq _ _ vs).trans ?_
  have hhere : (recomputeSeats (noted k v x)).route.stops = x.route.stops := hstops
  rw [hhere]
  rfl

/-- The formation in force is that before the arrival. -/
theorem inForce_arrived {v : Nat} (hroute : routeInForce x.route = x.route.id) (h1 : y.form.role = x.form.role)
    (h2 : y.form.record = x.form.record) (h3 : y.form.qualEnd = x.form.qualEnd) (h4 : y.unit = x.unit)
    (h5 : y.route = { x.route with prog := arrivedAt x.route k v }) : inForce y = inForce x := by
  refine inForce_congr h1 h2 h3 h4 ?_
  rw [h5, hroute]
  unfold routeInForce arrivedAt
  dsimp only
  split
  · next h => split at h <;> exact absurd h nofun
  · next h => split at h <;> exact absurd h nofun
  · rfl

/-- Where no count differs, the rebuilt tally is all. -/
theorem takeArrived_same {v : Nat} (h : k ∈ x.route.ownSeq) (hsame : countsDiffer x.seat.counts (retallied k v x).seat.counts = false) :
    (takeArrived k v x).form = x.form ∧ (takeArrived k v x).seat = (retallied k v x).seat := by
  have hcounts : (recomputeSeats (noted k v x)).seat.counts = x.seat.counts := congrArg SeatSense.counts (noted_seat k v x)
  obtain ⟨hform, hseat⟩ := takeArrived_formSeat (v := v) h
  have heq : tallyUpdate (recomputeSeats (noted k v x)) = retallied k v x := tallyUpdate_same (by rw [hcounts]; exact hsame)
  rw [heq] at hform hseat
  exact ⟨hform.trans (retallied_form k v x), hseat⟩

theorem retallied_keeps (k v : Nat) (x : Part) : Keeps [.views, .disp, .seat] (noted k v x) (retallied k v x) := by
  rw [retallied]
  exact Keeps.step rebuildTally_keeps rfl (Keeps.step recomputeSeats_keeps rfl .refl)

theorem written_keeps (k v : Nat) (x : Part) :
    Keeps [.views, .disp, .seat, .tallies] (noted k v x) (writeOwnTallies (retallied k v x)) :=
  Keeps.step writeOwnTallies_keeps rfl (Keeps.step (retallied_keeps k v x) rfl .refl)

theorem written_unit (k v : Nat) (x : Part) : (writeOwnTallies (retallied k v x)).unit = x.unit :=
  (unit_of_keeps (written_keeps k v x) (by decide)).trans (noted_unit k v x)

theorem written_route (k v : Nat) (x : Part) :
    (writeOwnTallies (retallied k v x)).route = { x.route with prog := arrivedAt x.route k v } :=
  (route_of_keeps (written_keeps k v x) (by decide) (by decide)).trans (noted_route k v x)

theorem written_supply (k v : Nat) (x : Part) : (writeOwnTallies (retallied k v x)).supply = x.supply :=
  (supply_of_keeps (written_keeps k v x) (by decide)).trans (noted_supply k v x)

/-- The part with the changed tally written and reported. -/
def handedOn (k v : Nat) (x : Part) : Part := reportTallies (writeOwnTallies (retallied k v x))

/-- Where one differs, the own entries are written and reported, and the summary is derived anew. -/
theorem takeArrived_differs {v : Nat} (h : k ∈ x.route.ownSeq)
    (hdiff : countsDiffer x.seat.counts (retallied k v x).seat.counts = true) :
    (takeArrived k v x).form = (handedOn k v x).form ∧
      (takeArrived k v x).seat = { (handedOn k v x).seat with summary := seatSummary (handedOn k v x) } := by
  have hcounts : (recomputeSeats (noted k v x)).seat.counts = x.seat.counts := congrArg SeatSense.counts (noted_seat k v x)
  obtain ⟨hform, hseat⟩ := takeArrived_formSeat (v := v) h
  have heq : tallyUpdate (recomputeSeats (noted k v x)) = deriveSummary (handedOn k v x) :=
    tallyUpdate_differs (by rw [hcounts]; exact hdiff)
  rw [heq] at hform hseat
  refine ⟨hform.trans (deriveSummary_tallies _), hseat.trans ?_⟩
  rw [deriveSummary, nameSummary_counts]
  rfl

/-- The formation with the own entries written, before the report. -/
def entered (k v : Nat) (x : Part) : Formation := { x.form with trainTally := (writeOwnTallies (retallied k v x)).form.trainTally }

theorem handedOn_eq (k v : Nat) (hrun : isRun x = true) (hroute : routeInForce x.route = x.route.id) :
    handedOn k v x = { writeOwnTallies (retallied k v x) with
      form := if otherUnits x = [] then entered k v x else reported (entered k v x) } := by
  have hform : (writeOwnTallies (retallied k v x)).form = entered k v x := by
    have hwritten (z : Part) : (writeOwnTallies z).form = { z.form with trainTally := (writeOwnTallies z).form.trainTally } := rfl
    rw [hwritten, retallied_form, entered]
  have hothers : otherUnits (writeOwnTallies (retallied k v x)) = otherUnits x := by
    have hforce : inForce (writeOwnTallies (retallied k v x)) = inForce x := by
      refine inForce_arrived (k := k) (v := v) hroute ?_ ?_ ?_ (written_unit k v x) (written_route k v x) <;>
        rw [hform, entered]
    rw [otherUnits, otherUnits, hforce]
  have hruns : isRun (writeOwnTallies (retallied k v x)) = true := by
    rw [isRun, written_supply]
    exact hrun
  rw [handedOn, reportTallies_eq hruns, hothers, hform]

/-- What the report leaves of the formation. -/
theorem handedOn_form {v : Nat} (hrun : isRun x = true) (hroute : routeInForce x.route = x.route.id) :
    (handedOn k v x).form.trainTally = (entered k v x).trainTally ∧ (handedOn k v x).form.role = x.form.role ∧
      (handedOn k v x).form.record = x.form.record ∧ (handedOn k v x).form.qualEnd = x.form.qualEnd := by
  rw [handedOn_eq k v hrun hroute]
  dsimp only
  split
  · exact ⟨rfl, rfl, rfl, rfl⟩
  · exact reported_keeps _

theorem handedOn_pacing {v : Nat} (hrun : isRun x = true) (hroute : routeInForce x.route = x.route.id) :
    (otherUnits x = [] ∨ LineItem.tally ∈ x.form.queue → (handedOn k v x).form.queue = x.form.queue ∧
      (handedOn k v x).form.spacing = x.form.spacing ∧ (handedOn k v x).form.tallyPending = x.form.tallyPending) ∧
    (otherUnits x ≠ [] → LineItem.tally ∉ x.form.queue → (handedOn k v x).form.spacing = true ∧
      (x.form.spacing = true → (handedOn k v x).form.tallyPending = true ∧ (handedOn k v x).form.queue = x.form.queue) ∧
      (x.form.spacing = false → (handedOn k v x).form.tallyPending = x.form.tallyPending ∧
        (handedOn k v x).form.queue = if x.form.queue.length < 16 then x.form.queue ++ [.tally] else x.form.queue)) := by
  obtain ⟨hqueued, hpaced⟩ := reported_pacing (entered k v x)
  rw [handedOn_eq k v hrun hroute]
  dsimp only
  refine ⟨fun h => ?_, fun hne hnot => ?_⟩
  · by_cases halone : otherUnits x = []
    · rw [if_pos halone]
      exact ⟨rfl, rfl, rfl⟩
    · rw [if_neg halone]
      exact hqueued (h.resolve_left halone)
  · rw [if_neg hne]
    exact hpaced hnot

/-- The formation in force after the arrival, and the own entries of it. -/
theorem inForce_takeArrived {v : Nat} (h : k ∈ x.route.ownSeq) (hroute : routeInForce x.route = x.route.id)
    (hform : (takeArrived k v x).form.role = x.form.role ∧ (takeArrived k v x).form.record = x.form.record ∧
      (takeArrived k v x).form.qualEnd = x.form.qualEnd) : inForce (takeArrived k v x) = inForce x :=
  inForce_arrived (k := k) (v := v) hroute hform.1 hform.2.1 hform.2.2
    (unit_of_keeps (takeArrived_leaves k v x).keeps (by decide)) (takeArrived_prog_stop v h)

theorem inForce_retallied {v : Nat} (hroute : routeInForce x.route = x.route.id) : inForce (retallied k v x) = inForce x := by
  refine inForce_arrived (k := k) (v := v) hroute ?_ ?_ ?_ ?_ ?_
  · rw [retallied_form]
  · rw [retallied_form]
  · rw [retallied_form]
  · rw [unit_of_keeps (retallied_keeps k v x) (by decide), noted_unit]
  · rw [route_of_keeps (retallied_keeps k v x) (by decide) (by decide), noted_route]

theorem inForce_handedOn {v : Nat} (hrun : isRun x = true) (hroute : routeInForce x.route = x.route.id) :
    inForce (handedOn k v x) = inForce x := by
  obtain ⟨-, hrole, hrecord, hqual⟩ := handedOn_form (k := k) (v := v) hrun hroute
  refine inForce_arrived (k := k) (v := v) hroute hrole hrecord hqual ?_ ?_
  · rw [handedOn_eq k v hrun hroute]
    exact written_unit k v x
  · rw [handedOn_eq k v hrun hroute]
    exact written_route k v x

theorem written_own (k v : Nat) (x : Part) : OwnWritten x.unit.unitId (ownTallyEntries (retallied k v x)) x.form.trainTally
    (entered k v x).trainTally := by
  have hspec := writeOwnTallies_spec (retallied k v x)
  rw [unit_of_keeps (retallied_keeps k v x) (by decide), noted_unit, retallied_form] at hspec
  exact hspec

/-- A changed count: the table, the pacing and the summary. -/
structure Told (x y : Part) : Prop where
  table : OwnWritten x.unit.unitId (ownTallyEntries y) x.form.trainTally y.form.trainTally
  stands : otherUnits x = [] ∨ LineItem.tally ∈ x.form.queue → y.form.queue = x.form.queue ∧
    y.form.spacing = x.form.spacing ∧ y.form.tallyPending = x.form.tallyPending
  paced : otherUnits x ≠ [] → LineItem.tally ∉ x.form.queue → y.form.spacing = true ∧
    (x.form.spacing = true → y.form.tallyPending = true ∧ y.form.queue = x.form.queue) ∧
    (x.form.spacing = false → y.form.tallyPending = x.form.tallyPending ∧
      y.form.queue = if x.form.queue.length < 16 then x.form.queue ++ [.tally] else x.form.queue)
  summary : y.seat.summary = seatSummary y

theorem eligible_congr (h1 : inForce y = inForce x) (h2 : y.unit = x.unit) : eligible y = eligible x := by
  funext e
  rw [eligible, eligible, h1, h2]

theorem seatSummary_congr (h1 : inForce y = inForce x) (h2 : y.unit = x.unit) (h3 : y.form.trainTally = x.form.trainTally) :
    seatSummary y = seatSummary x := by
  rw [seatSummary, seatSummary, eligible_congr h1 h2, h3]

theorem takeArrived_told {v : Nat} (h : k ∈ x.route.ownSeq) (hrun : isRun x = true) (hroute : routeInForce x.route = x.route.id)
    (hdiff : countsDiffer x.seat.counts (retallied k v x).seat.counts = true) : Told x (takeArrived k v x) := by
  obtain ⟨hform, hseat⟩ := takeArrived_differs (v := v) h hdiff
  obtain ⟨htable, hrole, hrecord, hqual⟩ := handedOn_form (k := k) (v := v) hrun hroute
  obtain ⟨hstands, hpaced⟩ := handedOn_pacing (k := k) (v := v) hrun hroute
  have hforce : inForce (takeArrived k v x) = inForce x :=
    inForce_takeArrived h hroute (by rw [hform]; exact ⟨hrole, hrecord, hqual⟩)
  have hunit : (takeArrived k v x).unit = x.unit := unit_of_keeps (takeArrived_leaves k v x).keeps (by decide)
  have hunit' : (handedOn k v x).unit = x.unit := by
    rw [handedOn_eq k v hrun hroute]
    exact written_unit k v x
  have hseat' : (handedOn k v x).seat = (retallied k v x).seat := by
    rw [handedOn_eq k v hrun hroute]
    rfl
  have hown : ownTallyEntries (takeArrived k v x) = ownTallyEntries (retallied k v x) := by
    refine ownTallyEntries_congr (hforce.trans (inForce_retallied hroute).symm) ?_ ?_
    · rw [hunit, unit_of_keeps (retallied_keeps k v x) (by decide), noted_unit]
    · rw [hseat, hseat']
  refine ⟨?_, ?_, ?_, ?_⟩
  · rw [hown, hform, htable]
    exact written_own k v x
  · rw [hform]
    exact hstands
  · rw [hform]
    exact hpaced
  · rw [hseat]
    exact (seatSummary_congr (hforce.trans (inForce_handedOn hrun hroute).symm) (hunit.trans hunit'.symm) (by rw [hform])).symm

/-- Columns, rows and counts are the rebuilt ones, whatever is handed on. -/
theorem takeArrived_tally {v : Nat} (h : k ∈ x.route.ownSeq) (hrun : isRun x = true) (hroute : routeInForce x.route = x.route.id) :
    (takeArrived k v x).seat.columns = (retallied k v x).seat.columns ∧
      (takeArrived k v x).seat.rows = (retallied k v x).seat.rows ∧
      (takeArrived k v x).seat.counts = (retallied k v x).seat.counts := by
  cases hdiff : countsDiffer x.seat.counts (retallied k v x).seat.counts
  · rw [(takeArrived_same h hdiff).2]
    exact ⟨rfl, rfl, rfl⟩
  · rw [(takeArrived_differs h hdiff).2, handedOn_eq k v hrun hroute]
    exact ⟨rfl, rfl, rfl⟩

/-- The report is kept by what answers the request and begins the next frame. -/
theorem Told.finished (h : Told x y) (tag : Byte) : Told x (finish (answer tag .ok [] y)) := by
  have hforce : inForce (finish (answer tag .ok [] y)) = inForce y :=
    inForce_congr (by simp) (by simp) (by simp) (by simp) (by simp)
  refine ⟨?_, ?_, ?_, ?_⟩
  · rw [ownTallyEntries_congr hforce (by simp) (by simp), finish_form, answer_form]
    exact h.table
  · rw [finish_form, answer_form]
    exact h.stands
  · rw [finish_form, answer_form]
    exact h.paced
  · rw [seatSummary_congr hforce (by simp) (by simp), finish_seat, answer_seat]
    exact h.summary

/-- Settles O52: the tally is rebuilt on the views of the arrival; where no count differs that is all, and where one does the table,
the pacing and the summary are those of the report. -/
theorem anArrivalRebuildsTheTally : Obligations.AnArrivalRebuildsTheTally := by
  intro s tag body k p t h hbody hk hday ht hsource hstate hp hpk hlen hmem
  refine ⟨_, step_of_arrived h hbody hk hday ht hsource hstate hp hpk hlen (.inl hmem), ?_⟩
  have hat : k ∈ (handed 0x0F#8 tag s.part).route.ownSeq := hmem
  have hrun : isRun (handed 0x0F#8 tag s.part) = true := by
    rw [isRun, handed_supply, h.1]
    rfl
  have hroute : routeInForce (handed 0x0F#8 tag s.part).route = (handed 0x0F#8 tag s.part).route.id := by
    rw [handed_route, routeInForce]
    obtain hs | hs := hstate <;> rw [hs]
  obtain ⟨hcolumns, hrows, hcounts⟩ := takeArrived_tally (v := t.seconds) hat hrun hroute
  obtain ⟨hcols, hrow, hcount, hsummary⟩ := retallied_seat k t.seconds (handed 0x0F#8 tag s.part)
  simp only [finish_seat, answer_seat, finish_res, answer_res, takeArrived_views hat]
  rw [hcolumns, hrows, hcounts]
  refine ⟨hcols, hrow, hcount, fun hno => ?_, fun hdiff => ?_⟩
  · have hsame : countsDiffer (handed 0x0F#8 tag s.part).seat.counts (retallied k t.seconds (handed 0x0F#8 tag s.part)).seat.counts
        = false := by
      rw [← Bool.not_eq_true, countsDiffer_iff]
      exact hno
    obtain ⟨hform, hseat⟩ := takeArrived_same hat hsame
    rw [finish_form, answer_form, hform, hseat, hsummary]
    exact ⟨rfl, rfl⟩
  · have htold := (takeArrived_told (v := t.seconds) hat hrun hroute ((countsDiffer_iff _ _).mpr hdiff)).finished tag
    obtain ⟨htable, hstands, hpaced, hderived⟩ := htold
    have hspec := seatSummary_spec (finish (answer tag .ok [] (takeArrived k t.seconds (handed 0x0F#8 tag s.part))))
    rw [← hderived, finish_seat, answer_seat] at hspec
    obtain ⟨hlength, hlines, horder, hbest⟩ := hspec
    exact ⟨fun e he => (htable e).mp he, fun e he => (htable e).mpr (.inl he),
      fun e he hne hfree => (htable e).mpr (.inr ⟨he, hne, hfree⟩), hstands, hpaced, hlength, hlines, horder, hbest⟩

end Sys2Proof.Proofs.OwnTally
end

section
/-! The estimate list: what a recomputation stores, and the delays of the four cases with their chain. -/
namespace Sys2Proof.Proofs.EstimateList
open Sys2Proof Sys2Proof.Machine Effects Requests ConfigGet Owners Events Rendering Journey Driver LegChanges SeatViews OwnTally

variable {s : State} {x y z : Part} {k p n : Nat} {stops : List StopRec} {r : Route} {g : Progress}

/-! ### What is stored -/

theorem nameStops_est (l : List Nat) (x : Part) : (nameStops l x).est = x.est := by
  unfold nameStops
  split <;> rfl

theorem estRecompute_est (hrun : isRun x = true) :
    (estRecompute x).est = estimate x.route x.unit.portionTag x.host.params.threshold := by
  rw [estRecompute, if_pos hrun, nameStops_est]
  rfl

theorem isRun_of_supply (h : y.supply = x.supply) : isRun y = isRun x := by rw [isRun, isRun, h]

/-- The list as it is recomputed after the legs and the seats. -/
theorem recomputed_of_keeps {L : List Block} (h : Keeps L x y) (hrun : isRun x = true) (hroute : y.route = x.route)
    (hunit : Block.unit ∉ L) (hparams : Block.params ∉ L) (hsupply : Block.supply ∉ L) :
    (estRecompute y).est = estimate x.route x.unit.portionTag x.host.params.threshold := by
  rw [estRecompute_est ((isRun_of_supply (supply_of_keeps h hsupply)).trans hrun), hroute, unit_of_keeps h hunit,
    params_of_keeps h hparams]

theorem handOff_est (notes : List Note) (cause : Cause) (hrun : isRun x = true) :
    (handOff notes cause x).est = estimate x.route x.unit.portionTag x.host.params.threshold := by
  have hbefore : Keeps [.legs, .host, .events, .tallies, .views, .seat, .panel, .disp] x (refreshSeats (handleNotes notes x)) :=
    Keeps.step refreshSeats_keeps rfl (Keeps.step handleNotes_keeps rfl .refl)
  have hafter : (handOff notes cause x).est = (estRecompute (refreshSeats (handleNotes notes x))).est :=
    Owners.est_of_keeps (L := [.panel, .disp]) (Keeps.step restartStabling_keeps rfl (Keeps.step lightAndCompose_keeps rfl .refl)) (by decide)
  rw [hafter, recomputed_of_keeps hbefore hrun (route_of_keeps hbefore (by decide) (by decide)) (by decide) (by decide) (by decide)]

/-- The route with the clock written. -/
def clocked (v : Nat) (r : Route) : Route := { r with clock := v, clockSet := true, rangeLatched := false }

theorem writeClock_est (v : Nat) (hrun : isRun x = true) :
    (writeClock v x).est = estimate (clocked v x.route) x.unit.portionTag x.host.params.threshold := by
  have hbefore : Keeps [.tallies, .views, .seat, .panel, .disp, .legs, .host, .events] { x with route := clocked v x.route }
      (refreshSeats (decideDeadlines { x with route := clocked v x.route })) :=
    Keeps.step refreshSeats_keeps rfl (Keeps.step decideDeadlines_keeps rfl .refl)
  have hafter : (writeClock v x).est = (estRecompute (refreshSeats (decideDeadlines { x with route := clocked v x.route }))).est := by
    unfold writeClock
    exact Owners.est_of_keeps composer_keeps (by decide)
  rw [hafter]
  exact recomputed_of_keeps hbefore hrun (route_of_keeps hbefore (by decide) (by decide)) (by decide) (by decide) (by decide)

/-! ### The chain of delays -/

/-- The delay that a stop hands on to the next. -/
def carried (stops : List StopRec) (k : Nat) (a b : Nat × Int) : Prop :=
  b.2 = saturate (max 0 (max 0 (a.2 - slack stops a.1) - rEff stops k a.1 b.1))

theorem delayChain_stops (stops : List StopRec) (k j : Nat) (d : Int) (l : List Nat) : (delayChain stops k j d l).map (·.1) = l := by
  induction l generalizing j d with
  | nil => rfl
  | cons i l ih => exact congrArg (i :: ·) (ih _ _)

theorem delayChain_carried {i : Nat} {a b : Nat × Int} (j : Nat) (d : Int) (l : List Nat)
    (ha : ((j, d) :: delayChain stops k j d l)[i]? = some a) (hb : ((j, d) :: delayChain stops k j d l)[i + 1]? = some b) :
    carried stops k a b := by
  induction l generalizing i j d with
  | nil =>
    rw [List.getElem?_cons_succ] at hb
    exact absurd hb nofun
  | cons m l ih =>
    cases i with
    | zero =>
      obtain rfl := Option.some.inj ha
      obtain rfl := Option.some.inj hb
      rfl
    | succ i => exact ih m _ ha hb

theorem delays_eq {rest : List Nat} (hp : r.prog.p = some p) (hahead : (r.ownSeq.filter fun i => decide (p < i)) = n :: rest) :
    delays r k = (if r.prog.state = .standing then [(p, saturate (delayAtP r.stops r.prog p))] else []) ++
      (n, saturate (delayAtN r.stops k r.clock r.prog p n)) ::
        delayChain r.stops k n (saturate (delayAtN r.stops k r.clock r.prog p n)) rest := by
  unfold delays
  rw [hp]
  dsimp only
  rw [hahead]
  simp only [beq_iff_eq]

/-- The stops of the list, p while STANDING and those ahead. -/
theorem delays_stops (hp : r.prog.p = some p) (hstate : r.prog.state ≠ .standing) :
    (delays r k).map (·.1) = r.ownSeq.filter fun i => decide (p < i) := by
  cases hahead : r.ownSeq.filter fun i => decide (p < i) with
  | nil =>
    unfold delays
    rw [hp]
    dsimp only
    rw [hahead]
    rfl
  | cons n rest =>
    rw [delays_eq hp hahead, if_neg hstate, List.nil_append, List.map_cons, delayChain_stops]

/-! ### The delays in the terms of section 4.3 -/

/-- A scheduled second that the checks guarantee. -/
def scheduled (m : Option Nat) : Int := 60 * ((m.getD 0 : Nat) : Int)

/-- A delay within its range. -/
def bounded (d : Int) : Int := max (-59940) (min 59940 d)

/-- The dwell slack of a stop. -/
def dwellSlack (stops : List StopRec) (j : Nat) : Int := match schedArr stops j, schedDep stops j with
  | some a, some d => max (0 : Int) (60 * ((d : Int) - (a : Int)) - (((stops[j]?).map (·.dwell)).getD 0 : Nat))
  | _, _ => 0

theorem slack_eq (stops : List StopRec) (j : Nat) : slack stops j = dwellSlack stops j := by
  unfold slack dwellSlack schedDwell
  cases schedArr stops j <;> cases schedDep stops j <;> rfl

/-- The arrival delay at p. -/
def delayHeld (stops : List StopRec) (g : Progress) (p : Nat) : Int := match g.arr, schedArr stops p with
  | some a, some m => bounded ((a : Int) - 60 * (m : Int))
  | _, _ => 0

theorem delayAtP_eq (stops : List StopRec) (g : Progress) (p : Nat) : saturate (delayAtP stops g p) = delayHeld stops g p := by
  unfold delayAtP delayHeld
  cases g.arr <;> cases schedArr stops p <;> rfl

/-- The delay at n in the four cases. -/
def delayNext (stops : List StopRec) (k now : Nat) (g : Progress) (p n : Nat) : Int :=
  if g.state = .standing then
    max 0 (max (max 0 (delayHeld stops g p - dwellSlack stops p)) ((now : Int) - scheduled (schedDep stops p)) - rEff stops k p n)
  else if g.state = .halted then max 0 (max 0 ((now : Int) - scheduled (schedDep stops p)) - rEff stops k p n)
  else match g.d, g.dep with
    | some d, _ =>
      (now : Int) + ((((scheduled (schedArr stops n) - scheduled (schedDep stops p)).toNat * min d (lEff stops k p n) +
        (lEff stops k p n - 1)) / lEff stops k p n : Nat) : Int) - scheduled (schedArr stops n)
    | none, some dep =>
      if (dep : Int) ≤ scheduled (schedDep stops p) then (dep : Int) - scheduled (schedDep stops p)
      else max 0 ((dep : Int) - scheduled (schedDep stops p) - rEff stops k p n)
    | none, none => max 0 (max 0 ((now : Int) - scheduled (schedDep stops p)) - rEff stops k p n)

theorem delayAtN_eq (stops : List StopRec) (k now : Nat) (g : Progress) (p n : Nat) :
    delayAtN stops k now g p n = delayNext stops k now g p n := by
  have hway (h : g.state ≠ .standing) (h' : g.state ≠ .halted) : delayAtN stops k now g p n = delayNext stops k now g p n := by
    have hmodel : delayAtN stops k now g p n = match g.d, g.dep with
        | some d, _ => ((now : Int) + remaining stops k p n d) - second (schedArr stops n)
        | none, some t =>
          if (t : Int) - second (schedDep stops p) ≤ 0 then (t : Int) - second (schedDep stops p)
          else max 0 ((t : Int) - second (schedDep stops p) - rEff stops k p n)
        | none, none => max 0 (overdue stops now p - rEff stops k p n) := by
      unfold delayAtN
      cases hs : g.state <;> simp_all <;> rfl
    rw [hmodel, delayNext, if_neg h, if_neg h']
    cases g.d with
    | some d => rfl
    | none =>
      cases g.dep with
      | none => rfl
      | some t =>
        have hsecond : second (schedDep stops p) = scheduled (schedDep stops p) := rfl
        dsimp only
        rw [hsecond]
        by_cases hlate : (t : Int) ≤ scheduled (schedDep stops p)
        · rw [if_pos hlate, if_pos (by omega)]
        · rw [if_neg hlate, if_neg (by omega)]
  by_cases h : g.state = .standing
  · rw [delayNext, if_pos h, ← slack_eq, ← delayAtP_eq, delayAtN, h]
    rfl
  · by_cases h' : g.state = .halted
    · rw [delayNext, if_neg h, if_pos h', delayAtN, h']
      rfl
    · exact hway h h'

/-! ### The entries -/

/-- The entries of a list with figures. -/
def figured (r : Route) (k threshold : Nat) : List EstEntry := (delays r k).map (estEntry r.stops threshold)

theorem estimate_entries (r : Route) (k threshold : Nat) (hset : r.clockSet = true) : (estimate r k threshold).entries =
    if underWay r.prog.state = true then figured r k threshold else [] := by
  unfold estimate
  dsimp only
  rw [if_pos hset]
  split <;> rfl

theorem estEntry_shows {threshold : Nat} {e : EstEntry} {v : Int} (he : e ∈ figured r k threshold) (hv : e.delay = some v) :
    e.minutes = some (delayMinutes v) ∧ e.shown = decide ((threshold : Int) ≤ delayMinutes v) ∧
      e.expected = (schedArr r.stops e.stop).map fun (a : Nat) =>
        if e.shown = true then (((a : Int) + delayMinutes v) % 1440).toNat else a % 1440 := by
  obtain ⟨a, -, rfl⟩ := List.mem_map.mp he
  obtain rfl := Option.some.inj hv
  exact ⟨rfl, rfl, rfl⟩

theorem figured_eq {threshold : Nat} {rest : List Nat} (hp : r.prog.p = some p)
    (hahead : (r.ownSeq.filter fun i => decide (p < i)) = n :: rest) : figured r k threshold =
      (if r.prog.state = .standing then [estEntry r.stops threshold (p, delayHeld r.stops r.prog p)] else []) ++
        ((n, bounded (delayNext r.stops k r.clock r.prog p n)) ::
          delayChain r.stops k n (bounded (delayNext r.stops k r.clock r.prog p n)) rest).map (estEntry r.stops threshold) := by
  have hbound (d : Int) : saturate d = bounded d := rfl
  rw [figured, delays_eq hp hahead, delayAtP_eq, delayAtN_eq, hbound, List.map_append]
  split <;> rfl

/-- The stops and the delays of the list under way. -/
theorem figured_delays {threshold : Nat} {rest : List Nat} (hp : r.prog.p = some p)
    (hahead : (r.ownSeq.filter fun i => decide (p < i)) = n :: rest) :
    ((figured r k threshold).map fun e => e.stop) = (if r.prog.state = .standing then [p] else []) ++ n :: rest ∧
    (r.prog.state = .standing → ((figured r k threshold)[0]?).map (fun e => e.delay) = some (some (delayHeld r.stops r.prog p))) ∧
    ((figured r k threshold)[if r.prog.state = .standing then 1 else 0]?).map (fun e => e.delay) =
      some (some (bounded (delayNext r.stops k r.clock r.prog p n))) ∧
    ∀ (i : Nat) e e', (if r.prog.state = .standing then 1 else 0) ≤ i → (figured r k threshold)[i]? = some e →
      (figured r k threshold)[i + 1]? = some e' → ∀ d, e.delay = some d →
        e'.delay = some (bounded (max 0 (max 0 (d - dwellSlack r.stops e.stop) - rEff r.stops k e.stop e'.stop))) := by
  have hchain {i : Nat} {e e' : EstEntry} {v d : Int}
      (he : (((n, v) :: delayChain r.stops k n v rest).map (estEntry r.stops threshold))[i]? = some e)
      (he' : (((n, v) :: delayChain r.stops k n v rest).map (estEntry r.stops threshold))[i + 1]? = some e')
      (hd : e.delay = some d) :
      e'.delay = some (bounded (max 0 (max 0 (d - dwellSlack r.stops e.stop) - rEff r.stops k e.stop e'.stop))) := by
    rw [List.getElem?_map] at he he'
    obtain ⟨a, ha, rfl⟩ := Option.map_eq_some_iff.mp he
    obtain ⟨b, hb, rfl⟩ := Option.map_eq_some_iff.mp he'
    obtain rfl := Option.some.inj hd
    have hcarried := delayChain_carried n v rest ha hb
    rw [carried, slack_eq] at hcarried
    exact congrArg some hcarried
  have hstops (v : Int) : (((n, v) :: delayChain r.stops k n v rest).map (estEntry r.stops threshold)).map (fun e => e.stop) =
      n :: rest := by
    rw [List.map_map, List.map_cons]
    exact congrArg (n :: ·) (delayChain_stops r.stops k n v rest)
  rw [figured_eq hp hahead]
  by_cases hstanding : r.prog.state = .standing
  · simp only [if_pos hstanding]
    refine ⟨?_, fun _ => rfl, rfl, fun i e e' hi he he' d hd => ?_⟩
    · rw [List.map_append, hstops]
      rfl
    · obtain ⟨j, rfl⟩ : ∃ j, i = j + 1 := ⟨i - 1, by omega⟩
      exact hchain he he' hd
  · simp only [if_neg hstanding, List.nil_append]
    exact ⟨hstops _, fun h => absurd h hstanding, rfl, fun i e e' _ he he' d hd => hchain he he' hd⟩

/-! ### The two messages -/

theorem step_of_time {tag : Byte} {body : List Byte} {t : ClockTime} (h : Accepts s tag) (hbody : readTime body = some t)
    (hday : t.day ≤ 1) (ht : t.ok = true) : exec (.time tag body) s =
      .next { s with part := finish (answer tag .ok [] (writeClock t.seconds (handed 0x0D#8 tag s.part))) } := by
  have hc : effect (.time tag body) (quiet s.part) = hostRequest 0x0D#8 tag (some t) ownTime (quiet s.part) := by
    rw [← hbody]
    rfl
  have hown : ownTime t (handed 0x0D#8 tag s.part) = taken (writeClock t.seconds (handed 0x0D#8 tag s.part)) :=
    (checked_next (decide_eq_false (Nat.not_lt.mpr hday))).trans ((checked_next (by simp [ht])).trans checked_nil)
  obtain ⟨u, hexec, rfl, -, -⟩ := step_of_taken h hc rfl hown (writeClock_leaves ..)
  exact hexec

theorem isRun_handed {tag : Byte} (h : Accepts s tag) (kind : Byte) : isRun (handed kind tag s.part) = true := by
  rw [isRun, handed_supply, h.1]
  rfl

theorem underWay_iff {g : PState} : underWay g = true ↔ g = .standing ∨ g = .departed ∨ g = .approaching ∨ g = .halted := by
  cases g <;> decide

/-- The list of stops without figures. -/
theorem blank_entries {threshold : Nat} (hset : r.clockSet = false) (hp : r.prog.p = some p) (hstate : r.prog.state = .departed) :
    (estimate r k threshold).valid = false ∧ (estimate r k threshold).entries = (r.ownSeq.filter fun i => decide (p < i)).map fun i =>
      { stop := i, delay := none, minutes := none, shown := false, expected := none } := by
  have hway : underWay r.prog.state = true := underWay_iff.mpr (.inr (.inl hstate))
  have hentries : (estimate r k threshold).entries = (delays r k).map blankEntry := by
    unfold estimate
    dsimp only
    rw [if_neg (by simp [hset]), if_pos hway]
  refine ⟨hset, ?_⟩
  rw [hentries, ← delays_stops hp (by rw [hstate]; exact nofun), List.map_map]
  rfl

/-- Settles O50: TIME stores the list of the route with the clock written, whose delays are those of section 4.3, and a departure
without a clock the stops ahead without figures. -/
theorem theEstimateListIsRebuilt : Obligations.TheEstimateListIsRebuilt := by
  refine ⟨fun s tag body t h hbody hday ht => ?time,
    fun s tag body k p t h hbody hk hday ht hsource hstood hp hset => ?departed⟩
  case time =>
    have hest := writeClock_est t.seconds (isRun_handed h 0x0D#8)
    have hentries := estimate_entries (clocked t.seconds s.part.route) s.part.unit.portionTag s.part.host.params.threshold rfl
    intro g stops k now sec sat slackOf
    refine ⟨_, step_of_time h hbody hday ht, ?_⟩
    simp only [finish_est, answer_est, hest]
    refine ⟨rfl, fun hidle => ?_, fun e he d hd => ?_, fun p n rest hstate hp hahead => ?_⟩
    · have hnot : underWay s.part.route.prog.state ≠ true := by
        obtain hs | hs | hs := hidle
        · rw [hs]
          exact nofun
        · rw [hs]
          exact nofun
        · rw [hs]
          exact nofun
      exact hentries.trans (if_neg hnot)
    · have hlisted : e ∈ figured (clocked t.seconds s.part.route) s.part.unit.portionTag s.part.host.params.threshold := by
        have hmem : e ∈ (estimate (clocked t.seconds s.part.route) s.part.unit.portionTag s.part.host.params.threshold).entries := he
        rw [hentries] at hmem
        split at hmem
        · exact hmem
        · exact absurd hmem List.not_mem_nil
      obtain ⟨hminutes, hshown, hexpected⟩ := estEntry_shows hlisted hd
      unfold delayMinutes at hminutes hshown hexpected
      exact ⟨hminutes, hshown, hexpected⟩
    · have hway : underWay (clocked t.seconds s.part.route).prog.state = true := underWay_iff.mpr hstate
      have hfigured := hentries.trans (if_pos hway)
      have hdelays := figured_delays (r := clocked t.seconds s.part.route) (k := s.part.unit.portionTag)
        (threshold := s.part.host.params.threshold) hp hahead
      rw [← hfigured] at hdelays
      exact hdelays
  case departed =>
    have hat : (handed 0x0E#8 tag s.part).route.prog.p = some p := hp
    refine ⟨_, step_of_departed h hbody hk hday ht hsource hstood, ?_⟩
    rw [finish_est, answer_est, takeDeparted, handOff_est _ _ (by exact isRun_handed h 0x0E#8)]
    exact blank_entries hset hat rfl

end Sys2Proof.Proofs.EstimateList
end

section
/-! The panels: what a coach shows, what a rendered panel holds, and the standing side. -/
namespace Sys2Proof.Proofs.PanelContents
open Sys2Proof Sys2Proof.Machine Effects Requests ConfigGet Owners Events Rendering Journey Driver Slots DisplayLine Notices LegChanges
  SeatViews TrainTally OwnTally OwnEntries EstimateList

variable {s : State} {x y z : Part} {i j k n p booked : Nat} {slots : List (Option Slot)} {a : EpAddr} {d : Display}

/-! ### Selection (R151) -/

/-- The slot at an index applies to a coach. -/
def hits (booked : Nat) (x : Option Slot) : Bool := x.any fun y => applies y booked

/-- The sub-priority at an index. -/
def rank (x : Option Slot) : Nat := (x.map (·.subPriority)).getD 0

/-- The selection of a list of slots: the highest sub-priority, the lowest index among equals, the indexes from `i` on. -/
def Selects (booked i : Nat) (slots : List (Option Slot)) (o : Option (Nat × Nat)) : Prop :=
  (o = none → ∀ x ∈ slots, hits booked x = false) ∧
    ∀ j sp, o = some (j, sp) → i ≤ j ∧ ∃ x, slots[j - i]? = some x ∧ hits booked x = true ∧ rank x = sp ∧
      ∀ (j' : Nat) x', slots[j']? = some x' → hits booked x' = true → rank x' < sp ∨ (rank x' = sp ∧ j ≤ i + j')

theorem selects_skip {v : Option Slot} {o : Option (Nat × Nat)} (hv : hits booked v = false) (h : Selects booked (i + 1) slots o) :
    Selects booked i (v :: slots) o := by
  obtain ⟨hnone, hsome⟩ := h
  refine ⟨fun ho => List.forall_mem_cons.mpr ⟨hv, hnone ho⟩, fun j sp ho => ?_⟩
  obtain ⟨hij, x, hx, hhit, hrank, hbest⟩ := hsome j sp ho
  obtain ⟨m, rfl⟩ : ∃ m, j = i + 1 + m := ⟨j - (i + 1), by omega⟩
  refine ⟨by omega, x, ?_, hhit, hrank, fun j' x' hx' hhit' => ?_⟩
  · have h1 : i + 1 + m - i = m + 1 := by omega
    have h2 : i + 1 + m - (i + 1) = m := by omega
    rw [h2] at hx
    rw [h1, List.getElem?_cons_succ]
    exact hx
  · cases j' with
    | zero =>
      obtain rfl := Option.some.inj hx'
      exact absurd (hv.symm.trans hhit') nofun
    | succ j' =>
      have hlater := hbest j' x' hx' hhit'
      omega

/-- A slot that applies is the selection where none after it ranks higher. -/
theorem selects_here {y : Slot} {o : Option (Nat × Nat)} (hy : applies y booked = true) (h : Selects booked (i + 1) slots o)
    (hle : ∀ j sp, o = some (j, sp) → sp ≤ y.subPriority) : Selects booked i (some y :: slots) (some (i, y.subPriority)) := by
  obtain ⟨hnone, hsome⟩ := h
  refine ⟨nofun, fun j sp ho => ?_⟩
  obtain ⟨rfl, rfl⟩ := Prod.mk.inj (Option.some.inj ho)
  refine ⟨le_rfl, some y, by rw [Nat.sub_self]; rfl, hy, rfl, fun j' x' hx' hhit' => ?_⟩
  cases j' with
  | zero =>
    obtain rfl := Option.some.inj hx'
    exact .inr ⟨rfl, le_rfl⟩
  | succ j' =>
    rw [List.getElem?_cons_succ] at hx'
    cases o with
    | none => exact absurd ((hnone rfl x' (List.mem_of_getElem? hx')).symm.trans hhit') nofun
    | some o =>
      obtain ⟨-, -, -, -, -, hbest⟩ := hsome o.1 o.2 rfl
      have hlater := hbest j' x' hx' hhit'
      have htop := hle o.1 o.2 rfl
      omega

theorem selects_later {y : Slot} {sp : Nat} (hlt : y.subPriority < sp) (h : Selects booked (i + 1) slots (some (j, sp))) :
    Selects booked i (some y :: slots) (some (j, sp)) := by
  obtain ⟨-, hsome⟩ := h
  obtain ⟨hij, x, hx, hhit, hrank, hbest⟩ := hsome j sp rfl
  obtain ⟨m, rfl⟩ : ∃ m, j = i + 1 + m := ⟨j - (i + 1), by omega⟩
  refine ⟨nofun, fun j' sp' ho => ?_⟩
  obtain ⟨rfl, rfl⟩ := Prod.mk.inj (Option.some.inj ho)
  refine ⟨by omega, x, ?_, hhit, hrank, fun j' x' hx' hhit' => ?_⟩
  · have h1 : i + 1 + m - i = m + 1 := by omega
    have h2 : i + 1 + m - (i + 1) = m := by omega
    rw [h2] at hx
    rw [h1, List.getElem?_cons_succ]
    exact hx
  · cases j' with
    | zero =>
      obtain rfl := Option.some.inj hx'
      exact .inl hlt
    | succ j' =>
      have hlater := hbest j' x' hx' hhit'
      omega

theorem selectFrom_selects (booked i : Nat) (slots : List (Option Slot)) : Selects booked i slots (selectFrom booked i slots) := by
  induction slots generalizing i with
  | nil => exact ⟨fun _ => nofun, nofun⟩
  | cons v slots ih =>
    cases v with
    | none => exact selects_skip rfl (ih (i + 1))
    | some y =>
      have hrest := ih (i + 1)
      have hstep : selectFrom booked i (some y :: slots) = if applies y booked then
          match selectFrom booked (i + 1) slots with
          | some (j, sp) => if y.subPriority < sp then some (j, sp) else some (i, y.subPriority)
          | none => some (i, y.subPriority)
        else selectFrom booked (i + 1) slots := by
        rw [selectFrom] <;> rfl
      rw [hstep]
      by_cases hy : applies y booked = true
      · rw [if_pos hy]
        cases hr : selectFrom booked (i + 1) slots with
        | none =>
          rw [hr] at hrest
          exact selects_here hy hrest fun _ _ ho => absurd ho nofun
        | some o =>
          obtain ⟨j, sp⟩ := o
          rw [hr] at hrest
          dsimp only
          by_cases hlt : y.subPriority < sp
          · rw [if_pos hlt]
            exact selects_later hlt hrest
          · rw [if_neg hlt]
            refine selects_here hy hrest fun j' sp' ho => ?_
            obtain ⟨rfl, rfl⟩ := Prod.mk.inj (Option.some.inj ho)
            exact Nat.not_lt.mp hlt
      · rw [if_neg hy]
        exact selects_skip (by simpa [hits] using hy) hrest

/-- The selected slot of a level for a coach. -/
theorem selected_spec (slots : List (Option Slot)) (booked : Nat) :
    (selected slots booked = none → ∀ x ∈ slots, hits booked x = false) ∧
    ∀ j, selected slots booked = some j → ∃ x, slots[j]? = some x ∧ hits booked x = true ∧
      ∀ (j' : Nat) x', slots[j']? = some x' → hits booked x' = true → rank x' < rank x ∨ (rank x' = rank x ∧ j ≤ j') := by
  obtain ⟨hnone, hsome⟩ := selectFrom_selects booked 0 slots
  refine ⟨fun h => hnone (Option.map_eq_none_iff.mp h), fun j h => ?_⟩
  obtain ⟨⟨m, sp⟩, ho, rfl⟩ := Option.map_eq_some_iff.mp h
  obtain ⟨-, x, hx, hhit, rfl, hbest⟩ := hsome m sp ho
  refine ⟨x, hx, hhit, fun j' x' hx' hhit' => ?_⟩
  have hlater := hbest j' x' hx' hhit'
  rw [Nat.zero_add] at hlater
  exact hlater

/-! ### Panels rendered anew -/

/-- An entry rendered with its content version raised. -/
def rerendered (r : PanelContent) (e : EpEntry) : EpEntry := { e with rendered := some r, content := (e.content + 1) % 256 }

theorem epAt_renderPanel_self (x : Part) (d : Display) (a : EpAddr) :
    epAt (renderPanel x d a) a = (epAt d a).map (rerendered (panelContent x a)) := by
  unfold renderPanel
  rw [epAt_raiseContent_self, epAt_epUpdate_self a (fun e : EpEntry => { e with rendered := some (panelContent x a) }) fun _ => rfl,
    Option.map_map]
  rfl

theorem epAt_renderPanel_ne {b : EpAddr} (h : b ≠ a) (x : Part) (d : Display) : epAt (renderPanel x d a) b = epAt d b := by
  unfold renderPanel
  rw [epAt_raiseContent_ne h, epAt_epUpdate_ne h (fun e : EpEntry => { e with rendered := some (panelContent x a) }) fun _ => rfl]

theorem epAt_renderAll (x : Part) (l : List EpAddr) (hl : l.Nodup) (d : Display) (ha : a ∈ l) :
    epAt (l.foldl (renderPanel x) d) a = (epAt d a).map (rerendered (panelContent x a)) := by
  have hspared (l : List EpAddr) (d : Display) (hnot : a ∉ l) : epAt (l.foldl (renderPanel x) d) a = epAt d a := by
    induction l generalizing d with
    | nil => rfl
    | cons b l ih =>
      rw [List.mem_cons, not_or] at hnot
      obtain ⟨hne, hnot⟩ := hnot
      rw [List.foldl_cons, ih _ hnot, epAt_renderPanel_ne hne]
  induction l generalizing d with
  | nil => exact absurd ha List.not_mem_nil
  | cons b l ih =>
    obtain ⟨hb, hl⟩ := List.nodup_cons.mp hl
    rw [List.foldl_cons]
    obtain rfl | ha := List.mem_cons.mp ha
    · rw [hspared _ _ hb, epAt_renderPanel_self]
    · have hne : a ≠ b := fun heq => hb (heq ▸ ha)
      rw [ih hl _ ha, epAt_renderPanel_ne hne]

/-- The part with the Composer's state re-evaluated. -/
def composed (x : Part) : Part := { x with panel := reevaluate x }

/-- Where all panels are rendered, every panel of the unit is. -/
theorem composer_entry {c : Cause} (hall : c.all = true) (hloud : c.silent = false) (ha : a ∈ endpointList x.unit.coaches)
    (hkind : a.kind ≠ .seat) : epAt (composer c x).disp a = (epAt x.disp a).map (rerendered (panelContent (composed x) a)) := by
  have hcomposer : composer c x = renderPanels (panelsWhere (composed x)
      (panelDue x.panel (composed x) { c with arrow := c.arrow || (standingSide x).2 })) (composed x) := by
    unfold composer
    dsimp only
    rw [if_neg (by simp [hloud])]
    rfl
  have hdue : panelDue x.panel (composed x) { c with arrow := c.arrow || (standingSide x).2 } a = true := by
    unfold panelDue interiorDue exteriorDue
    cases hk : a.kind with
    | seat => exact absurd hk hkind
    | interior => simp [hall]
    | exterior => simp [hall]
  have hnodup : (panelsWhere (composed x) (panelDue x.panel (composed x) { c with arrow := c.arrow || (standingSide x).2 })).Nodup :=
    (endpointList_nodup _).filter _
  rw [hcomposer]
  exact epAt_renderAll (composed x) _ hnodup x.disp (List.mem_filter.mpr ⟨ha, hdue⟩)

/-! ### What a coach shows -/

theorem reevaluate_coach {c : CoachRec} (hc : x.unit.coaches[i]? = some c) : (reevaluate x).coaches[i]? =
    some (coachShow { x.panel with standing := (standingSide x).1 } x.route.prog.state c.booked) := by
  have hcoaches : (reevaluate x).coaches = x.unit.coaches.map fun c =>
      coachShow { x.panel with standing := (standingSide x).1 } x.route.prog.state c.booked := rfl
  rw [hcoaches, List.getElem?_map, hc]
  rfl

theorem coachShow_shown (q : Panels) (g : PState) (booked : Nat) : (coachShow q g booked).shown =
    if (coachShow q g booked).staff.isSome = true then .staff
    else if g = .standing ∨ g = .halted then .standing
    else if g = .approaching then .approach
    else if (coachShow q g booked).service.isSome = true then .service
    else if g = .departed then .journey else .idle := by
  cases g <;> rfl

/-- A coach shows STANDING only while the train stands, APPROACH only while it approaches. -/
theorem shown_standing {q : Panels} {g : PState} (h : (coachShow q g booked).shown = .standing) : g = .standing ∨ g = .halted := by
  rw [coachShow_shown] at h
  (repeat' split at h) <;> simp_all

theorem shown_approach {q : Panels} {g : PState} (h : (coachShow q g booked).shown = .approach) : g = .approaching := by
  rw [coachShow_shown] at h
  (repeat' split at h) <;> simp_all

/-! ### What rendering reads -/

/-- Two parts that render alike: description, texts, route and estimates. -/
structure Alike (x y : Part) : Prop where
  unit : y.unit = x.unit
  text : y.text = x.text
  route : y.route = x.route
  est : y.est = x.est

theorem Alike.substituted (h : Alike x y) (coach : Nat) (arrow : Arrow) (lang : Nat) (codes : List Byte) :
    substituted y coach arrow lang codes = substituted x coach arrow lang codes := by
  have hcode (code : Nat) : substitute y coach arrow lang code = substitute x coach arrow lang code := by
    unfold substitute
    rw [h.unit, h.text, h.route, h.est]
  unfold Machine.substituted
  simp only [hcode]

theorem Alike.renderPage (h : Alike x y) (coach : Nat) (arrow : Arrow) (lang : Nat) (page : Page) :
    renderPage y coach arrow lang page = renderPage x coach arrow lang page := by
  cases page with
  | composed ls named =>
    have hpiece : pieceText y lang = pieceText x lang := by
      unfold pieceText
      rw [h.text, h.route, h.est]
    rw [Machine.renderPage, Machine.renderPage, hpiece]
  | notice handle page => rw [Machine.renderPage, Machine.renderPage, h.substituted, h.text]

theorem panelArrow_congr (hroute : y.route = x.route) (hstanding : y.panel.standing = x.panel.standing)
    (hown : ownOrientation y = ownOrientation x) (num : Nat) : panelArrow y num = panelArrow x num := by
  rw [panelArrow, panelArrow, arrowSide, arrowSide, hroute, hstanding, hown]

theorem ownOrientation_congr (h : inForce y = inForce x) : ownOrientation y = ownOrientation x := by
  rw [ownOrientation, ownOrientation, h]

/-- What a coach's panels show reads contexts and slots alone. -/
theorem shownPage_stabling (q : Panels) (v : Option Nat) (w : CoachShow) : shownPage { q with stabling := v } w = shownPage q w := by
  unfold shownPage Machine.rotationOf
  cases w.shown <;> rfl

/-! ### The content of a panel -/

theorem interior_lines {w : CoachShow} {num : Nat} (hlit : x.panel.brightness ≠ .dark) (hw : x.panel.coaches[i]? = some w) :
    interiorContent x i num = { brightness := x.panel.brightness
                                lines := ((shownPage x.panel w).map fun y => renderPage x i (panelArrow x num) y.2 y.1).getD [[], [], []]
                                arrow := if w.shown = .standing ∨ w.shown = .approach then panelArrow x num else .none } := by
  unfold interiorContent
  dsimp only
  rw [if_neg (by simpa using hlit), hw]
  simp

/-- The arrow of an interior panel that shows a level. -/
theorem arrow_shown {q : Panels} {num : Nat} {w : CoachShow} (hw : w = coachShow q x.route.prog.state booked) :
    (if w.shown = .standing ∨ w.shown = .approach then panelArrow x num else .none) =
      if w.shown = .standing ∧ x.route.prog.state = .standing then arrowAt ((x.panel.standing.map (·.side)).getD .none) num
      else if w.shown = .approach then
        arrowAt ((x.route.prog.n.map fun n => physical (sideOf x.route n) (ownOrientation x)).getD .none) num
      else .none := by
  by_cases hstanding : w.shown = .standing
  · have hnot : w.shown ≠ .approach := by
      rw [hstanding]
      exact nofun
    rw [if_pos (.inl hstanding), if_neg hnot]
    obtain hs | hs := shown_standing (hw ▸ hstanding)
    · rw [if_pos ⟨hstanding, hs⟩, panelArrow, arrowSide, hs]
    · have hhalted : ¬ (w.shown = .standing ∧ x.route.prog.state = .standing) := by
        rw [hs]
        exact fun h => absurd h.2 nofun
      rw [if_neg hhalted, panelArrow, arrowSide, hs]
      rfl
  · by_cases happroach : w.shown = .approach
    · have hs := shown_approach (hw ▸ happroach)
      rw [if_pos (.inr happroach), if_neg (fun h => hstanding h.1), if_pos happroach, panelArrow, arrowSide, hs]
    · rw [if_neg (fun h => h.elim hstanding happroach), if_neg (fun h => hstanding h.1), if_neg happroach]

/-- The line of a text field, cut to the width of a line. -/
def cutLine (texts : TextStore) (x : Part) (coach : Nat) (o : Option Nat) : List Byte := match o with
  | some h => (((itemLines (substituted x coach .none 0 (textIn texts h 0))).head?).getD []).take 40
  | none => []

theorem fieldLine_take (x : Part) (coach : Nat) (o : Option Nat) : (fieldLine x coach o).take 40 = cutLine x.text x coach o := by
  cases o <;> rfl

theorem exterior_lines {c : CoachRec} (hlit : x.panel.brightness ≠ .dark) (hc : x.unit.coaches[i]? = some c) :
    exteriorContent x i = { brightness := x.panel.brightness
                            lines := [(number c.booked).take 40, cutLine x.text x i (destination x.route), cutLine x.text x i x.route.train]
                            arrow := .none } := by
  unfold exteriorContent
  rw [if_neg (by simpa using hlit), hc, ← fieldLine_take, ← fieldLine_take]
  rfl

end Sys2Proof.Proofs.PanelContents
end

section
/-! Every panel at a change of the night flag, and the standing side at an arrival. -/
namespace Sys2Proof.Proofs.EveryPanel
open Sys2Proof Sys2Proof.Machine Effects Requests ConfigGet Owners Events Rendering Journey Driver Slots DisplayLine Notices LegChanges
  SeatViews TrainTally OwnTally OwnEntries EstimateList PanelContents Coupler

variable {s : State} {x y z : Part} {i k p f : Nat} {a : EpAddr} {b : Brightness} {tag : Byte} {body : List Byte}

/-! ### The night flag -/

/-- The part with the night flag stored. -/
def nighted (f : Nat) (x : Part) : Part := onHost (fun h => { h with params := { h.params with night := f } }) x

/-- The brightness the night flag gives. -/
def nightBrightness (f : Nat) : Brightness := if f = 1 then .dim else .bright

theorem nightBrightness_lit (f : Nat) : nightBrightness f ≠ .dark := by
  unfold nightBrightness
  split <;> exact nofun

/-- The part re-evaluated at the brightness of the flag: what the panels are rendered from. -/
def lit (f : Nat) (x : Part) : Part := composed (setBrightness (nightBrightness f) (nighted f x))

theorem nightChanged_eq (hne : x.panel.brightness ≠ nightBrightness f) : nightChanged (nighted f x) =
    restartStabling (composer { all := true } (setBrightness (nightBrightness f) (nighted f x))) := by
  have hlit : litBrightness (nighted f x) = nightBrightness f := by
    have hnight : (nighted f x).host.params.night = f := rfl
    rw [litBrightness, hnight, nightBrightness]
    simp only [beq_iff_eq]
  have hother : (false || nightBrightness f != (nighted f x).panel.brightness) = true := by
    have hpanel : (nighted f x).panel = x.panel := rfl
    rw [hpanel]
    simpa using fun h => hne h.symm
  unfold nightChanged lightAndCompose
  dsimp only
  rw [hlit, hother]

theorem setParam_night (hf : f ≠ x.host.params.night) : setParam 10 f x = nightChanged (nighted f x) := by
  have hget : x.host.params.get 10 = some x.host.params.night := rfl
  rw [setParam, if_neg (by rw [hget]; simpa using fun h => hf h.symm)]
  rfl

theorem step_of_night (h : Accepts s tag) (hbody : readConfigSet body = some (10, f)) (hsmall : f ≤ 1)
    (hf : f ≠ s.part.host.params.night) : exec (.configSet tag body) s =
      .next { s with part := finish (answer tag .ok (e1 10 ++ e2 f) (nightChanged (nighted f (handed 0x01#8 tag s.part)))) } := by
  have hc : effect (.configSet tag body) (quiet s.part) = hostRequest 0x01#8 tag (some (10, f)) ownConfigSet (quiet s.part) := by
    rw [← hbody]
    rfl
  have hadmitted : (handed 0x01#8 tag s.part).host.params.admitted 10 f = some f := if_pos hsmall
  have hown : ownConfigSet (10, f) (handed 0x01#8 tag s.part) =
      takenWith (e1 10 ++ e2 f) (nightChanged (nighted f (handed 0x01#8 tag s.part))) := by
    rw [ownConfigSet, hadmitted, ← setParam_night (x := handed 0x01#8 tag s.part) (by rw [handed_params]; exact hf)]
  have hleaves : Leaves [.params, .form, .est, .sensors, .panel, .disp, .supply, .host] (handed 0x01#8 tag s.part)
      (nightChanged (nighted f (handed 0x01#8 tag s.part))) := by
    rw [← setParam_night (x := handed 0x01#8 tag s.part) (by rw [handed_params]; exact hf)]
    exact Parameters.setParam_leaves
  obtain ⟨u, hexec, rfl, -, -⟩ := step_of_taken (r := .ok) (d := e1 10 ++ e2 f) h hc rfl hown hleaves
  exact hexec

/-! ### What is left -/

/-- The part after the request: the panels as re-evaluated, the rest as it was. -/
structure Relit (f : Nat) (x y : Part) : Prop where
  panel : ∃ v, y.panel = { (lit f x).panel with stabling := v }
  alike : Alike (lit f x) y
  orientation : ownOrientation y = ownOrientation (lit f x)
  entries : ∀ a ∈ endpointList x.unit.coaches, a.kind ≠ .seat →
    epAt y.disp a = (epAt x.disp a).map (rerendered (panelContent (lit f x) a))

theorem nightChanged_relit (hne : x.panel.brightness ≠ nightBrightness f) : Relit f x (nightChanged (nighted f x)) := by
  have hcomposer := composer_eq { all := true } (setBrightness (nightBrightness f) (nighted f x))
  have hpanel := composer_panel { all := true } (setBrightness (nightBrightness f) (nighted f x))
  rw [nightChanged_eq hne]
  have htimer (z : Part) (q : Panels) (hz : z.panel = q) :
      (restartStabling z).panel = { q with stabling := (restartStabling z).panel.stabling } := by
    rw [← hz]
    rfl
  refine ⟨⟨_, htimer _ _ hpanel⟩, ?_, ?_, fun a ha hkind => ?_⟩
  · rw [hcomposer]
    exact ⟨rfl, rfl, rfl, rfl⟩
  · rw [hcomposer]
    rfl
  · exact composer_entry (x := setBrightness (nightBrightness f) (nighted f x)) rfl rfl ha hkind

theorem Relit.finished (h : Relit f x y) (tag : Byte) (detail : List Byte) : Relit f x (finish (answer tag .ok detail y)) := by
  obtain ⟨⟨v, hpanel⟩, halike, horientation, hentries⟩ := h
  refine ⟨⟨v, ?_⟩, ⟨?_, ?_, ?_, ?_⟩, ?_, fun a ha hkind => ?_⟩
  · rw [finish_panel, answer_panel, hpanel]
  · rw [finish_unit, answer_unit, halike.unit]
  · rw [finish_text, answer_text, halike.text]
  · rw [finish_route, answer_route, halike.route]
  · rw [finish_est, answer_est, halike.est]
  · rw [← horientation]
    exact ownOrientation_congr (inForce_congr (by simp) (by simp) (by simp) (by simp) (by simp))
  · rw [epAt_finish, answer_disp]
    exact hentries a ha hkind

theorem coach_endpoint_mem {u : UnitDesc} {c : CoachRec} (hc : u.coaches[i]? = some c) (ha : a ∈ coachEndpoints i c) :
    a ∈ endpointList u.coaches := by
  refine List.mem_flatten.mpr ⟨coachEndpoints i c, ?_, ha⟩
  rw [mapFrom_eq_map_zipIdx]
  exact List.mem_map.mpr ⟨(c, i), List.mem_zipIdx_iff_getElem?.mpr hc, rfl⟩

/-- What the coach of an index shows after the change. -/
def shownBy (f : Nat) (x : Part) (c : CoachRec) : CoachShow :=
  coachShow { (setBrightness (nightBrightness f) (nighted f x)).panel with
    standing := (standingSide (setBrightness (nightBrightness f) (nighted f x))).1 } x.route.prog.state c.booked

theorem lit_coach {c : CoachRec} (hc : x.unit.coaches[i]? = some c) : (lit f x).panel.coaches[i]? = some (shownBy f x c) :=
  reevaluate_coach (x := setBrightness (nightBrightness f) (nighted f x)) hc

theorem lit_brightness (f : Nat) (x : Part) : (lit f x).panel.brightness = nightBrightness f := rfl

theorem lit_orientation (f : Nat) (x : Part) : ownOrientation (lit f x) = ownOrientation x :=
  ownOrientation_congr (inForce_congr rfl rfl rfl rfl rfl)

theorem handed_orientation (kind tag : Byte) (s : State) : ownOrientation (handed kind tag s.part) = ownOrientation s.part :=
  ownOrientation_congr (inForce_congr rfl rfl rfl rfl rfl)

/-- The lines and the arrow of an interior panel. -/
theorem Relit.interior {c : CoachRec} {num : Nat} (h : Relit f x y) (hc : x.unit.coaches[i]? = some c) :
    (interiorContent (lit f x) i num).brightness = nightBrightness f ∧
    (interiorContent (lit f x) i num).lines = ((shownPage y.panel (shownBy f x c)).map fun v =>
      renderPage y i (panelArrow y num) v.2 v.1).getD [[], [], []] ∧
    (interiorContent (lit f x) i num).arrow =
      if (shownBy f x c).shown = .standing ∧ x.route.prog.state = .standing then
        arrowAt ((y.panel.standing.map (·.side)).getD .none) num
      else if (shownBy f x c).shown = .approach then
        arrowAt ((x.route.prog.n.map fun n => physical (sideOf x.route n) (ownOrientation x)).getD .none) num
      else .none := by
  obtain ⟨⟨v, hpanel⟩, halike, horientation, -⟩ := h
  have hcontent := interior_lines (x := lit f x) (num := num) (by rw [lit_brightness]; exact nightBrightness_lit f)
    (lit_coach (f := f) hc)
  have harrow : panelArrow y num = panelArrow (lit f x) num :=
    panelArrow_congr halike.route (by rw [hpanel]) horientation num
  have hshown : shownPage y.panel (shownBy f x c) = shownPage (lit f x).panel (shownBy f x c) := by
    rw [hpanel]
    exact shownPage_stabling (lit f x).panel v _
  rw [hcontent, hshown, harrow]
  refine ⟨rfl, ?_, ?_⟩
  · simp only [halike.renderPage]
  · refine (arrow_shown (x := lit f x) (w := shownBy f x c) rfl).trans ?_
    rw [lit_orientation, hpanel]
    rfl

/-- The lines of an exterior panel. -/
theorem Relit.exterior {c : CoachRec} (h : Relit f x y) (hc : x.unit.coaches[i]? = some c) :
    (exteriorContent (lit f x) i).brightness = nightBrightness f ∧ (exteriorContent (lit f x) i).arrow = .none ∧
    (exteriorContent (lit f x) i).lines =
      [(number c.booked).take 40, cutLine x.text y i (destination x.route), cutLine x.text y i x.route.train] := by
  have hcontent := exterior_lines (x := lit f x) (by rw [lit_brightness]; exact nightBrightness_lit f) hc
  have htext : (lit f x).text = x.text := rfl
  have hline (o : Option Nat) : cutLine x.text y i o = cutLine x.text (lit f x) i o := by
    unfold cutLine
    cases o with
    | none => rfl
    | some v =>
      dsimp only
      rw [h.alike.substituted]
  rw [hcontent, hline, hline, htext]
  exact ⟨rfl, rfl, rfl⟩

/-! ### The standing side at an arrival -/

theorem renderNamed_standing (ls : List ProgLevel) (g : CoachShow → Bool) (x : Part) :
    (renderNamed ls g x).panel.standing = x.panel.standing := by
  have hcontext (q : Panels) (l : ProgLevel) (v : Context) : (setContext q l v).standing = q.standing := by cases l <;> rfl
  have hfold (q : Panels) : (ls.foldl (fun q l => setContext q l (refreshLevel x l)) q).standing = q.standing := by
    induction ls generalizing q with
    | nil => rfl
    | cons l ls ih => exact (ih _).trans (hcontext ..)
  exact hfold x.panel

theorem nameStops_standing (l : List Nat) (x : Part) : (nameStops l x).panel.standing = x.panel.standing := by
  unfold nameStops
  split
  · rfl
  · exact renderNamed_standing ..

theorem nameSummary_standing (l : List SummaryEntry) (x : Part) : (nameSummary l x).panel.standing = x.panel.standing := by
  unfold nameSummary
  split
  · rfl
  · exact renderNamed_standing ..

theorem estRecompute_standing (x : Part) : (estRecompute x).panel.standing = x.panel.standing := by
  unfold estRecompute
  split
  · exact nameStops_standing ..
  · rfl

theorem tallyUpdate_standing (x : Part) : (tallyUpdate x).panel.standing = x.panel.standing := by
  have hreport (z : Part) : (reportTallies z).panel = z.panel := panel_of_keeps reportTallies_keeps (by decide)
  unfold tallyUpdate deriveSummary
  dsimp only
  split
  · rw [nameSummary_standing]
    exact congrArg Panels.standing (hreport _)
  · rfl

/-- The part as the Panel Composer finds it at an arrival. -/
def arrivedData (k v : Nat) (x : Part) : Part := estRecompute (tallyUpdate (recomputeSeats (noted k v x)))

theorem arrivedData_keeps (k v : Nat) (x : Part) :
    Keeps [.views, .disp, .tallies, .seat, .panel, .est] (noted k v x) (arrivedData k v x) := by
  rw [arrivedData]
  exact Keeps.step estRecompute_keeps rfl (Keeps.step tallyUpdate_keeps rfl (Keeps.step recomputeSeats_keeps rfl .refl))

theorem arrivedData_route (k v : Nat) (x : Part) :
    (arrivedData k v x).route = { x.route with prog := arrivedAt x.route k v } := by
  rw [route_of_keeps (arrivedData_keeps k v x) (by decide) (by decide), noted_route]

theorem arrivedData_standing (k v : Nat) (x : Part) : (arrivedData k v x).panel.standing = x.panel.standing := by
  have hseats (z : Part) : (recomputeSeats z).panel = z.panel := rfl
  rw [arrivedData, estRecompute_standing, tallyUpdate_standing, hseats, panel_of_keeps (noted_leaves k v x).keeps (by decide)]

theorem arrivedData_orientation {v : Nat} (hroute : routeInForce x.route = x.route.id) :
    ownOrientation (arrivedData k v x) = ownOrientation x := by
  have hkept := arrivedData_keeps k v x
  refine ownOrientation_congr (inForce_arrived (k := k) (v := v) hroute ?_ ?_ ?_ ?_ (arrivedData_route k v x))
  · rw [role_of_keeps hkept (by decide), noted_form]
  · rw [record_of_keeps hkept (by decide), noted_form]
  · rw [qualEnd_of_keeps hkept (by decide), noted_form]
  · rw [unit_of_keeps hkept (by decide), noted_unit]

/-- The standing side is computed at an arrival with a stop ahead, and none is held at the last. -/
theorem takeArrived_standing {v : Nat} (h : k ∈ x.route.ownSeq) (hroute : routeInForce x.route = x.route.id)
    (hnone : x.panel.standing = none) : (takeArrived k v x).panel.standing =
      if (firstAfter x.route.ownSeq k).isSome = true then
        some { p := k, side := physical (sideOf x.route k) (ownOrientation x), pending := decide (ownOrientation x = .unknown) }
      else none := by
  have hdark (z : Part) : (restartStabling z).panel.standing = z.panel.standing := rfl
  have hside (z : Part) : (lightAndCompose {} z).panel.standing = (standingSide (setBrightness (litBrightness z) z)).1 := by
    rw [lightAndCompose_panel]
    rfl
  have hbright (b : Brightness) (z : Part) : standingSide (setBrightness b z) = standingSide z := rfl
  have heq : (takeArrived k v x).panel.standing = (standingSide (arrivedData k v x)).1 := by
    rw [takeArrived_eq h, hdark, hside, hbright]
    rfl
  rw [heq, standingSide, arrivedData_route, arrivedData_standing, hnone, arrivedData_orientation hroute]
  have hp : (arrivedAt x.route k v).p = some k := rfl
  dsimp only
  by_cases hnext : (firstAfter x.route.ownSeq k).isSome = true
  · have hstate : (arrivedAt x.route k v).state = .standing := if_pos hnext
    rw [hstate, hp, if_pos hnext]
    rfl
  · have hstate : (arrivedAt x.route k v).state = .terminated := if_neg hnext
    rw [hstate, hp, if_neg hnext]

theorem physical_table (side : Side) (o : Orientation) : physical side o = (match o, side with
    | .unknown, _ => .none
    | _, .none => .none
    | _, .both => .both
    | .forward, .left => .side1
    | .forward, .right => .side2
    | .reversed, .left => .side2
    | .reversed, .right => .side1) := by
  cases side <;> cases o <;> rfl

/-- Settles O53: the panels are rendered from the part re-evaluated at the new brightness, coach by coach; the tables are read off
case by case; and the Composer of an arrival finds no standing side held. -/
theorem everyPanelShowsItsLevel : Obligations.EveryPanelShowsItsLevel := by
  refine ⟨fun s tag body f h hbody hsmall hf => ?night, fun side o n => ⟨physical_table side o, rfl, rfl, rfl, rfl, rfl, rfl⟩,
    fun s tag body k p t h hbody hk hday ht hsource hstate hp hpk hlen hmem hnone => ?arrival⟩
  case night =>
    intro b g hne
    have hdark : (handed 0x01#8 tag s.part).panel.brightness ≠ nightBrightness f := hne
    have hrelit := (nightChanged_relit hdark).finished tag (e1 10 ++ e2 f)
    obtain ⟨v, hpanel⟩ := hrelit.panel
    refine ⟨_, step_of_night h hbody hsmall hf, by rw [hpanel]; rfl, fun i c hc => ?_⟩
    have hcoach : (handed 0x01#8 tag s.part).unit.coaches[i]? = some c := hc
    intro chosen
    refine ⟨shownBy f (handed 0x01#8 tag s.part) c, by rw [hpanel]; exact lit_coach hcoach, ?_, ?_, ?_, fun a ha hkind e he => ?_⟩
    · exact selected_spec s.part.panel.staff c.booked
    · exact selected_spec s.part.panel.service c.booked
    · exact coachShow_shown _ _ _
    · have hentry : epAt (handed 0x01#8 tag s.part).disp a = some e := he
      have hrendered := hrelit.entries a (coach_endpoint_mem hcoach ha) hkind
      rw [hentry] at hrendered
      have hplace : a.coach = i := coachEndpoints_coach i c a ha
      refine ⟨_, panelContent (lit f (handed 0x01#8 tag s.part)) a, hrendered, rfl, rfl, ?_⟩
      cases hk : a.kind with
      | seat => exact absurd hk hkind
      | interior =>
        obtain ⟨hbright, hlines, harrow⟩ := hrelit.interior (num := a.number) hcoach
        have hcontent : panelContent (lit f (handed 0x01#8 tag s.part)) a =
            interiorContent (lit f (handed 0x01#8 tag s.part)) i a.number := by rw [panelContent, hk, hplace]
        rw [handed_orientation] at harrow
        rw [hcontent]
        exact ⟨hbright, fun _ => ⟨hlines, harrow⟩, nofun⟩
      | exterior =>
        obtain ⟨hbright, harrow, hlines⟩ := hrelit.exterior hcoach
        have hcontent : panelContent (lit f (handed 0x01#8 tag s.part)) a = exteriorContent (lit f (handed 0x01#8 tag s.part)) i := by
          rw [panelContent, hk, hplace]
        rw [hcontent]
        exact ⟨hbright, nofun, fun _ => ⟨harrow, hlines⟩⟩
  case arrival =>
    have hat : k ∈ (handed 0x0F#8 tag s.part).route.ownSeq := hmem
    have hroute : routeInForce (handed 0x0F#8 tag s.part).route = (handed 0x0F#8 tag s.part).route.id := by
      rw [handed_route, routeInForce]
      obtain hs | hs := hstate <;> rw [hs]
    refine ⟨_, step_of_arrived h hbody hk hday ht hsource hstate hp hpk hlen (.inl hmem), ?_⟩
    rw [finish_panel, answer_panel]
    exact takeArrived_standing hat hroute hnone

end Sys2Proof.Proofs.EveryPanel
end
